-- ==== Sys2Proof/Word.lean ====
section
/-! DEFINITION. The word types of the Z8 and their plainest bit tools (R5: bit 0 is the least significant bit). -/

namespace Sys2Proof

/-- A byte (R5). -/
abbrev Byte := BitVec 8
/-- A scalar register's 64 bits (R16). -/
abbrev Word := BitVec 64
/-- A code address: a 57-bit virtual address (R18). -/
abbrev Addr := BitVec 57
/-- A vector register: a little-endian string of 16,384 bits (R172). -/
abbrev VReg := BitVec 16384
/-- A predicate register: one bit for each element position (R22). -/
abbrev PReg := BitVec 2048

/-- Bits `hi:lo` of `w`, read as an unsigned number (R12). -/
def bits (w : BitVec n) (hi lo : Nat) : Nat := (w.toNat >>> lo) % 2 ^ (hi + 1 - lo)

/-- Bit `i` of `w`. -/
def bit (w : BitVec n) (i : Nat) : Bool := w.toNat.testBit i

/-- `sext(v, n)` to 64 bits (R12). -/
def sext64 (v n : Nat) : Word := (BitVec.ofNat n v).signExtend 64

/-- The signed reading of the low `n` bits of `v`. -/
def sint (v n : Nat) : Int := (BitVec.ofNat n v).toInt

/-- One bit as a number. -/
def b2n (b : Bool) : Nat := if b then 1 else 0

end Sys2Proof
end

