-- ==== Sys2Proof/Config.lean ====
section
/-! DEFINITION. The free values: what the spec leaves open in a result. They have no body, so no proof can see them;
each is drawn with the counter `State.free` (log 5). -/

namespace Sys2Proof

/-- A byte that the spec leaves open: the cause of an operator whose tile fails (R422), the position of a valve (R440), and,
at places that the counter never reaches, digests and fuses (R449). -/
opaque Config.freeByte : Nat → BitVec 8

/-- A choice that the spec leaves open: whether a message that is reported lost may still take effect (R237). -/
opaque Config.freeBool : Nat → Bool

end Sys2Proof
end

