-- ==== Sys2Proof/Syntax.lean ====
section
/-! DEFINITION. The instructions of the Z8: one constructor for each row of spec/opcode_table.json.
Rows 0 to 180 are what a stream decodes from parcels (R78 to R96); a full word's constructor holds the fields of its
format (R81). Rows 181 to 324 are the device's events, whose constructors hold what the event needs to be told:
`p` a peer, `t` a tile, `c` a context, `x` the execute stream, `v` a local VF, `q` a partition, queue or command. -/

namespace Sys2Proof

/-- Reg format (R81): pr 61:59, m 58:49, t1 48:45, e, b, a, d. -/
structure RegF where
  stop : Bool
  pr : BitVec 3
  m : BitVec 10
  t1 : BitVec 4
  e : BitVec 8
  b : BitVec 8
  a : BitVec 8
  d : BitVec 8
  deriving DecidableEq, Repr

/-- Imm format (R81): m 63:57, imm 56:33, t1 32:29, a, d. -/
structure ImmF where
  stop : Bool
  m : BitVec 7
  imm : BitVec 24
  t1 : BitVec 4
  a : BitVec 8
  d : BitVec 8
  deriving DecidableEq, Repr

/-- Wide format (R81): imm 52:21, d. -/
structure WideF where
  stop : Bool
  imm : BitVec 32
  d : BitVec 8
  deriving DecidableEq, Repr

/-- Mem format (R81): sp 61, m 60:53, disp 52:41, t1 40:37, b, a, d. -/
structure MemF where
  stop : Bool
  sp : Bool
  m : BitVec 8
  disp : BitVec 12
  t1 : BitVec 4
  b : BitVec 8
  a : BitVec 8
  d : BitVec 8
  deriving DecidableEq, Repr

/-- Eng format (R81): m 62:52, unit 51:49, ri 48, lay 47:45, e, b, a, d. -/
structure EngF where
  stop : Bool
  m : BitVec 11
  unit : BitVec 3
  ri : Bool
  lay : BitVec 3
  e : BitVec 8
  b : BitVec 8
  a : BitVec 8
  d : BitVec 8
  deriving DecidableEq, Repr

/-- Where a host access through the PCIe port goes (R307, R409, R447). -/
inductive HostTarget where
  /-- the launch window of a local VF (R307) -/
  | window (vf : Nat)
  /-- device memory: a physical address of the die's local DRAM, for a local VF (R409) -/
  | memory (vf : Nat)
  /-- the die's driver windows, an offset within the die's 4 MiB of BAR2 (R447) -/
  | driver
  /-- the PF's BAR0, which holds `BOOTST` (R447) -/
  | pf
  deriving DecidableEq, Repr

/-- One network packet as a receiver sees it (R378 to R382). -/
structure NetPacket where
  /-- 0 send, 1 write, 2 the data of a read, 3 a read asked for (R379) -/
  op : Nat
  notify : Bool
  /-- the sender's endpoint index in the partition's table (R381) -/
  ep : Nat
  /-- the job identifier that the packet carries (R378) -/
  job : Nat
  rkey : Nat
  raddr : Nat
  /-- the request's identity, and for a send the identity of the send of its queue to its endpoint that it must follow (R378, R381) -/
  req : Nat
  after : Option Nat := none
  /-- the request's total length and this packet's offset in it -/
  len : Nat
  off : Nat
  imm : BitVec 64
  data : List (BitVec 8)
  deriving DecidableEq, Repr

/-- The rows of spec/opcode_table.json, in its order. -/
inductive Instr where
  /-- `NOP` (R88). Full-word NOP idles the stream for n tile cycles and changes no state but PC. -/
  | nop (f : WideF)
  /-- `NOP_SHORT` (R73). Short NOP parcel idles the stream for 1 to 16 tile cycles. -/
  | nopShort (stop : Bool) (n : BitVec 4)
  /-- `REP` (R86). Repeat prefix issues the following lone instruction count times, stepping the masked register fields by the stride. -/
  | rep (c : BitVec 6) (m : BitVec 4) (s : BitVec 2)
  /-- `DICTIONARY_PARCEL` (R85). Dictionary parcel executes the 64-bit word held in the indexed dictionary-table entry with its own stop bit. -/
  | dictionaryParcel (stop : Bool) (i : BitVec 10)
  /-- `ADD` (R100). Adds two scalar registers at the type width. -/
  | add (f : RegF)
  /-- `SUB` (R100). Subtracts two scalar registers at the type width. -/
  | sub (f : RegF)
  /-- `MUL` (R100). Multiplies two scalar registers, keeping the low bits. -/
  | mul (f : RegF)
  /-- `MULH` (R100). Writes the high half of the signed product. -/
  | mulh (f : RegF)
  /-- `MULHN` (R100). Writes the high half of the unsigned product. -/
  | mulhn (f : RegF)
  /-- `DIV` (R101). Signed division truncating towards zero, never trapping, holding the S slot for 7 cycles. -/
  | div (f : RegF)
  /-- `DIVN` (R101). Unsigned division, never trapping. -/
  | divn (f : RegF)
  /-- `REM` (R101). Signed remainder taking the dividend's sign. -/
  | rem (f : RegF)
  /-- `REMN` (R101). Unsigned remainder. -/
  | remn (f : RegF)
  /-- `MIN` (R100). Signed lesser of two registers. -/
  | min (f : RegF)
  /-- `MAX` (R100). Signed greater of two registers. -/
  | max (f : RegF)
  /-- `MINN` (R100). Unsigned lesser of two registers. -/
  | minn (f : RegF)
  /-- `MAXN` (R100). Unsigned greater of two registers. -/
  | maxn (f : RegF)
  /-- `AND` (R100). Bitwise AND of two registers. -/
  | and (f : RegF)
  /-- `OR` (R100). Bitwise OR of two registers. -/
  | or (f : RegF)
  /-- `XOR` (R100). Bitwise XOR of two registers. -/
  | xor (f : RegF)
  /-- `SHL` (R102). Left shift by an unmasked 8-bit amount. -/
  | shl (f : RegF)
  /-- `SHR` (R102). Logical right shift by an unmasked 8-bit amount. -/
  | shr (f : RegF)
  /-- `SRA` (R102). Arithmetic right shift by an unmasked 8-bit amount. -/
  | sra (f : RegF)
  /-- `ADDX` (R103). Address arithmetic adding an extended, shifted index to a 64-bit base. -/
  | addx (f : RegF)
  /-- `SEL` (R108). Selects one of two registers by a steer register's condition. -/
  | sel (f : RegF)
  /-- `CLZ` (R105). Counts leading zeros at the type width. -/
  | clz (f : RegF)
  /-- `CTZ` (R105). Counts trailing zeros at the type width. -/
  | ctz (f : RegF)
  /-- `POPC` (R105). Counts one bits at the type width. -/
  | popc (f : RegF)
  /-- `ADDI` (R104). Adds a sign-extended 24-bit immediate. -/
  | addi (f : ImmF)
  /-- `ANDI` (R104). ANDs with a sign-extended immediate. -/
  | andi (f : ImmF)
  /-- `ORI` (R104). ORs with a sign-extended immediate. -/
  | ori (f : ImmF)
  /-- `XORI` (R104). XORs with a sign-extended immediate. -/
  | xori (f : ImmF)
  /-- `SHLI` (R104). Left shift by an immediate amount. -/
  | shli (f : ImmF)
  /-- `SHRI` (R104). Logical right shift by an immediate amount. -/
  | shri (f : ImmF)
  /-- `SRAI` (R104). Arithmetic right shift by an immediate amount. -/
  | srai (f : ImmF)
  /-- `BEXT` (R106). Extracts a bit field and extends it. -/
  | bext (f : ImmF)
  /-- `BINS` (R106). Inserts low bits of a register into a bit field of the destination. -/
  | bins (f : ImmF)
  /-- `MOVI` (R107). Writes a sign-extended 32-bit immediate. -/
  | movi (f : WideF)
  /-- `MOVH` (R107). Writes the upper 32 bits of a register from an immediate. -/
  | movh (f : WideF)
  /-- `CMP` (R109). Compares two registers and writes a steer register's condition. -/
  | cmp (f : RegF)
  /-- `CMPI` (R109). Compares a register with an immediate and writes a steer condition. -/
  | cmpi (f : ImmF)
  /-- `PREP` (R110). Writes a PC-relative target into a steer register and starts its fetch. -/
  | prep (f : WideF)
  /-- `PREPX` (R110). Writes a register target into a steer register and starts its fetch. -/
  | prepx (f : RegF)
  /-- `BR` (R111). Transfers to the steer target when its condition is 1. -/
  | br (f : RegF)
  /-- `BRF` (R111). Transfers to the steer target when its condition is 0. -/
  | brf (f : RegF)
  /-- `JMP` (R111). Transfers to the steer target unconditionally. -/
  | jmp (f : RegF)
  /-- `CALL` (R111). Writes the return address and transfers to the steer target. -/
  | call (f : RegF)
  /-- `RET` (R111). Transfers to the steer target, marked as a return. -/
  | ret (f : RegF)
  /-- `BQPOP` (R113). Pops the oldest branch-outcome bit of BQ into a steer condition. -/
  | bqpop (f : RegF)
  /-- `LOOPSET` (R116). Sets LCTL for a software-pipelined loop of S stages and T iterations. -/
  | loopset (f : ImmF)
  /-- `BRLOOP` (R117). Steps the pipelined loop state and branches back, or ends the loop. -/
  | brloop (f : RegF)
  /-- `QPUSH` (R114). Pushes a 64-bit value or branch bit to an inter-stream queue. -/
  | qpush (f : RegF)
  /-- `QPOP` (R114). Pops the oldest entry of an AQ queue or EQ0. -/
  | qpop (f : RegF)
  /-- `LD` (R124). Loads an integer from global memory or scratchpad, honouring the full bit mode. -/
  | ld (f : MemF)
  /-- `ST` (R124). Stores an integer to global memory or scratchpad. -/
  | st (f : MemF)
  /-- `LDQ` (R127). Reserves a queue entry and loads a value into it for the execute stream. -/
  | ldq (f : MemF)
  /-- `VLD` (R128). Loads the vector register's active elements from scratchpad, waiting for full lines. -/
  | vld (f : MemF)
  /-- `VST` (R128). Stores the vector register's active elements to scratchpad. -/
  | vst (f : MemF)
  /-- `ATOM` (R130). Performs an indivisible integer read-modify-write. -/
  | atom (f : MemF)
  /-- `CAS` (R131). Compares and swaps a memory location. -/
  | cas (f : MemF)
  /-- `ATOMF` (R132). Performs an indivisible floating-point add, min or max. -/
  | atomf (f : MemF)
  /-- `FENCE` (R134). Orders the stream's own accesses at a scope, stalling until the condition holds. -/
  | fence (f : ImmF)
  /-- `ACQ` (R137). Requests a sync object in exclusive or shared mode. -/
  | acq (f : ImmF)
  /-- `REL` (R138). Writes back dirty lines, waits for earlier writes and gives up a sync-object hold. -/
  | rel (f : ImmF)
  /-- `BIND` (R136). Adds a region to a sync object. -/
  | bind (f : RegF)
  /-- `UNBIND` (R136). Removes a region from a sync object. -/
  | unbind (f : RegF)
  /-- `PUBLISH` (R139). Releases a versioned buffer by swapping its copies and incrementing its version. -/
  | publish (f : ImmF)
  /-- `WAITV` (R140). Waits until a buffer's version reaches a value, then acquires. -/
  | waitv (f : ImmF)
  /-- `CINC` (R141). Adds to a completion counter as a tile-scope release. -/
  | cinc (f : ImmF)
  /-- `LNSET` (R142). Sets a scratchpad line's full bit. -/
  | lnset (f : MemF)
  /-- `LNCLR` (R142). Clears a scratchpad line's full bit. -/
  | lnclr (f : MemF)
  /-- `LNPEEK` (R142). Reads a scratchpad line's metadata without stalling. -/
  | lnpeek (f : MemF)
  /-- `VADD` (R150). Elementwise vector add. -/
  | vadd (f : RegF)
  /-- `VSUB` (R150). Elementwise vector subtract. -/
  | vsub (f : RegF)
  /-- `VMUL` (R150). Elementwise vector multiply. -/
  | vmul (f : RegF)
  /-- `VFMA` (R151). Elementwise fused multiply-add. -/
  | vfma (f : RegF)
  /-- `VFMS` (R151). Elementwise fused multiply-subtract. -/
  | vfms (f : RegF)
  /-- `VMIN` (R150). Elementwise minimum. -/
  | vmin (f : RegF)
  /-- `VMAX` (R150). Elementwise maximum. -/
  | vmax (f : RegF)
  /-- `VABS` (R150). Elementwise absolute value. -/
  | vabs (f : RegF)
  /-- `VNEG` (R150). Elementwise negation. -/
  | vneg (f : RegF)
  /-- `VAND` (R152). Elementwise bitwise AND. -/
  | vand (f : RegF)
  /-- `VOR` (R152). Elementwise bitwise OR. -/
  | vor (f : RegF)
  /-- `VXOR` (R152). Elementwise bitwise XOR. -/
  | vxor (f : RegF)
  /-- `VNOT` (R152). Elementwise bitwise NOT. -/
  | vnot (f : RegF)
  /-- `VSHL` (R153). Elementwise left shift. -/
  | vshl (f : RegF)
  /-- `VSHR` (R153). Elementwise logical right shift. -/
  | vshr (f : RegF)
  /-- `VSRA` (R153). Elementwise arithmetic right shift. -/
  | vsra (f : RegF)
  /-- `VCMP` (R154). Elementwise compare writing a predicate. -/
  | vcmp (f : RegF)
  /-- `VSEL` (R155). Elementwise select by a predicate. -/
  | vsel (f : RegF)
  /-- `VBCAST` (R156). Broadcasts a scalar into every sub-element. -/
  | vbcast (f : RegF)
  /-- `VROWB` (R156). Broadcasts column 0 across each row. -/
  | vrowb (f : RegF)
  /-- `VCOLB` (R156). Broadcasts row 0 down each column. -/
  | vcolb (f : RegF)
  /-- `VRSUM` (R157). Sums each row in fixed order into column 0. -/
  | vrsum (f : RegF)
  /-- `VRMAX` (R157). Takes each row's maximum into column 0. -/
  | vrmax (f : RegF)
  /-- `VCSUM` (R157). Sums each column in fixed order into row 0. -/
  | vcsum (f : RegF)
  /-- `VCMAX` (R157). Takes each column's maximum into row 0. -/
  | vcmax (f : RegF)
  /-- `VTRANS` (R158). Transposes a vector register. -/
  | vtrans (f : RegF)
  /-- `VSHUF` (R159). Permutes elements by 16-bit indices. -/
  | vshuf (f : RegF)
  /-- `VIOTA` (R160). Writes position, row or column indices. -/
  | viota (f : RegF)
  /-- `VMOVS` (R161). Moves one vector element to a scalar register. -/
  | vmovs (f : RegF)
  /-- `VINS` (R161). Inserts a scalar into one vector element. -/
  | vins (f : RegF)
  /-- `VSHAPE` (R162). Writes the VSHAPE register from an immediate. -/
  | vshape (f : ImmF)
  /-- `VEXP2` (R163). Elementwise correctly rounded 2^x. -/
  | vexp2 (f : RegF)
  /-- `VLOG2` (R163). Elementwise correctly rounded log2. -/
  | vlog2 (f : RegF)
  /-- `VRCP` (R163). Elementwise correctly rounded reciprocal. -/
  | vrcp (f : RegF)
  /-- `VRSQ` (R163). Elementwise correctly rounded reciprocal square root. -/
  | vrsq (f : RegF)
  /-- `PAND` (R164). Predicate AND. -/
  | pand (f : RegF)
  /-- `POR` (R164). Predicate OR. -/
  | por (f : RegF)
  /-- `PXOR` (R164). Predicate XOR. -/
  | pxor (f : RegF)
  /-- `PANDN` (R164). Predicate AND-NOT. -/
  | pandn (f : RegF)
  /-- `PNOT` (R164). Predicate NOT. -/
  | pnot (f : RegF)
  /-- `PSET` (R164). Sets the low k predicate bits. -/
  | pset (f : ImmF)
  /-- `PCNT` (R164). Counts set predicate bits below N into a scalar. -/
  | pcnt (f : RegF)
  /-- `CSPUSH` (R166). Appends selected elements to the lanes of a conditional-stream buffer. -/
  | cspush (f : RegF)
  /-- `CSPOP` (R167). Removes each lane's head record into the vector register. -/
  | cspop (f : RegF)
  /-- `CSBAL` (R168). Rebalances or clears a conditional-stream buffer. -/
  | csbal (f : RegF)
  /-- `VDOT4` (R170). Four-way byte dot product accumulated into 32 bits. -/
  | vdot4 (f : RegF)
  /-- `CVT` (R176). Converts each vector element between types. -/
  | cvt (f : RegF)
  /-- `CVTI` (R177). Converts one scalar value between types. -/
  | cvti (f : RegF)
  /-- `XUNP` (R178). Unpacks narrow codes with e8m0 block scales. -/
  | xunp (f : RegF)
  /-- `XPACK` (R179). Packs values into narrow codes under e8m0 block scales. -/
  | xpack (f : RegF)
  /-- `XSCALE` (R180). Applies per-block e8m0 scales from a vector register. -/
  | xscale (f : RegF)
  /-- `XFP6J` (R181). Joins FP6 nibble and pair planes and converts. -/
  | xfp6j (f : RegF)
  /-- `XFP6S` (R182). Converts to FP6 and splits into two planes. -/
  | xfp6s (f : RegF)
  /-- `XSHDEC` (R184). Decodes sheaf planes at depth 2, 4 or 8. -/
  | xshdec (f : RegF)
  /-- `XSHENC` (R183). Encodes values into the three sheaf planes. -/
  | xshenc (f : RegF)
  /-- `MNEST` (R197). Writes one slot of an array half's shadow nest table. -/
  | mnest (f : EngF)
  /-- `MGO` (R198). Queues a loop nest of plane loads and matrix multiplies. -/
  | mgo (f : EngF)
  /-- `LDSTAT` (R193). Queues a load of a stationary plane from scratchpad. -/
  | ldstat (f : EngF)
  /-- `MPLANE` (R194). Changes the plane map bit of the named halves at issue. -/
  | mplane (f : EngF)
  /-- `MMA` (R195). Queues a stream of activation rows through a plane into an accumulator tile. -/
  | mma (f : EngF)
  /-- `ATTN` (R204). Queues a fused attention pass through both arrays and the softmax stage. -/
  | attn (f : EngF)
  /-- `ACLR` (R199). Queues clearing of an accumulator tile and its row statistics. -/
  | aclr (f : EngF)
  /-- `ARD` (R201). Queues a drain of accumulator rows to scratchpad with optional scaling. -/
  | ard (f : EngF)
  /-- `AWR` (R200). Queues a write of accumulator rows from scratchpad. -/
  | awr (f : EngF)
  /-- `ASCL` (R202). Queues an in-place scaling of FP32 accumulator rows. -/
  | ascl (f : EngF)
  /-- `MSMX` (R205). Queues softmax finalisation or loading of row statistics. -/
  | msmx (f : EngF)
  /-- `CNEST` (R213). Writes one slot of the copy engine's shadow nest table. -/
  | cnest (f : EngF)
  /-- `CGO` (R214). Queues a copy loop nest, optionally by sheaf plane. -/
  | cgo (f : EngF)
  /-- `CPY` (R215). Queues a copy between engine addresses. -/
  | cpy (f : EngF)
  /-- `GATH` (R216). Queues a gather of records through an index list. -/
  | gath (f : EngF)
  /-- `SCAT` (R216). Queues a scatter of records through an index list. -/
  | scat (f : EngF)
  /-- `DECOMP` (R218). Queues inline decompression of a block stream into scratchpad lines. -/
  | decomp (f : EngF)
  /-- `SLABMV` (R219). Queues the relocation of a KV slab to a new location of double size. -/
  | slabmv (f : EngF)
  /-- `DSEND` (R220). Queues the deferred hand-over of a range to a holder by stub. -/
  | dsend (f : EngF)
  /-- `SPULL` (R221). Queues pulls of the unpulled tiles of a stub range. -/
  | spull (f : EngF)
  /-- `SDROP` (R221). Queues freeing of a stub entry and release of its unpulled tiles. -/
  | sdrop (f : EngF)
  /-- `SFWD` (R222). Queues forwarding of a stub to a new holder. -/
  | sfwd (f : EngF)
  /-- `MCST` (R223). Queues a store of whole lines to every member of a multicast group. -/
  | mcst (f : EngF)
  /-- `FRED` (R224). Queues a fabric reduction of up to 64 elements over a group. -/
  | fred (f : EngF)
  /-- `TIERPF` (R225). Queues a tier prefetch hint for a range. -/
  | tierpf (f : EngF)
  /-- `NVRD` (R226). Queues an NVMe Read on a chip-owned queue pair. -/
  | nvrd (f : EngF)
  /-- `NVWR` (R226). Queues an NVMe Write, or a Flush when flush is set. -/
  | nvwr (f : EngF)
  /-- `NETQ` (R227). Queues one network work request on a send queue. -/
  | netq (f : EngF)
  /-- `WAITB` (R230). Waits until a completion counter reaches a threshold, then acquires. -/
  | waitb (f : ImmF)
  /-- `ENQR` (R232). Pushes a command block into an engine queue of another tile. -/
  | enqr (f : RegF)
  /-- `JOIN` (R233). Creates or joins a group. -/
  | join (f : ImmF)
  /-- `LEAVE` (R233). Leaves a group. -/
  | leave (f : ImmF)
  /-- `GBAR` (R234). Arrives at a group barrier and waits for its generation. -/
  | gbar (f : ImmF)
  /-- `TSTART` (R235). Starts a free context of the kernel on a tile. -/
  | tstart (f : RegF)
  /-- `TEXIT` (R236). Ends the stream without marking work done. -/
  | texit (f : RegF)
  /-- `DORM` (R236). Ends the stream so the context may become dormant. -/
  | dorm (f : RegF)
  /-- `HMSG` (R237). Sends a handler message that starts a tiller thread at the target tile. -/
  | hmsg (f : RegF)
  /-- `SEQ_TREE` (R240). Registers a draft token tree for a request slot. -/
  | seqTree (f : RegF)
  /-- `SEQ_CHECK` (R241). Registers check records for the slot's tree. -/
  | seqCheck (f : RegF)
  /-- `SEQ_WINNOW` (R242). Applies the acceptance rule and writes the accepted path and bonus. -/
  | seqWinnow (f : RegF)
  /-- `SEQ_ROLL` (R243). Compacts accepted KV entries and commits length, or rolls back length. -/
  | seqRoll (f : RegF)
  /-- `SEQ_PREEMPT` (R244). Parks one request, optionally demoting its slabs. -/
  | seqPreempt (f : RegF)
  /-- `SEQ_RESUME` (R244). Returns a parked request to idle, restoring demoted slabs. -/
  | seqResume (f : RegF)
  /-- `SEQ_STAT` (R244). Reads a slot's status word, length or pending token. -/
  | seqStat (f : RegF)
  /-- `RESV` (R245). Selects a current-profile entry for commands or requests a vector-pipe grant. -/
  | resv (f : RegF)
  /-- `FLOWQ` (R246). Requests a coolant boost for a zone. -/
  | flowq (f : RegF)
  /-- `GETC` (R247). Reads a control register. -/
  | getc (f : ImmF)
  /-- `SETC` (R247). Writes a control register under its map; the step for every register write without a row of its own. -/
  | setc (f : ImmF)
  /-- `TRAP` (R248). Raises SOFT_TRAP with a detail number. -/
  | trap (f : ImmF)
  /-- `ERET` (R265). Returns from trap mode, unfreezing the other stream and restarting snapshot countdowns. -/
  | eret (f : RegF)
  /-- `YIELD` (R238). Holds the stream until other eligible contexts have issued or 8 cycles pass. -/
  | yield (f : RegF)
  /-- `OPEND` (R236). Waits for the context's engine commands, then ends the stream with work done. -/
  | opend (f : RegF)
  /-- `TLBI` (R249). Invalidates cached translations of the partition within a scope. -/
  | tlbi (f : RegF)
  /-- `CKPT` (R250). Writes a partition checkpoint record when no operator runs. -/
  | ckpt (f : RegF)
  /-- `RESULT_WRITEBACK` (R149). A result's exposed latency elapses and it is written to its register, shifting the last-result file where due. -/
  | resultWriteback (p t c : Nat)
  /-- `QUEUE_ENTRY_PRESENT` (R19). A pushed queue entry becomes present four tile cycles after its push. -/
  | queueEntryPresent (p t c q : Nat)
  /-- `QUEUE_PLACE_FREED` (R19). A popped entry's place is freed four tile cycles after the pop. -/
  | queuePlaceFreed (p t c q : Nat)
  /-- `GLOBAL_LOAD_DATA_ARRIVAL` (R126). Data of an outstanding global load or atomic arrives, possibly poisoned. -/
  | globalLoadDataArrival (p t c : Nat) (x poisoned : Bool)
  /-- `LDQ_ENTRY_FILL` (R127). An LDQ entry is filled when its line becomes full or its data arrives. -/
  | ldqEntryFill (p t c q : Nat)
  /-- `STALLED_READ_PROCEEDS` (R125). A stalled wait or take read proceeds in the cycle after its line becomes full. -/
  | stalledReadProceeds (p t c : Nat) (x : Bool)
  /-- `WAIT_TIMEOUT` (R19). A wait limited by WAITTO expires and the stream raises WAIT_TIMEOUT. -/
  | waitTimeout (p t c : Nat) (x : Bool)
  /-- `WAIT_ORPHAN` (R231). A counter wait becomes hopeless and raises WAIT_ORPHAN. -/
  | waitOrphan (p t c : Nat) (x : Bool)
  /-- `WAITB_PASS` (R230). A waiting WAITB sees its counter reach the threshold and continues as an acquire. -/
  | waitbPass (p t c : Nat) (x : Bool)
  /-- `WAITV_PASS` (R140). A waiting WAITV sees the buffer version reach its value. -/
  | waitvPass (p t c : Nat) (x : Bool)
  /-- `PUBLISH_SWAP` (R139). A stalled PUBLISH completes its wait and swaps the buffer mapping. -/
  | publishSwap (p t c : Nat) (x : Bool)
  /-- `ACQ_GRANT` (R137). The home die grants a sync-object request and the context's cached remote lines are invalidated. -/
  | acqGrant (p o : Nat)
  /-- `GBAR_GENERATION_COMPLETE` (R234). Every required stream has arrived and all arrived streams continue. -/
  | gbarGenerationComplete (p g : Nat)
  /-- `ASYNC_INTERRUPT` (R267). An asynchronous cause is delivered to a context at its next bundle boundary. -/
  | asyncInterrupt (p t c cause : Nat)
  /-- `TIMING_REPLAY` (R414). A failed timing check stalls the context and re-executes the bundle's computation. -/
  | timingReplay (p t c fails : Nat)
  /-- `OPERATOR_END` (R236). An operator ends once no context runs, no claim waits and its work is done. -/
  | operatorEnd (p o : Nat)
  /-- `TILLER_THREAD_START` (R259). A dormant context is started as a tiller thread for a waiting message or multicast. -/
  | tillerThreadStart (p t : Nat)
  /-- `HANDLER_MESSAGE_RECEIVE` (R237). A receiving tile writes a handler message payload and starts or queues its thread. -/
  | handlerMessageReceive (p : Nat)
  /-- `ENQR_ACCEPT` (R232). A target tile accepts an enqueued command block into an engine queue. -/
  | enqrAccept (p t : Nat)
  /-- `ENGINE_COMMAND_START` (R187). An array command at the head of its queues starts once ranges, current and planes allow. -/
  | engineCommandStart (p t q : Nat)
  /-- `COPY_COMMAND_START` (R207). A copy-engine command at the queue head starts once ranges and current allow. -/
  | copyCommandStart (p t q : Nat)
  /-- `ENGINE_COMMAND_RETIRE` (R189). An array command retires, incrementing its counter and releasing its current. -/
  | engineCommandRetire (p t q : Nat)
  /-- `COPY_COMMAND_RETIRE` (R210). A copy command retires once its writes are performed, incrementing its counter. -/
  | copyCommandRetire (p t q : Nat)
  /-- `ENGINE_LINE_FILL_RESUME` (R190). An engine fetch stalled on an empty line proceeds when the line fills. -/
  | engineLineFillResume (p t q : Nat)
  /-- `BACKPRESSURE_WRITE_RESUME` (R305). A back-pressured engine write proceeds in the cycle after its line's full bit clears. -/
  | backpressureWriteResume (p t q : Nat)
  /-- `SLAB_MOVE_PIECE` (R219). A slab move copies one piece of positions and advances its boundary. -/
  | slabMovePiece (p t q : Nat)
  /-- `LAUNCH_TAG_WRITE` (R309). The write completing a launch slot's tag word starts and accepts a launch. -/
  | launchTagWrite (p v n : Nat)
  /-- `LAUNCH_COMPLETE` (R310). A launch completes and its completion write, status and interrupt are made. -/
  | launchComplete (p q : Nat)
  /-- `OPERATOR_DISPATCH` (R315). A ready operator is dispatched to free tiles in scheduling order. -/
  | operatorDispatch (p q : Nat)
  /-- `STAGE_FIRST_INPUT` (R317). A stage gains a context when its input queue first becomes non-empty. -/
  | stageFirstInput (p o g : Nat)
  /-- `SQIN` (R320). A read of SQIN pops the stage input queue or signals release or close. -/
  | sqin (d : BitVec 8)
  /-- `SQOUT` (R320). A write of SQOUT pushes a value to the stage output queue. -/
  | sqout (a : BitVec 8)
  /-- `REBINDING_INTERVAL` (R321). Every 10 µs the scheduler releases or adds one context per stage. -/
  | rebindingInterval (p : Nat)
  /-- `PERIOD_START` (R316). Every 1 µs deficits rise by their quanta and vector budgets and partition budgets renew. -/
  | periodStart (p : Nat)
  /-- `DISPATCH_AGE_LIMIT` (R316). A ready operator that has waited 200 µs is ordered as level 0. -/
  | dispatchAgeLimit (p q : Nat)
  /-- `GANG_TICK` (R325). At a gang tick dispatch of outgoing VFs stops. -/
  | gangTick (p q : Nat)
  /-- `GANG_SWITCH` (R325). 25 µs after the tick, outgoing operators are aborted and incoming VFs may dispatch. -/
  | gangSwitch (p q : Nat)
  /-- `OVERRUN` (R322). 400 µs after dispatch a running operator raises OVERRUN in its contexts. -/
  | overrun (p o : Nat)
  /-- `OVERRUN_ABORT` (R322). 100 µs after OVERRUN an unfinished operator is aborted and its entry fails. -/
  | overrunAbort (p o : Nat)
  /-- `ZMON_RELEASE` (R413). zmon releases a stopped context and its operator is aborted. -/
  | zmonRelease (p t c : Nat)
  /-- `ALLOC` (R331). SMCMD op ALLOC takes the lowest free request slot. -/
  | alloc (w : BitVec 64)
  /-- `FREE` (R331). SMCMD op FREE frees a slot with its slabs and swap blocks. -/
  | free (w : BitVec 64)
  /-- `RULE` (R331). SMCMD op RULE sets a slot's rule and priority. -/
  | rule (w : BitVec 64)
  /-- `SLABNEW` (R331). SMCMD op SLABNEW allocates a zeroed slab under the tier quota. -/
  | slabnew (w : BitVec 64)
  /-- `SLABFREE` (R331). SMCMD op SLABFREE frees a slab. -/
  | slabfree (w : BitVec 64)
  /-- `RECLAIM_TIMEOUT` (R341). After 1 ms an unmet claim pre-empts the lender's requests. -/
  | reclaimTimeout (p tier : Nat)
  /-- `CLAIM_MET` (R341). Returned pages cover a waiting claim and the waiting command completes. -/
  | claimMet (p tier : Nat)
  /-- `SM_PREEMPT_APPLY` (R343). A sequence-manager pre-emption takes effect, demoting or aborting the request. -/
  | smPreemptApply (p n : Nat)
  /-- `NVME_COMPLETION` (R226). An NVMe completion entry arrives and its command retires. -/
  | nvmeCompletion (p t q status : Nat) (data : List (BitVec 8))
  /-- `NVME_COMMAND_TIMEOUT` (R346). After 1 s firmware aborts an outstanding NVMe command. -/
  | nvmeCommandTimeout (p t q : Nat)
  /-- `PAGE_WALK` (R351). A translation miss walks the radix table and returns a leaf or XLATE_FAULT. -/
  | pageWalk (p t v : Nat) (va : BitVec 64)
  /-- `PAGE_MIGRATION` (R354). A migrate-mode page reaching its count is copied locally and its leaf rewritten. -/
  | pageMigration (p v : Nat) (va : BitVec 64)
  /-- `SLOT_ARRIVAL` (R364). A fabric slot reaches its destination station and is taken or refused into the reserve. -/
  | slotArrival (p : Nat) (full : Bool)
  /-- `FLIT_RESEND` (R362). A flit whose link code fails is sent again across the hop. -/
  | flitResend (p : Nat)
  /-- `STARVATION_LIMIT` (R367). A tier's starvation counter reaches its limit and takes the next empty position. -/
  | starvationLimit (p tier : Nat)
  /-- `READ_REQUEST` (R369). A remote read request is served at the home. -/
  | readRequest (p : Nat)
  /-- `READ_RESPONSE` (R369). A remote read response arrives and completes the load. -/
  | readResponse (p : Nat)
  /-- `WRITE` (R369). A remote posted write is performed at the home and acknowledged. -/
  | write (p : Nat)
  /-- `WRITE_ACK` (R369). A write acknowledgement arrives at the source. -/
  | writeAck (p : Nat)
  /-- `ATOMIC` (R133). A remote atomic is performed at the home. -/
  | atomic (p : Nat)
  /-- `ATOMIC_RESPONSE` (R369). An atomic response returns the old value. -/
  | atomicResponse (p : Nat)
  /-- `NACK` (R368). A nack arrives and the requester faults by its reason. -/
  | nack (p : Nat)
  /-- `REQUEST_TIMEOUT` (R370). A request without response for 100 µs is treated as nacked with reason 4. -/
  | requestTimeout (p tag : Nat)
  /-- `MULTICAST_WRITE` (R375). A member station checks and writes multicast lines and answers an ack. -/
  | multicastWrite (p : Nat)
  /-- `MULTICAST_ACK` (R375). A station merges multicast acks and the source writes the acknowledgement line. -/
  | multicastAck (p : Nat)
  /-- `REDUCTION_CONTRIBUTION` (R376). A reduction contribution or partial is combined exactly at a station. -/
  | reductionContribution (p : Nat)
  /-- `SYNC_REQUEST` (R137). A sync-object request arrives at its home table. -/
  | syncRequest (p : Nat)
  /-- `CONTROL` (R374). A group-edit control slot is applied at a station. -/
  | control (p : Nat)
  /-- `CREATE` (R373). MGCMD op CREATE takes the lowest free multicast group. -/
  | create (w : BitVec 64)
  /-- `MG_FREE` (R373). MGCMD op FREE invalidates a group and its handler entries. -/
  | mgFree (w : BitVec 64)
  /-- `ADD_MEMBER` (R373). MGCMD op ADD sets a member bit. -/
  | addMember (w : BitVec 64)
  /-- `DEL` (R373). MGCMD op DEL clears a member bit. -/
  | del (w : BitVec 64)
  /-- `HANDLER` (R404). MGCMD op HANDLER writes this die's handler entry for a group. -/
  | handler (w : BitVec 64)
  /-- `QUERY` (R373). MGCMD op QUERY reports a group's count and a peer's membership. -/
  | query (w : BitVec 64)
  /-- `NET_PACKET_RECEIVE` (R380). A network packet is placed at the receiver or refused. -/
  | netPacketReceive (p q : Nat) (k : NetPacket)
  /-- `NET_RETRANSMIT_TIMEOUT` (R380). An unacknowledged packet is sent again, failing the request after 8 tries; the packet is named
  by its command × 2^20 and its place in the request. -/
  | netRetransmitTimeout (p t q : Nat)
  /-- `NET_SPACE_TIMEOUT` (R382). A request refused for ring space for 1 s records NET_ERROR. -/
  | netSpaceTimeout (p t q : Nat)
  /-- `NET_REQUEST_COMPLETE` (R380). Every byte of a network request is acknowledged and NETQ retires. -/
  | netRequestComplete (p t q : Nat)
  /-- `NET_RECORD_COMPLETE` (R381). All bytes of a receive record are placed and the receive handler thread starts. -/
  | netRecordComplete (p q : Nat)
  /-- `NRXHEAD_WRITE` (R382). A write of NRXHEAD consumes receive-ring records. -/
  | nrxheadWrite (a : BitVec 8)
  /-- `STUB` (R386). A holder die checks and accepts or refuses an arriving stub. -/
  | stub (p : Nat)
  /-- `STUB_TOUCH` (R387). A read meeting a live stub leaf sends a pull request and waits. -/
  | stubTouch (p v : Nat) (va : BitVec 64)
  /-- `PULL_REQUEST` (R388). The owner serves a pull with hold-point data or nacks it. -/
  | pullRequest (p : Nat)
  /-- `PULL_RESPONSE` (R387). The holder writes a pulled tile, rewrites its leaf and acknowledges. -/
  | pullResponse (p : Nat)
  /-- `PULL_ACK` (R388). The owner releases an acknowledged tile and lets stalled writes proceed. -/
  | pullAck (p : Nat)
  /-- `REPOINT_SLOT` (R222). The owner re-points a hold entry to a new holder. -/
  | repointSlot (p : Nat)
  /-- `STUB_RELEASE_SLOT` (R391). The owner receives a release and frees the tiles or entry. -/
  | stubReleaseSlot (p : Nat)
  /-- `STUB_RENEWAL` (R391). Every 100 ms a live stub entry sends a renewal. -/
  | stubRenewal (p k : Nat)
  /-- `RENEWAL_RECEIVE` (R400). The owner records and acknowledges a renewal. -/
  | renewalReceive (p : Nat)
  /-- `HOLDER_LEASE_EXPIRY` (R391). With no renewal acknowledged for 500 ms the holder marks its stub broken. -/
  | holderLeaseExpiry (p k : Nat)
  /-- `OWNER_LEASE_EXPIRY` (R391). An entry unrenewed for 1,000 ms releases every tile at the owner. -/
  | ownerLeaseExpiry (p k : Nat)
  /-- `RELEASE_RESEND` (R391). Every 100 ms an unacknowledged release or re-pointing is sent again, up to 1,000 ms. -/
  | releaseResend (p k : Nat)
  /-- `HOLD_STALL` (R389). An owner-die store waiting on a held tile reaches WAITTO and raises HOLD_STALL. -/
  | holdStall (p t c : Nat) (x : Bool)
  /-- `HOLD_KEEPALIVE` (R389). Every 50 µs the owner restarts a remote writer's response timer. -/
  | holdKeepalive (p : Nat)
  /-- `STUB_BIND` (R393). A STBIND write with bind 1 binds a stub entry to a request slot. -/
  | stubBind (w : BitVec 64)
  /-- `STUB_UNBIND` (R393). A STBIND write with bind 0 unbinds a stub entry. -/
  | stubUnbind (w : BitVec 64)
  /-- `FREC_CLEAR` (R271). Clearing valid of an engine fault record clears the whole record. -/
  | frecClear (k : Nat)
  /-- `HEARTBEAT` (R421). Every 1 ms each die sends a heartbeat to its ring neighbours. -/
  | heartbeat (p : Nat)
  /-- `DIE_FAILURE` (R421). A die is declared failed and recovery fences, remaps and restores. -/
  | dieFailure (p : Nat)
  /-- `TILE_FAILURE` (R422). A tile whose engines fail leaves binding and its operator fails. -/
  | tileFailure (p t : Nat)
  /-- `MEMORY_ECC_ERROR` (R410). A DRAM or SRAM ECC error is corrected or poisons the line, and is counted. -/
  | memoryEccError (p : Nat) (sram corrected : Bool) (addr : Nat)
  /-- `MARGIN_EVENT` (R434). An uncorrectable SRAM error under undervolt drops the margin and marks the line. -/
  | marginEvent (p addr : Nat)
  /-- `MARGIN_STEP` (R433). Every 10 s the SRAM controller adjusts drop from the corrected-error count. -/
  | marginStep (p : Nat)
  /-- `MARGIN_BACKOFF_EXPIRY` (R434). One hour after the last margin event the controller's back-off ends. -/
  | marginBackoffExpiry (p : Nat)
  /-- `OPERATING_POINT_CHANGE` (R425). A rail's operating point change completes. -/
  | operatingPointChange (p rail : Nat)
  /-- `RAILSET_WRITE` (R440). A driver write of RAILSET changes rail points and undervolt, resetting drop. -/
  | railsetWrite (p : Nat) (w : BitVec 64)
  /-- `CURRENT_GRANT` (R431). A cluster arbiter grants a current request when all four conditions hold. -/
  | currentGrant (p cl rail : Nat)
  /-- `BOOST_GRANT` (R436). A waiting coolant boost is granted once it fits the manifold cap. -/
  | boostGrant (p : Nat)
  /-- `BOOST_EXPIRY` (R246). A coolant boost's hold time ends. -/
  | boostExpiry (p : Nat)
  /-- `COOLMODE_WRITE` (R436). A write of COOLMODE closes and opens valves for the new mode. -/
  | coolmodeWrite (p : Nat) (w : BitVec 64)
  /-- `COOL_FLOW` (R437). A zone's flow stays below its share for 100 µs. -/
  | coolFlow (p z flow : Nat)
  /-- `COOL_TEMP` (R437). A zone reaches its temperature limit. -/
  | coolTemp (p z temp : Nat)
  /-- `COOL_PRESS` (R437). Manifold pressure leaves its band. -/
  | coolPress (p kpa : Nat)
  /-- `COOL_VOID` (R437). A void is detected in a zone's channel. -/
  | coolVoid (p z : Nat)
  /-- `FLOW_EVAC_TIMEOUT` (R437). 2 ms after COOL_FLOW an unresolved zone is evacuated. -/
  | flowEvacTimeout (p z : Nat)
  /-- `ZONE_EVAC` (R438). Evacuation aborts and re-dispatches the zone's operators and parks the zone. -/
  | zoneEvac (p z : Nat)
  /-- `ZVALVE_EVAC_WRITE` (R438). A write of 1 to a zone's evac bit starts evacuation. -/
  | zvalveEvacWrite (p z : Nat) (w : BitVec 64)
  /-- `PARK_TIMEOUT` (R438). After 50 ms parked the zone moves to prime. -/
  | parkTimeout (p z : Nat)
  /-- `PRIME_TIMEOUT` (R438). After 200 ms of prime the zone returns to normal, re-parks or is excluded. -/
  | primeTimeout (p z flow temp : Nat) (void : Bool)
  /-- `FULL_RESET` (R441). A full reset runs the boot phases on every die. -/
  | fullReset
  /-- `BOOT_PHASE_COMPLETE` (R441). All dies finish a boot phase and the next begins. -/
  | bootPhaseComplete (phase code die svn : Nat)
  /-- `DTIME_SYNC` (R441). The device first synchronises DTIME to IEEE 1588 time. -/
  | dtimeSync (now : Nat)
  /-- `RACK_LINK_UP` (R446). A rack link comes up and its bridges compare the partition-table digest. -/
  | rackLinkUp (pkg : Nat) (same : Bool)
  /-- `LOCK_INTERFACE_REQUEST` (R448). TDISP lock moves a keyed VF to CONFIG_LOCKED. -/
  | lockInterfaceRequest (p v : Nat)
  /-- `START_INTERFACE_REQUEST` (R448). TDISP start moves a VF to RUN. -/
  | startInterfaceRequest (p v : Nat)
  /-- `STOP_INTERFACE_REQUEST` (R448). TDISP stop tears the VF down and unlocks it. -/
  | stopInterfaceRequest (p v : Nat)
  /-- `VF_CONFIG_CHANGE` (R448). A change of a locked VF's configuration, BAR or keys moves it to ERROR. -/
  | vfConfigChange (p v : Nat)
  /-- `GET_MEASUREMENTS` (R449). A die's SPDM responder returns its measurements. -/
  | getMeasurements (p k : Nat)
  /-- `KEY_DELIVERY` (R449). A tenant key delivered in an SPDM session loads and binds a key slot. -/
  | keyDelivery (p slot q v : Nat)
  /-- `TEARDOWN` (R451). A VF teardown aborts its work, erases its keys and scrubs its ranges. -/
  | teardown (p v : Nat)
  /-- `HOST_WRITE` (R409). A host write through the PCIe port reaches device memory and its lines receive their CRC-32C at entry. -/
  | hostWrite (p : Nat) (tgt : HostTarget) (addr : Nat) (data : List (BitVec 8))
  /-- `HOST_READ` (R409). A host read through the PCIe port returns data, or all ones in a poisoned TLP for a poisoned or failing line. -/
  | hostRead (p : Nat) (tgt : HostTarget) (addr len : Nat)
  /-- `DIRTY_LINE_EVICTION` (R288). A die's stacked SRAM evicts a cached copy of a remote line, writing back its dirty bytes with their byte mask. -/
  | dirtyLineEviction (p home line : Nat)
  /-- `POWER_REMOVAL` (R8). Power is removed from the package, losing even state that every reset short of power removal keeps. -/
  | powerRemoval
  /-- `RENEWAL_ACKNOWLEDGEMENT` (R391). The owner's acknowledgement of a renewal reaches the holder, which records its time in the stub entry's ack field. -/
  | renewalAcknowledgement (p : Nat)
  /-- `RELEASE_ACKNOWLEDGEMENT` (R391). The owner's acknowledgement of a release or re-pointing slot reaches the sender, which stops re-sending it. -/
  | releaseAcknowledgement (p : Nat)
  /-- `HOLD_KEEPALIVE_ARRIVAL` (R389). The owner's 50 µs control slot reaches a remote writer stalled on a held tile and restarts its 100 µs response timer. -/
  | holdKeepaliveArrival (p : Nat)
  /-- `HEARTBEAT_ARRIVAL` (R421). A neighbour's heartbeat slot arrives and restarts the count of missed heartbeats for that die. -/
  | heartbeatArrival (p : Nat)
  /-- `NET_ACKNOWLEDGEMENT` (R380). A selective acknowledgement or not-ready nack from the target reaches the network engine and updates the request's outstanding packets. -/
  | netAcknowledgement (p t q first count : Nat) (ready : Bool)
  /-- `IDE_KM_KEY_SET` (R448). IDE_KM sets the IDE stream keys of a VF, keying the stream that LOCK_INTERFACE_REQUEST requires. -/
  | ideKmKeySet (p v : Nat)
  /-- `TEARDOWN_COMPLETE` (R451). The scrub of a torn-down VF's ranges finishes, the VF becomes CONFIG_UNLOCKED, tearing clears and its slots return to the pool. -/
  | teardownComplete (p v : Nat)
  /-- `ZMON_HOLD` (R413). zmon takes hold of a partition, so that a stopped context is kept and nothing is aborted until zmon releases it. -/
  | zmonHold (p q : Nat)
  /-- `CONDITION_CLEARED` (R437). A sensor cause's condition has stayed cleared for 1 ms, re-arming the cause so it may be raised again. -/
  | conditionCleared (p z cause : Nat)
  /-- `SLOT_INJECTION` (R367). A station injects a waiting slot into an empty slot position by strict tier priority. -/
  | slotInjection (p : Nat)
  deriving DecidableEq, Repr

end Sys2Proof
end

