-- ==== Sys2Proof/WellFormed.lean ====
section
/-! DEFINITION. What one instruction word may say: the kinds of register fields (R80), the types a form accepts (R37),
its modifier bits and immediates (R97 and each form's own rule), and which stream may issue it (R84). Whatever fails
`wf` is no instruction: the decoder refuses it, and the machine takes ILLOP. -/

namespace Sys2Proof

/-- The kinds of register fields (R80); `sd` is a scalar destination of a V, X or Y form, which never names the
last-result file (R17), and `pd` a predicate destination, which never names `P0` (R22). -/
inductive Kind where
  | s | sd | v | vq | p | pd | j | q | w | c | cq | u
  deriving DecidableEq, Repr

/-- The kinds of the fields d, a, b and e of one form. -/
structure Kinds where
  d : Kind
  a : Kind
  b : Kind
  e : Kind
  deriving DecidableEq, Repr

/-- The file selector of a register field (R15, R80). -/
def sel (r : BitVec 8) : Nat := bits r 7 6
/-- The number of a register field. -/
def num (r : BitVec 8) : Nat := bits r 5 0

/-- Whether a field fits its kind (R15, R80). -/
def Kind.ok (k : Kind) (r : BitVec 8) : Bool :=
  match k with
  | .s => sel r == 0 || (sel r == 1 && num r <= 15) || (sel r == 2 && num r <= 3)
  | .sd => sel r == 0 || (sel r == 1 && num r <= 15)
  | .v => sel r == 0 && num r <= 31
  | .vq => sel r == 0 && num r <= 31
  | .p => sel r == 3 && num r <= 7
  | .pd => sel r == 3 && 1 <= num r && num r <= 7
  | .j => sel r == 3 && num r <= 11
  | .q => sel r == 3 && num r <= 5
  | .w => sel r == 3 && num r <= 7
  | .c => sel r == 3
  | .cq => sel r == 3 || r == 0
  | .u => r == 0

/-- Whether a repeat may step a field of this kind (R87): not –, j, q, w or c?, nor a 0x00 that means absent. -/
def Kind.steps (k : Kind) (r : BitVec 8) : Bool :=
  match k with
  | .s => true | .sd => true | .v => true | .p => true | .pd => true | .c => true
  | .vq => r != 0
  | .j => false | .q => false | .w => false | .cq => false | .u => false

/-- The width of a type in bits (R37); sheaf counts as 8. -/
def width (t : Nat) : Nat :=
  match t with
  | 0 => 8 | 1 => 8 | 2 => 16 | 3 => 16 | 4 => 32 | 5 => 32 | 6 => 64 | 7 => 64
  | 8 => 32 | 9 => 16 | 10 => 16 | 11 => 8 | 12 => 8 | 13 => 4 | _ => 8

/-- The types f32, bf16, f16, e4m3, e5m2, e2m1 (R37). -/
def isFloat (t : Nat) : Bool := 8 <= t && t <= 13
/-- The signed integer types (R38). -/
def isSigned (t : Nat) : Bool := t <= 7 && t % 2 == 0

/-- Kinds, type (a bit of `tys` for each code the form accepts) and predicate of a Reg word (R82). -/
def RegF.ok (f : RegF) (k : Kinds) (tys : Nat) (pr : Bool) : Bool :=
  k.d.ok f.d && k.a.ok f.a && k.b.ok f.b && k.e.ok f.e && tys.testBit f.t1.toNat && (pr || f.pr == 0)
/-- Kinds and type of an Imm word. -/
def ImmF.ok (f : ImmF) (k : Kinds) (tys : Nat) : Bool :=
  k.d.ok f.d && k.a.ok f.a && tys.testBit f.t1.toNat
/-- Kinds and type of a Mem word. -/
def MemF.ok (f : MemF) (k : Kinds) (tys : Nat) : Bool :=
  k.d.ok f.d && k.a.ok f.a && k.b.ok f.b && tys.testBit f.t1.toNat
/-- Kinds of a Wide word. -/
def WideF.ok (f : WideF) (k : Kinds) : Bool := k.d.ok f.d
/-- Kinds and unit of an Eng word: half 11 is illegal in an M form (R82), and a C form has unit 000. -/
def EngF.ok (f : EngF) (k : Kinds) (matrix : Bool) : Bool :=
  k.d.ok f.d && k.a.ok f.a && k.b.ok f.b && k.e.ok f.e && (if matrix then bits f.unit 2 1 != 3 else f.unit == 0)
/-- A form whose lay and ri are "000; 0" (R191, R211). -/
def EngF.plain (f : EngF) : Bool := f.lay == 0 && !f.ri

/-- Which of rc, sat and fl a V form keeps (R147). -/
inductive Keep where
  | kNone | kSat | kFl | kAll
  deriving DecidableEq, Repr
/-- The m bits of a V form (R147): own bits up to `own`, and the kept fields, by the type's class. -/
def vKeep (ki kf : Keep) (own : Nat) (t : BitVec 4) (m : BitVec 10) : Bool :=
  let k := if isFloat t.toNat then kf else ki
  bits m 3 0 <= own && bits m 6 4 <= (if k == .kAll then 4 else 0) && (!bit m 7 || k == .kAll || k == .kSat) &&
    (bits m 9 8 == 0 || k == .kAll || k == .kFl)

/-- The m bits of an X form that keeps rc, sat and fl (R173): t2 among `tys`. -/
def xAll (tys : Nat) (m : BitVec 10) : Bool := tys.testBit (bits m 3 0) && bits m 6 4 <= 4
/-- A conversion between two integer types keeps sat only (R173). -/
def xSat (m : BitVec 10) : Bool := bits m 6 4 == 0 && bits m 9 8 == 0

/-- The layout that streamed rows of a type need (R191): `mx` for e2m1, else `row`. -/
def rowLay (t : Nat) : Nat := if t == 13 then 7 else 1

/-- `LDSTAT` (R191, R193): type i8, n8, e4m3, e5m2, bf16, e2m1 or sheaf, with the layout it needs; a depth other than 8
needs sheaf, e2m1 takes no axis and no transposition. -/
def ldstatOk (f : EngF) : Bool :=
  let t := bits f.m 3 0
  Nat.testBit 0x7A03 t && bits f.m 6 5 != 3 && bits f.m 8 7 != 3 && !bit f.m 10 && (bits f.m 6 5 == 0 || t == 14) &&
    (t != 13 || (bits f.m 8 7 == 0 && !bit f.m 9)) &&
    f.lay.toNat == (if t == 13 then 7 else if t == 14 then 4 else 3)


/-! ### The kinds of each form's fields (R90 to R96), in the order d a b e -/

abbrev kB000 : Kinds := ⟨.cq, .u, .u, .u⟩
abbrev kBs00 : Kinds := ⟨.cq, .s, .u, .u⟩
abbrev kBss0 : Kinds := ⟨.cq, .s, .s, .u⟩
abbrev kBsss : Kinds := ⟨.cq, .s, .s, .s⟩
abbrev kQ000 : Kinds := ⟨.pd, .u, .u, .u⟩
abbrev kQp00 : Kinds := ⟨.pd, .p, .u, .u⟩
abbrev kQpp0 : Kinds := ⟨.pd, .p, .p, .u⟩
abbrev kQvv0 : Kinds := ⟨.pd, .v, .v, .u⟩
abbrev kD000 : Kinds := ⟨.sd, .u, .u, .u⟩
abbrev kDp00 : Kinds := ⟨.sd, .p, .u, .u⟩
abbrev kDs00 : Kinds := ⟨.sd, .s, .u, .u⟩
abbrev kDss0 : Kinds := ⟨.sd, .s, .s, .u⟩
abbrev kDvs0 : Kinds := ⟨.sd, .v, .s, .u⟩
abbrev k0000 : Kinds := ⟨.u, .u, .u, .u⟩
abbrev k0j00 : Kinds := ⟨.u, .j, .u, .u⟩
abbrev k0s00 : Kinds := ⟨.u, .s, .u, .u⟩
abbrev k0ss0 : Kinds := ⟨.u, .s, .s, .u⟩
abbrev k0sss : Kinds := ⟨.u, .s, .s, .s⟩
abbrev k0w00 : Kinds := ⟨.u, .w, .u, .u⟩
abbrev kc000 : Kinds := ⟨.c, .u, .u, .u⟩
abbrev kcs00 : Kinds := ⟨.c, .s, .u, .u⟩
abbrev kj000 : Kinds := ⟨.j, .u, .u, .u⟩
abbrev kjs00 : Kinds := ⟨.j, .s, .u, .u⟩
abbrev kjss0 : Kinds := ⟨.j, .s, .s, .u⟩
abbrev kqs00 : Kinds := ⟨.q, .s, .u, .u⟩
abbrev ks000 : Kinds := ⟨.s, .u, .u, .u⟩
abbrev ksj00 : Kinds := ⟨.s, .j, .u, .u⟩
abbrev ksq00 : Kinds := ⟨.s, .q, .u, .u⟩
abbrev kss00 : Kinds := ⟨.s, .s, .u, .u⟩
abbrev ksss0 : Kinds := ⟨.s, .s, .s, .u⟩
abbrev ksssj : Kinds := ⟨.s, .s, .s, .j⟩
abbrev kv000 : Kinds := ⟨.v, .u, .u, .u⟩
abbrev kvsW0 : Kinds := ⟨.v, .s, .vq, .u⟩
abbrev kvs00 : Kinds := ⟨.v, .s, .u, .u⟩
abbrev kvss0 : Kinds := ⟨.v, .s, .s, .u⟩
abbrev kvv00 : Kinds := ⟨.v, .v, .u, .u⟩
abbrev kvv0v : Kinds := ⟨.v, .v, .u, .v⟩
abbrev kvvs0 : Kinds := ⟨.v, .v, .s, .u⟩
abbrev kvvv0 : Kinds := ⟨.v, .v, .v, .u⟩
abbrev kvvvp : Kinds := ⟨.v, .v, .v, .p⟩
abbrev kvvvv : Kinds := ⟨.v, .v, .v, .v⟩
abbrev kvw00 : Kinds := ⟨.v, .w, .u, .u⟩
abbrev kwv00 : Kinds := ⟨.w, .v, .u, .u⟩

/-- The kinds of the register fields d, a, b and e of each full word (R90 to R96); events and parcels have none. -/
def kinds : Instr → Kinds
  | .nop _ => k0000
  | .add _ => ksss0
  | .sub _ => ksss0
  | .mul _ => ksss0
  | .mulh _ => ksss0
  | .mulhn _ => ksss0
  | .div _ => ksss0
  | .divn _ => ksss0
  | .rem _ => ksss0
  | .remn _ => ksss0
  | .min _ => ksss0
  | .max _ => ksss0
  | .minn _ => ksss0
  | .maxn _ => ksss0
  | .and _ => ksss0
  | .or _ => ksss0
  | .xor _ => ksss0
  | .shl _ => ksss0
  | .shr _ => ksss0
  | .sra _ => ksss0
  | .addx _ => ksss0
  | .sel _ => ksssj
  | .clz _ => kss00
  | .ctz _ => kss00
  | .popc _ => kss00
  | .addi _ => kss00
  | .andi _ => kss00
  | .ori _ => kss00
  | .xori _ => kss00
  | .shli _ => kss00
  | .shri _ => kss00
  | .srai _ => kss00
  | .bext _ => kss00
  | .bins _ => kss00
  | .movi _ => ks000
  | .movh _ => ks000
  | .cmp _ => kjss0
  | .cmpi _ => kjs00
  | .prep _ => kj000
  | .prepx _ => kjs00
  | .br _ => k0j00
  | .brf _ => k0j00
  | .jmp _ => k0j00
  | .call _ => ksj00
  | .ret _ => k0j00
  | .bqpop _ => kj000
  | .loopset _ => k0s00
  | .brloop _ => k0j00
  | .qpush _ => kqs00
  | .qpop _ => ksq00
  | .ld _ => kss00
  | .st _ => kss00
  | .ldq _ => kqs00
  | .vld _ => kvsW0
  | .vst _ => kvsW0
  | .atom _ => ksss0
  | .cas _ => ksss0
  | .atomf _ => ksss0
  | .fence _ => k0000
  | .acq _ => k0s00
  | .rel _ => k0s00
  | .bind _ => k0sss
  | .unbind _ => k0ss0
  | .publish _ => k0000
  | .waitv _ => k0s00
  | .cinc _ => kc000
  | .lnset _ => k0s00
  | .lnclr _ => k0s00
  | .lnpeek _ => kss00
  | .vadd _ => kvvv0
  | .vsub _ => kvvv0
  | .vmul _ => kvvv0
  | .vfma _ => kvvvv
  | .vfms _ => kvvvv
  | .vmin _ => kvvv0
  | .vmax _ => kvvv0
  | .vabs _ => kvv00
  | .vneg _ => kvv00
  | .vand _ => kvvv0
  | .vor _ => kvvv0
  | .vxor _ => kvvv0
  | .vnot _ => kvv00
  | .vshl _ => kvvv0
  | .vshr _ => kvvv0
  | .vsra _ => kvvv0
  | .vcmp _ => kQvv0
  | .vsel _ => kvvvp
  | .vbcast _ => kvs00
  | .vrowb _ => kvv00
  | .vcolb _ => kvv00
  | .vrsum _ => kvv00
  | .vrmax _ => kvv00
  | .vcsum _ => kvv00
  | .vcmax _ => kvv00
  | .vtrans _ => kvv00
  | .vshuf _ => kvvv0
  | .viota _ => kv000
  | .vmovs _ => kDvs0
  | .vins _ => kvss0
  | .vshape _ => k0000
  | .vexp2 _ => kvv00
  | .vlog2 _ => kvv00
  | .vrcp _ => kvv00
  | .vrsq _ => kvv00
  | .pand _ => kQpp0
  | .por _ => kQpp0
  | .pxor _ => kQpp0
  | .pandn _ => kQpp0
  | .pnot _ => kQp00
  | .pset _ => kQ000
  | .pcnt _ => kDp00
  | .cspush _ => kwv00
  | .cspop _ => kvw00
  | .csbal _ => k0w00
  | .vdot4 _ => kvvvv
  | .cvt _ => kvv00
  | .cvti _ => kDs00
  | .xunp _ => kvvs0
  | .xpack _ => kvvs0
  | .xscale _ => kvvv0
  | .xfp6j _ => kvvv0
  | .xfp6s _ => kvv0v
  | .xshdec _ => kvvvv
  | .xshenc _ => kvvs0
  | .mnest _ => k0ss0
  | .mgo _ => kB000
  | .ldstat _ => kBs00
  | .mplane _ => k0000
  | .mma _ => kBss0
  | .attn _ => kBsss
  | .aclr _ => kB000
  | .ard _ => kBs00
  | .awr _ => kBs00
  | .ascl _ => kBss0
  | .msmx _ => kBss0
  | .cnest _ => k0ss0
  | .cgo _ => kB000
  | .cpy _ => kBsss
  | .gath _ => kBsss
  | .scat _ => kBsss
  | .decomp _ => kBsss
  | .slabmv _ => kBss0
  | .dsend _ => kBsss
  | .spull _ => kBss0
  | .sdrop _ => kBs00
  | .sfwd _ => kBss0
  | .mcst _ => kBss0
  | .fred _ => kBsss
  | .tierpf _ => kBss0
  | .nvrd _ => kBsss
  | .nvwr _ => kBsss
  | .netq _ => kBss0
  | .waitb _ => kcs00
  | .enqr _ => k0ss0
  | .join _ => k0s00
  | .leave _ => k0s00
  | .gbar _ => k0s00
  | .tstart _ => k0sss
  | .texit _ => k0000
  | .dorm _ => k0000
  | .hmsg _ => k0sss
  | .seqTree _ => kDss0
  | .seqCheck _ => kDss0
  | .seqWinnow _ => kDss0
  | .seqRoll _ => kDss0
  | .seqPreempt _ => kDss0
  | .seqResume _ => kDss0
  | .seqStat _ => kDss0
  | .resv _ => k0s00
  | .flowq _ => k0ss0
  | .getc _ => kD000
  | .setc _ => k0s00
  | .trap _ => k0000
  | .eret _ => k0000
  | .yield _ => k0000
  | .opend _ => k0000
  | .tlbi _ => k0ss0
  | .ckpt _ => k0s00
  | .nopShort _ _ => k0000
  | .rep _ _ _ => k0000
  | .dictionaryParcel _ _ => k0000
  | .resultWriteback _ _ _ => k0000
  | .queueEntryPresent _ _ _ _ => k0000
  | .queuePlaceFreed _ _ _ _ => k0000
  | .globalLoadDataArrival _ _ _ _ _ => k0000
  | .ldqEntryFill _ _ _ _ => k0000
  | .stalledReadProceeds _ _ _ _ => k0000
  | .waitTimeout _ _ _ _ => k0000
  | .waitOrphan _ _ _ _ => k0000
  | .waitbPass _ _ _ _ => k0000
  | .waitvPass _ _ _ _ => k0000
  | .publishSwap _ _ _ _ => k0000
  | .acqGrant _ _ => k0000
  | .gbarGenerationComplete _ _ => k0000
  | .asyncInterrupt _ _ _ _ => k0000
  | .timingReplay _ _ _ _ => k0000
  | .operatorEnd _ _ => k0000
  | .tillerThreadStart _ _ => k0000
  | .handlerMessageReceive _ => k0000
  | .enqrAccept _ _ => k0000
  | .engineCommandStart _ _ _ => k0000
  | .copyCommandStart _ _ _ => k0000
  | .engineCommandRetire _ _ _ => k0000
  | .copyCommandRetire _ _ _ => k0000
  | .engineLineFillResume _ _ _ => k0000
  | .backpressureWriteResume _ _ _ => k0000
  | .slabMovePiece _ _ _ => k0000
  | .launchTagWrite _ _ _ => k0000
  | .launchComplete _ _ => k0000
  | .operatorDispatch _ _ => k0000
  | .stageFirstInput _ _ _ => k0000
  | .sqin _ => k0000
  | .sqout _ => k0000
  | .rebindingInterval _ => k0000
  | .periodStart _ => k0000
  | .dispatchAgeLimit _ _ => k0000
  | .gangTick _ _ => k0000
  | .gangSwitch _ _ => k0000
  | .overrun _ _ => k0000
  | .overrunAbort _ _ => k0000
  | .zmonRelease _ _ _ => k0000
  | .alloc _ => k0000
  | .free _ => k0000
  | .rule _ => k0000
  | .slabnew _ => k0000
  | .slabfree _ => k0000
  | .reclaimTimeout _ _ => k0000
  | .claimMet _ _ => k0000
  | .smPreemptApply _ _ => k0000
  | .nvmeCompletion _ _ _ _ _ => k0000
  | .nvmeCommandTimeout _ _ _ => k0000
  | .pageWalk _ _ _ _ => k0000
  | .pageMigration _ _ _ => k0000
  | .slotArrival _ _ => k0000
  | .flitResend _ => k0000
  | .starvationLimit _ _ => k0000
  | .readRequest _ => k0000
  | .readResponse _ => k0000
  | .write _ => k0000
  | .writeAck _ => k0000
  | .atomic _ => k0000
  | .atomicResponse _ => k0000
  | .nack _ => k0000
  | .requestTimeout _ _ => k0000
  | .multicastWrite _ => k0000
  | .multicastAck _ => k0000
  | .reductionContribution _ => k0000
  | .syncRequest _ => k0000
  | .control _ => k0000
  | .create _ => k0000
  | .mgFree _ => k0000
  | .addMember _ => k0000
  | .del _ => k0000
  | .handler _ => k0000
  | .query _ => k0000
  | .netPacketReceive _ _ _ => k0000
  | .netRetransmitTimeout _ _ _ => k0000
  | .netSpaceTimeout _ _ _ => k0000
  | .netRequestComplete _ _ _ => k0000
  | .netRecordComplete _ _ => k0000
  | .nrxheadWrite _ => k0000
  | .stub _ => k0000
  | .stubTouch _ _ _ => k0000
  | .pullRequest _ => k0000
  | .pullResponse _ => k0000
  | .pullAck _ => k0000
  | .repointSlot _ => k0000
  | .stubReleaseSlot _ => k0000
  | .stubRenewal _ _ => k0000
  | .renewalReceive _ => k0000
  | .holderLeaseExpiry _ _ => k0000
  | .ownerLeaseExpiry _ _ => k0000
  | .releaseResend _ _ => k0000
  | .holdStall _ _ _ _ => k0000
  | .holdKeepalive _ => k0000
  | .stubBind _ => k0000
  | .stubUnbind _ => k0000
  | .frecClear _ => k0000
  | .heartbeat _ => k0000
  | .dieFailure _ => k0000
  | .tileFailure _ _ => k0000
  | .memoryEccError _ _ _ _ => k0000
  | .marginEvent _ _ => k0000
  | .marginStep _ => k0000
  | .marginBackoffExpiry _ => k0000
  | .operatingPointChange _ _ => k0000
  | .railsetWrite _ _ => k0000
  | .currentGrant _ _ _ => k0000
  | .boostGrant _ => k0000
  | .boostExpiry _ => k0000
  | .coolmodeWrite _ _ => k0000
  | .coolFlow _ _ _ => k0000
  | .coolTemp _ _ _ => k0000
  | .coolPress _ _ => k0000
  | .coolVoid _ _ => k0000
  | .flowEvacTimeout _ _ => k0000
  | .zoneEvac _ _ => k0000
  | .zvalveEvacWrite _ _ _ => k0000
  | .parkTimeout _ _ => k0000
  | .primeTimeout _ _ _ _ _ => k0000
  | .fullReset => k0000
  | .bootPhaseComplete _ _ _ _ => k0000
  | .dtimeSync _ => k0000
  | .rackLinkUp _ _ => k0000
  | .lockInterfaceRequest _ _ => k0000
  | .startInterfaceRequest _ _ => k0000
  | .stopInterfaceRequest _ _ => k0000
  | .vfConfigChange _ _ => k0000
  | .getMeasurements _ _ => k0000
  | .keyDelivery _ _ _ _ => k0000
  | .teardown _ _ => k0000
  | .hostWrite _ _ _ _ => k0000
  | .hostRead _ _ _ _ => k0000
  | .dirtyLineEviction _ _ _ => k0000
  | .powerRemoval => k0000
  | .renewalAcknowledgement _ => k0000
  | .releaseAcknowledgement _ => k0000
  | .holdKeepaliveArrival _ => k0000
  | .heartbeatArrival _ => k0000
  | .netAcknowledgement _ _ _ _ _ _ => k0000
  | .ideKmKeySet _ _ => k0000
  | .teardownComplete _ _ => k0000
  | .zmonHold _ _ => k0000
  | .conditionCleared _ _ _ => k0000
  | .slotInjection _ => k0000

/-- Class and opcode of each full word (R89 to R96); class 7, which no word has, for parcels and events. -/
def opcode : Instr → Nat × Nat
  | .nop _ => (0, 0x0)
  | .add _ => (0, 0x1)
  | .sub _ => (0, 0x2)
  | .mul _ => (0, 0x3)
  | .mulh _ => (0, 0x4)
  | .mulhn _ => (0, 0x5)
  | .div _ => (0, 0x6)
  | .divn _ => (0, 0x7)
  | .rem _ => (0, 0x8)
  | .remn _ => (0, 0x9)
  | .min _ => (0, 0xa)
  | .max _ => (0, 0xb)
  | .minn _ => (0, 0xc)
  | .maxn _ => (0, 0xd)
  | .and _ => (0, 0xe)
  | .or _ => (0, 0xf)
  | .xor _ => (0, 0x10)
  | .shl _ => (0, 0x11)
  | .shr _ => (0, 0x12)
  | .sra _ => (0, 0x13)
  | .addx _ => (0, 0x14)
  | .sel _ => (0, 0x15)
  | .clz _ => (0, 0x18)
  | .ctz _ => (0, 0x19)
  | .popc _ => (0, 0x1a)
  | .addi _ => (0, 0x20)
  | .andi _ => (0, 0x21)
  | .ori _ => (0, 0x22)
  | .xori _ => (0, 0x23)
  | .shli _ => (0, 0x24)
  | .shri _ => (0, 0x25)
  | .srai _ => (0, 0x26)
  | .bext _ => (0, 0x27)
  | .bins _ => (0, 0x28)
  | .movi _ => (0, 0x30)
  | .movh _ => (0, 0x31)
  | .cmp _ => (0, 0x38)
  | .cmpi _ => (0, 0x39)
  | .prep _ => (0, 0x40)
  | .prepx _ => (0, 0x41)
  | .br _ => (0, 0x42)
  | .brf _ => (0, 0x43)
  | .jmp _ => (0, 0x44)
  | .call _ => (0, 0x45)
  | .ret _ => (0, 0x46)
  | .bqpop _ => (0, 0x47)
  | .loopset _ => (0, 0x48)
  | .brloop _ => (0, 0x49)
  | .qpush _ => (0, 0x4a)
  | .qpop _ => (0, 0x4b)
  | .ld _ => (1, 0x0)
  | .st _ => (1, 0x1)
  | .ldq _ => (1, 0x2)
  | .vld _ => (1, 0x3)
  | .vst _ => (1, 0x4)
  | .atom _ => (1, 0x8)
  | .cas _ => (1, 0x9)
  | .atomf _ => (1, 0xa)
  | .fence _ => (1, 0x10)
  | .acq _ => (1, 0x11)
  | .rel _ => (1, 0x12)
  | .bind _ => (1, 0x13)
  | .unbind _ => (1, 0x14)
  | .publish _ => (1, 0x18)
  | .waitv _ => (1, 0x19)
  | .cinc _ => (1, 0x1a)
  | .lnset _ => (1, 0x1c)
  | .lnclr _ => (1, 0x1d)
  | .lnpeek _ => (1, 0x1e)
  | .vadd _ => (2, 0x0)
  | .vsub _ => (2, 0x1)
  | .vmul _ => (2, 0x2)
  | .vfma _ => (2, 0x3)
  | .vfms _ => (2, 0x4)
  | .vmin _ => (2, 0x5)
  | .vmax _ => (2, 0x6)
  | .vabs _ => (2, 0x7)
  | .vneg _ => (2, 0x8)
  | .vand _ => (2, 0x10)
  | .vor _ => (2, 0x11)
  | .vxor _ => (2, 0x12)
  | .vnot _ => (2, 0x13)
  | .vshl _ => (2, 0x14)
  | .vshr _ => (2, 0x15)
  | .vsra _ => (2, 0x16)
  | .vcmp _ => (2, 0x18)
  | .vsel _ => (2, 0x19)
  | .vbcast _ => (2, 0x20)
  | .vrowb _ => (2, 0x21)
  | .vcolb _ => (2, 0x22)
  | .vrsum _ => (2, 0x28)
  | .vrmax _ => (2, 0x29)
  | .vcsum _ => (2, 0x2a)
  | .vcmax _ => (2, 0x2b)
  | .vtrans _ => (2, 0x30)
  | .vshuf _ => (2, 0x31)
  | .viota _ => (2, 0x32)
  | .vmovs _ => (2, 0x33)
  | .vins _ => (2, 0x34)
  | .vshape _ => (2, 0x35)
  | .vexp2 _ => (2, 0x38)
  | .vlog2 _ => (2, 0x39)
  | .vrcp _ => (2, 0x3a)
  | .vrsq _ => (2, 0x3b)
  | .pand _ => (2, 0x40)
  | .por _ => (2, 0x41)
  | .pxor _ => (2, 0x42)
  | .pandn _ => (2, 0x43)
  | .pnot _ => (2, 0x44)
  | .pset _ => (2, 0x45)
  | .pcnt _ => (2, 0x46)
  | .cspush _ => (2, 0x48)
  | .cspop _ => (2, 0x49)
  | .csbal _ => (2, 0x4a)
  | .vdot4 _ => (2, 0x50)
  | .cvt _ => (3, 0x0)
  | .cvti _ => (3, 0x1)
  | .xunp _ => (3, 0x2)
  | .xpack _ => (3, 0x3)
  | .xscale _ => (3, 0x4)
  | .xfp6j _ => (3, 0x5)
  | .xfp6s _ => (3, 0x6)
  | .xshdec _ => (3, 0x7)
  | .xshenc _ => (3, 0x8)
  | .mnest _ => (4, 0x0)
  | .mgo _ => (4, 0x1)
  | .ldstat _ => (4, 0x2)
  | .mplane _ => (4, 0x3)
  | .mma _ => (4, 0x4)
  | .attn _ => (4, 0x5)
  | .aclr _ => (4, 0x6)
  | .ard _ => (4, 0x7)
  | .awr _ => (4, 0x8)
  | .ascl _ => (4, 0x9)
  | .msmx _ => (4, 0xa)
  | .cnest _ => (5, 0x0)
  | .cgo _ => (5, 0x1)
  | .cpy _ => (5, 0x2)
  | .gath _ => (5, 0x3)
  | .scat _ => (5, 0x4)
  | .decomp _ => (5, 0x5)
  | .slabmv _ => (5, 0x6)
  | .dsend _ => (5, 0x8)
  | .spull _ => (5, 0x9)
  | .sdrop _ => (5, 0xa)
  | .sfwd _ => (5, 0xb)
  | .mcst _ => (5, 0xc)
  | .fred _ => (5, 0xd)
  | .tierpf _ => (5, 0xe)
  | .nvrd _ => (5, 0x10)
  | .nvwr _ => (5, 0x11)
  | .netq _ => (5, 0x12)
  | .waitb _ => (6, 0x0)
  | .enqr _ => (6, 0x1)
  | .join _ => (6, 0x2)
  | .leave _ => (6, 0x3)
  | .gbar _ => (6, 0x4)
  | .tstart _ => (6, 0x5)
  | .texit _ => (6, 0x6)
  | .dorm _ => (6, 0x7)
  | .hmsg _ => (6, 0x8)
  | .seqTree _ => (6, 0x10)
  | .seqCheck _ => (6, 0x11)
  | .seqWinnow _ => (6, 0x12)
  | .seqRoll _ => (6, 0x13)
  | .seqPreempt _ => (6, 0x14)
  | .seqResume _ => (6, 0x15)
  | .seqStat _ => (6, 0x16)
  | .resv _ => (6, 0x20)
  | .flowq _ => (6, 0x21)
  | .getc _ => (6, 0x30)
  | .setc _ => (6, 0x31)
  | .trap _ => (6, 0x32)
  | .eret _ => (6, 0x33)
  | .yield _ => (6, 0x34)
  | .opend _ => (6, 0x35)
  | .tlbi _ => (6, 0x36)
  | .ckpt _ => (6, 0x37)
  | .nopShort _ _ => (7, 0)
  | .rep _ _ _ => (7, 0)
  | .dictionaryParcel _ _ => (7, 0)
  | .resultWriteback _ _ _ => (7, 0)
  | .queueEntryPresent _ _ _ _ => (7, 0)
  | .queuePlaceFreed _ _ _ _ => (7, 0)
  | .globalLoadDataArrival _ _ _ _ _ => (7, 0)
  | .ldqEntryFill _ _ _ _ => (7, 0)
  | .stalledReadProceeds _ _ _ _ => (7, 0)
  | .waitTimeout _ _ _ _ => (7, 0)
  | .waitOrphan _ _ _ _ => (7, 0)
  | .waitbPass _ _ _ _ => (7, 0)
  | .waitvPass _ _ _ _ => (7, 0)
  | .publishSwap _ _ _ _ => (7, 0)
  | .acqGrant _ _ => (7, 0)
  | .gbarGenerationComplete _ _ => (7, 0)
  | .asyncInterrupt _ _ _ _ => (7, 0)
  | .timingReplay _ _ _ _ => (7, 0)
  | .operatorEnd _ _ => (7, 0)
  | .tillerThreadStart _ _ => (7, 0)
  | .handlerMessageReceive _ => (7, 0)
  | .enqrAccept _ _ => (7, 0)
  | .engineCommandStart _ _ _ => (7, 0)
  | .copyCommandStart _ _ _ => (7, 0)
  | .engineCommandRetire _ _ _ => (7, 0)
  | .copyCommandRetire _ _ _ => (7, 0)
  | .engineLineFillResume _ _ _ => (7, 0)
  | .backpressureWriteResume _ _ _ => (7, 0)
  | .slabMovePiece _ _ _ => (7, 0)
  | .launchTagWrite _ _ _ => (7, 0)
  | .launchComplete _ _ => (7, 0)
  | .operatorDispatch _ _ => (7, 0)
  | .stageFirstInput _ _ _ => (7, 0)
  | .sqin _ => (7, 0)
  | .sqout _ => (7, 0)
  | .rebindingInterval _ => (7, 0)
  | .periodStart _ => (7, 0)
  | .dispatchAgeLimit _ _ => (7, 0)
  | .gangTick _ _ => (7, 0)
  | .gangSwitch _ _ => (7, 0)
  | .overrun _ _ => (7, 0)
  | .overrunAbort _ _ => (7, 0)
  | .zmonRelease _ _ _ => (7, 0)
  | .alloc _ => (7, 0)
  | .free _ => (7, 0)
  | .rule _ => (7, 0)
  | .slabnew _ => (7, 0)
  | .slabfree _ => (7, 0)
  | .reclaimTimeout _ _ => (7, 0)
  | .claimMet _ _ => (7, 0)
  | .smPreemptApply _ _ => (7, 0)
  | .nvmeCompletion _ _ _ _ _ => (7, 0)
  | .nvmeCommandTimeout _ _ _ => (7, 0)
  | .pageWalk _ _ _ _ => (7, 0)
  | .pageMigration _ _ _ => (7, 0)
  | .slotArrival _ _ => (7, 0)
  | .flitResend _ => (7, 0)
  | .starvationLimit _ _ => (7, 0)
  | .readRequest _ => (7, 0)
  | .readResponse _ => (7, 0)
  | .write _ => (7, 0)
  | .writeAck _ => (7, 0)
  | .atomic _ => (7, 0)
  | .atomicResponse _ => (7, 0)
  | .nack _ => (7, 0)
  | .requestTimeout _ _ => (7, 0)
  | .multicastWrite _ => (7, 0)
  | .multicastAck _ => (7, 0)
  | .reductionContribution _ => (7, 0)
  | .syncRequest _ => (7, 0)
  | .control _ => (7, 0)
  | .create _ => (7, 0)
  | .mgFree _ => (7, 0)
  | .addMember _ => (7, 0)
  | .del _ => (7, 0)
  | .handler _ => (7, 0)
  | .query _ => (7, 0)
  | .netPacketReceive _ _ _ => (7, 0)
  | .netRetransmitTimeout _ _ _ => (7, 0)
  | .netSpaceTimeout _ _ _ => (7, 0)
  | .netRequestComplete _ _ _ => (7, 0)
  | .netRecordComplete _ _ => (7, 0)
  | .nrxheadWrite _ => (7, 0)
  | .stub _ => (7, 0)
  | .stubTouch _ _ _ => (7, 0)
  | .pullRequest _ => (7, 0)
  | .pullResponse _ => (7, 0)
  | .pullAck _ => (7, 0)
  | .repointSlot _ => (7, 0)
  | .stubReleaseSlot _ => (7, 0)
  | .stubRenewal _ _ => (7, 0)
  | .renewalReceive _ => (7, 0)
  | .holderLeaseExpiry _ _ => (7, 0)
  | .ownerLeaseExpiry _ _ => (7, 0)
  | .releaseResend _ _ => (7, 0)
  | .holdStall _ _ _ _ => (7, 0)
  | .holdKeepalive _ => (7, 0)
  | .stubBind _ => (7, 0)
  | .stubUnbind _ => (7, 0)
  | .frecClear _ => (7, 0)
  | .heartbeat _ => (7, 0)
  | .dieFailure _ => (7, 0)
  | .tileFailure _ _ => (7, 0)
  | .memoryEccError _ _ _ _ => (7, 0)
  | .marginEvent _ _ => (7, 0)
  | .marginStep _ => (7, 0)
  | .marginBackoffExpiry _ => (7, 0)
  | .operatingPointChange _ _ => (7, 0)
  | .railsetWrite _ _ => (7, 0)
  | .currentGrant _ _ _ => (7, 0)
  | .boostGrant _ => (7, 0)
  | .boostExpiry _ => (7, 0)
  | .coolmodeWrite _ _ => (7, 0)
  | .coolFlow _ _ _ => (7, 0)
  | .coolTemp _ _ _ => (7, 0)
  | .coolPress _ _ => (7, 0)
  | .coolVoid _ _ => (7, 0)
  | .flowEvacTimeout _ _ => (7, 0)
  | .zoneEvac _ _ => (7, 0)
  | .zvalveEvacWrite _ _ _ => (7, 0)
  | .parkTimeout _ _ => (7, 0)
  | .primeTimeout _ _ _ _ _ => (7, 0)
  | .fullReset => (7, 0)
  | .bootPhaseComplete _ _ _ _ => (7, 0)
  | .dtimeSync _ => (7, 0)
  | .rackLinkUp _ _ => (7, 0)
  | .lockInterfaceRequest _ _ => (7, 0)
  | .startInterfaceRequest _ _ => (7, 0)
  | .stopInterfaceRequest _ _ => (7, 0)
  | .vfConfigChange _ _ => (7, 0)
  | .getMeasurements _ _ => (7, 0)
  | .keyDelivery _ _ _ _ => (7, 0)
  | .teardown _ _ => (7, 0)
  | .hostWrite _ _ _ _ => (7, 0)
  | .hostRead _ _ _ _ => (7, 0)
  | .dirtyLineEviction _ _ _ => (7, 0)
  | .powerRemoval => (7, 0)
  | .renewalAcknowledgement _ => (7, 0)
  | .releaseAcknowledgement _ => (7, 0)
  | .holdKeepaliveArrival _ => (7, 0)
  | .heartbeatArrival _ => (7, 0)
  | .netAcknowledgement _ _ _ _ _ _ => (7, 0)
  | .ideKmKeySet _ _ => (7, 0)
  | .teardownComplete _ _ => (7, 0)
  | .zmonHold _ _ => (7, 0)
  | .conditionCleared _ _ _ => (7, 0)
  | .slotInjection _ => (7, 0)

/-- What one word may say (R97): kinds, types, modifier bits, immediates, layouts. An event is never decoded, and is
well-formed as it stands. -/
def wf : Instr → Bool
  | .nop f => f.ok k0000 && f.imm.toNat <= 4095
  | .add f => f.ok ksss0 0xff false && f.m == 0
  | .sub f => f.ok ksss0 0xff false && f.m == 0
  | .mul f => f.ok ksss0 0xff false && f.m == 0
  | .mulh f => f.ok ksss0 0x55 false && f.m == 0
  | .mulhn f => f.ok ksss0 0xaa false && f.m == 0
  | .div f => f.ok ksss0 0x55 false && f.m == 0
  | .divn f => f.ok ksss0 0xaa false && f.m == 0
  | .rem f => f.ok ksss0 0x55 false && f.m == 0
  | .remn f => f.ok ksss0 0xaa false && f.m == 0
  | .min f => f.ok ksss0 0x55 false && f.m == 0
  | .max f => f.ok ksss0 0x55 false && f.m == 0
  | .minn f => f.ok ksss0 0xaa false && f.m == 0
  | .maxn f => f.ok ksss0 0xaa false && f.m == 0
  | .and f => f.ok ksss0 0xff false && f.m == 0
  | .or f => f.ok ksss0 0xff false && f.m == 0
  | .xor f => f.ok ksss0 0xff false && f.m == 0
  | .shl f => f.ok ksss0 0xff false && f.m == 0
  | .shr f => f.ok ksss0 0xff false && f.m == 0
  | .sra f => f.ok ksss0 0x55 false && f.m == 0
  | .addx f => f.ok ksss0 0xff false && f.m.toNat <= 7
  | .sel f => f.ok ksssj 0x1 false && f.m == 0
  | .clz f => f.ok kss00 0xff false && f.m == 0
  | .ctz f => f.ok kss00 0xff false && f.m == 0
  | .popc f => f.ok kss00 0xff false && f.m == 0
  | .addi f => f.ok kss00 0xff && f.m == 0
  | .andi f => f.ok kss00 0xff && f.m == 0
  | .ori f => f.ok kss00 0xff && f.m == 0
  | .xori f => f.ok kss00 0xff && f.m == 0
  | .shli f => f.ok kss00 0xff && f.m == 0 && f.imm.toNat <= 255
  | .shri f => f.ok kss00 0xff && f.m == 0 && f.imm.toNat <= 255
  | .srai f => f.ok kss00 0x55 && f.m == 0 && f.imm.toNat <= 255
  | .bext f => f.ok kss00 0xc0 && f.m == 0 && bits f.imm 5 0 + bits f.imm 11 6 + 1 <= 64 && f.imm.toNat <= 4095
  | .bins f => f.ok kss00 0xc0 && f.m == 0 && bits f.imm 5 0 + bits f.imm 11 6 + 1 <= 64 && f.imm.toNat <= 4095
  | .movi f => f.ok ks000 && true
  | .movh f => f.ok ks000 && true
  | .cmp f => f.ok kjss0 0xff false && f.m.toNat <= 7
  | .cmpi f => f.ok kjs00 0xff && f.m.toNat <= 7
  | .prep f => f.ok kj000 && true
  | .prepx f => f.ok kjs00 0x1 false && f.m == 0
  | .br f => f.ok k0j00 0x1 false && f.m == 0
  | .brf f => f.ok k0j00 0x1 false && f.m == 0
  | .jmp f => f.ok k0j00 0x1 false && f.m == 0
  | .call f => f.ok ksj00 0x1 false && f.m == 0
  | .ret f => f.ok k0j00 0x1 false && f.m == 0
  | .bqpop f => f.ok kj000 0x1 false && f.m == 0
  | .loopset f => f.ok k0s00 0x1 && f.m == 0 && 1 <= f.imm.toNat && f.imm.toNat <= 4
  | .brloop f => f.ok k0j00 0x1 false && f.m == 0
  | .qpush f => f.ok kqs00 0x1 false && f.m == 0
  | .qpop f => f.ok ksq00 0x1 false && f.m == 0 && f.a != 0xC5
  | .ld f => f.ok kss00 0xff && f.m.toNat <= 2 && (f.sp || f.m == 0)
  | .st f => f.ok kss00 0xff && f.m == 0
  | .ldq f => f.ok kqs00 0xff && f.m == 0 && f.d != 0xC4
  | .vld f => f.ok kvsW0 0x1f3f && f.sp && f.m.toNat <= 15
  | .vst f => f.ok kvsW0 0x1f3f && f.sp && f.m.toNat <= 15
  | .atom f => f.ok ksss0 0xf0 && bits f.m 3 0 <= 8 && (!f.sp || bits f.m 5 4 == 0)
  | .cas f => f.ok ksss0 0xf0 && bits f.m 3 0 == 0 && (!f.sp || bits f.m 5 4 == 0)
  | .atomf f => f.ok ksss0 0x300 && bits f.m 3 0 <= 2 && (!f.sp || bits f.m 5 4 == 0)
  | .fence f => f.ok k0000 0x1 && f.m.toNat <= 15 && bits f.m 3 2 != 3 && f.imm.toNat <= 0
  | .acq f => f.ok k0s00 0x1 && f.m.toNat <= 1 && f.imm.toNat <= 0
  | .rel f => f.ok k0s00 0x1 && f.m == 0 && f.imm.toNat <= 0
  | .bind f => f.ok k0sss 0x1 false && f.m == 0
  | .unbind f => f.ok k0ss0 0x1 false && f.m == 0
  | .publish f => f.ok k0000 0x1 && f.m == 0 && f.imm.toNat <= 255
  | .waitv f => f.ok k0s00 0x1 && f.m == 0 && f.imm.toNat <= 255
  | .cinc f => f.ok kc000 0x1 && f.m == 0 && f.imm.toNat <= 65535
  | .lnset f => f.ok k0s00 0x1 && f.sp && f.m == 0
  | .lnclr f => f.ok k0s00 0x1 && f.sp && f.m == 0
  | .lnpeek f => f.ok kss00 0x1 && f.sp && f.m == 0
  | .vadd f => f.ok kvvv0 0x73f true && vKeep .kSat .kAll 0 f.t1 f.m
  | .vsub f => f.ok kvvv0 0x73f true && vKeep .kSat .kAll 0 f.t1 f.m
  | .vmul f => f.ok kvvv0 0x73f true && vKeep .kSat .kAll 0 f.t1 f.m
  | .vfma f => f.ok kvvvv 0x73f true && vKeep .kSat .kAll 0 f.t1 f.m
  | .vfms f => f.ok kvvvv 0x73f true && vKeep .kSat .kAll 0 f.t1 f.m
  | .vmin f => f.ok kvvv0 0x73f true && vKeep .kNone .kFl 0 f.t1 f.m
  | .vmax f => f.ok kvvv0 0x73f true && vKeep .kNone .kFl 0 f.t1 f.m
  | .vabs f => f.ok kvv00 0x73f true && vKeep .kSat .kFl 0 f.t1 f.m
  | .vneg f => f.ok kvv00 0x73f true && vKeep .kSat .kFl 0 f.t1 f.m
  | .vand f => f.ok kvvv0 0x3f true && vKeep .kNone .kNone 0 f.t1 f.m
  | .vor f => f.ok kvvv0 0x3f true && vKeep .kNone .kNone 0 f.t1 f.m
  | .vxor f => f.ok kvvv0 0x3f true && vKeep .kNone .kNone 0 f.t1 f.m
  | .vnot f => f.ok kvv00 0x3f true && vKeep .kNone .kNone 0 f.t1 f.m
  | .vshl f => f.ok kvvv0 0x3f true && vKeep .kNone .kNone 0 f.t1 f.m
  | .vshr f => f.ok kvvv0 0x3f true && vKeep .kNone .kNone 0 f.t1 f.m
  | .vsra f => f.ok kvvv0 0x15 true && vKeep .kNone .kNone 0 f.t1 f.m
  | .vcmp f => f.ok kQvv0 0x73f true && vKeep .kNone .kFl 7 f.t1 f.m && (!isFloat f.t1.toNat || bits f.m 2 0 <= 5)
  | .vsel f => f.ok kvvvp 0x1f3f true && vKeep .kNone .kNone 0 f.t1 f.m
  | .vbcast f => f.ok kvs00 0x1f3f true && vKeep .kNone .kNone 0 f.t1 f.m
  | .vrowb f => f.ok kvv00 0x1f3f true && vKeep .kNone .kNone 0 f.t1 f.m
  | .vcolb f => f.ok kvv00 0x1f3f true && vKeep .kNone .kNone 0 f.t1 f.m
  | .vrsum f => f.ok kvv00 0x73f true && vKeep .kSat .kAll 0 f.t1 f.m
  | .vrmax f => f.ok kvv00 0x73f true && vKeep .kNone .kFl 0 f.t1 f.m
  | .vcsum f => f.ok kvv00 0x73f true && vKeep .kSat .kAll 0 f.t1 f.m
  | .vcmax f => f.ok kvv00 0x73f true && vKeep .kNone .kFl 0 f.t1 f.m
  | .vtrans f => f.ok kvv00 0x1f3f false && vKeep .kNone .kNone 0 f.t1 f.m
  | .vshuf f => f.ok kvvv0 0x1f3f true && vKeep .kNone .kNone 0 f.t1 f.m
  | .viota f => f.ok kv000 0x3f true && vKeep .kNone .kNone 2 f.t1 f.m
  | .vmovs f => f.ok kDvs0 0x1f3f false && vKeep .kNone .kNone 0 f.t1 f.m
  | .vins f => f.ok kvss0 0x1f3f false && vKeep .kNone .kNone 0 f.t1 f.m
  | .vshape f => f.ok k0000 0x1 && f.m == 0 && f.imm.toNat <= 16383
  | .vexp2 f => f.ok kvv00 0x700 true && vKeep .kNone .kAll 0 f.t1 f.m
  | .vlog2 f => f.ok kvv00 0x700 true && vKeep .kNone .kAll 0 f.t1 f.m
  | .vrcp f => f.ok kvv00 0x700 true && vKeep .kNone .kAll 0 f.t1 f.m
  | .vrsq f => f.ok kvv00 0x700 true && vKeep .kNone .kAll 0 f.t1 f.m
  | .pand f => f.ok kQpp0 0x1 false && f.m == 0
  | .por f => f.ok kQpp0 0x1 false && f.m == 0
  | .pxor f => f.ok kQpp0 0x1 false && f.m == 0
  | .pandn f => f.ok kQpp0 0x1 false && f.m == 0
  | .pnot f => f.ok kQp00 0x1 false && f.m == 0
  | .pset f => f.ok kQ000 0x1 && f.m == 0 && f.imm.toNat <= 4095
  | .pcnt f => f.ok kDp00 0x1 false && f.m == 0
  | .cspush f => f.ok kwv00 0x130 true && f.m == 0
  | .cspop f => f.ok kvw00 0x130 true && f.m == 0
  | .csbal f => f.ok k0w00 0x1 false && f.m.toNat <= 1
  | .vdot4 f => f.ok kvvvv 0x10 true && vKeep .kSat .kNone 3 f.t1 f.m
  | .cvt f => f.ok kvv00 0x1f3f true && xAll 0x1f3f f.m && (isFloat f.t1.toNat || isFloat (bits f.m 3 0) || xSat f.m)
  | .cvti f => f.ok kDs00 0x1fff false && xAll 0x1fff f.m && (isFloat f.t1.toNat || isFloat (bits f.m 3 0) || xSat f.m)
  | .xunp f => f.ok kvvs0 0x1f00 true && xAll 0x3e00 f.m && width (bits f.m 3 0) <= width f.t1.toNat
  | .xpack f => f.ok kvvs0 0x3e00 true && xAll 0x700 f.m && width f.t1.toNat <= width (bits f.m 3 0)
  | .xscale f => f.ok kvvv0 0x1f00 true && xAll 0x1f00 f.m
  | .xfp6j f => f.ok kvvv0 0x1f00 true && xAll 0x3 f.m
  | .xfp6s f => f.ok kvv0v 0x3 true && xAll 0x1f00 f.m && !bit f.m 8 && f.d != f.e
  | .xshdec f => f.ok kvvvv 0x714 true && f.m.toNat <= 7 && bits f.m 1 0 != 3
  | .xshenc f => f.ok kvvs0 0x4000 true && xAll 0x700 f.m && !bit f.m 8
  | .mnest f => f.ok k0ss0 true && f.m.toNat <= 7 && f.plain
  | .mgo f => f.ok kB000 true && f.m == 0
  | .ldstat f => f.ok kBs00 true && ldstatOk f
  | .mplane f => f.ok k0000 true && f.m.toNat <= 2 && f.plain
  | .mma f => f.ok kBss0 true && Nat.testBit 0x3A03 (bits f.m 3 0) && !bit f.m 10 && f.lay.toNat == rowLay (bits f.m 3 0)
  | .attn f => f.ok kBsss true && Nat.testBit 0x1A00 (bits f.m 3 0) && !bit f.m 10 && f.lay == 1 && !bit f.unit 0
  | .aclr f => f.ok kB000 true && f.m.toNat <= 7 && f.plain
  | .ard f => f.ok kBs00 true && Nat.testBit 0x1F3F (bits f.m 5 2) && bits f.m 8 6 <= 4 && f.lay == 1
  | .awr f => f.ok kBs00 true && Nat.testBit 0x110 (bits f.m 5 2) && bits f.m 10 6 == 0 && f.lay == 1
  | .ascl f => f.ok kBss0 true && bits f.m 3 2 != 3 && bits f.m 6 4 <= 4 && bits f.m 10 8 == 0 && f.plain
  | .msmx f => f.ok kBss0 true && f.m.toNat <= 15 && !(bit f.m 2 && bit f.m 3) && bit f.unit 0 && f.plain
  | .cnest f => f.ok k0ss0 false && f.m.toNat <= 7 && f.plain
  | .cgo f => f.ok kB000 false && f.m.toNat <= 7 && (bits f.m 2 1 == 0 || f.lay.toNat == bits f.m 2 1 + 3)
  | .cpy f => f.ok kBsss false && f.m.toNat <= 1
  | .gath f => f.ok kBsss false && f.m.toNat <= 31 && bits f.m 3 0 <= 12
  | .scat f => f.ok kBsss false && f.m.toNat <= 12
  | .decomp f => f.ok kBsss false && f.m.toNat <= 1 && !f.ri
  | .slabmv f => f.ok kBss0 false && f.m == 0 && f.plain
  | .dsend f => f.ok kBsss false && f.m == 0 && f.plain
  | .spull f => f.ok kBss0 false && f.m == 0 && f.plain
  | .sdrop f => f.ok kBs00 false && f.m == 0 && f.plain
  | .sfwd f => f.ok kBss0 false && f.m == 0 && f.plain
  | .mcst f => f.ok kBss0 false && f.m.toNat <= 127 && f.plain
  | .fred f => f.ok kBsss false && bits f.m 2 0 <= 5 && bits f.m 10 9 == 0 && f.plain
  | .tierpf f => f.ok kBss0 false && f.m.toNat <= 1 && f.plain
  | .nvrd f => f.ok kBsss false && f.m.toNat <= 1 && !f.ri
  | .nvwr f => f.ok kBsss false && f.m.toNat <= 2
  | .netq f => f.ok kBss0 false && f.m == 0 && f.plain
  | .waitb f => f.ok kcs00 0x1 && f.m == 0
  | .enqr f => f.ok k0ss0 0x1 false && f.m == 0
  | .join f => f.ok k0s00 0x1 && f.m == 0 && f.imm.toNat <= 63
  | .leave f => f.ok k0s00 0x1 && f.m == 0 && f.imm.toNat <= 63
  | .gbar f => f.ok k0s00 0x1 && f.m == 0 && f.imm.toNat <= 63
  | .tstart f => f.ok k0sss 0x1 false && f.m == 0
  | .texit f => f.ok k0000 0x1 false && f.m == 0
  | .dorm f => f.ok k0000 0x1 false && f.m == 0
  | .hmsg f => f.ok k0sss 0x1 false && f.m == 0
  | .seqTree f => f.ok kDss0 0x1 false && f.m == 0
  | .seqCheck f => f.ok kDss0 0x1 false && f.m == 0
  | .seqWinnow f => f.ok kDss0 0x1 false && f.m == 0
  | .seqRoll f => f.ok kDss0 0x1 false && f.m == 0
  | .seqPreempt f => f.ok kDss0 0x1 false && f.m == 0
  | .seqResume f => f.ok kDss0 0x1 false && f.m == 0
  | .seqStat f => f.ok kDss0 0x1 false && f.m == 0
  | .resv f => f.ok k0s00 0x1 false && f.m == 0
  | .flowq f => f.ok k0ss0 0x1 false && f.m == 0
  | .getc f => f.ok kD000 0x1 && f.m == 0 && f.imm.toNat <= 4095
  | .setc f => f.ok k0s00 0x1 && f.m == 0 && f.imm.toNat <= 4095
  | .trap f => f.ok k0000 0x1 && f.m == 0 && f.imm.toNat <= 255
  | .eret f => f.ok k0000 0x1 false && f.m == 0
  | .yield f => f.ok k0000 0x1 false && f.m == 0
  | .opend f => f.ok k0000 0x1 false && f.m == 0
  | .tlbi f => f.ok k0ss0 0x1 false && f.m.toNat <= 7
  | .ckpt f => f.ok k0s00 0x1 false && f.m == 0
  | .nopShort _ _ => true
  | .rep _ _ _ => true
  | .dictionaryParcel _ _ => true
  | .resultWriteback _ _ _ => true
  | .queueEntryPresent _ _ _ _ => true
  | .queuePlaceFreed _ _ _ _ => true
  | .globalLoadDataArrival _ _ _ _ _ => true
  | .ldqEntryFill _ _ _ _ => true
  | .stalledReadProceeds _ _ _ _ => true
  | .waitTimeout _ _ _ _ => true
  | .waitOrphan _ _ _ _ => true
  | .waitbPass _ _ _ _ => true
  | .waitvPass _ _ _ _ => true
  | .publishSwap _ _ _ _ => true
  | .acqGrant _ _ => true
  | .gbarGenerationComplete _ _ => true
  | .asyncInterrupt _ _ _ _ => true
  | .timingReplay _ _ _ _ => true
  | .operatorEnd _ _ => true
  | .tillerThreadStart _ _ => true
  | .handlerMessageReceive _ => true
  | .enqrAccept _ _ => true
  | .engineCommandStart _ _ _ => true
  | .copyCommandStart _ _ _ => true
  | .engineCommandRetire _ _ _ => true
  | .copyCommandRetire _ _ _ => true
  | .engineLineFillResume _ _ _ => true
  | .backpressureWriteResume _ _ _ => true
  | .slabMovePiece _ _ _ => true
  | .launchTagWrite _ _ _ => true
  | .launchComplete _ _ => true
  | .operatorDispatch _ _ => true
  | .stageFirstInput _ _ _ => true
  | .sqin _ => true
  | .sqout _ => true
  | .rebindingInterval _ => true
  | .periodStart _ => true
  | .dispatchAgeLimit _ _ => true
  | .gangTick _ _ => true
  | .gangSwitch _ _ => true
  | .overrun _ _ => true
  | .overrunAbort _ _ => true
  | .zmonRelease _ _ _ => true
  | .alloc _ => true
  | .free _ => true
  | .rule _ => true
  | .slabnew _ => true
  | .slabfree _ => true
  | .reclaimTimeout _ _ => true
  | .claimMet _ _ => true
  | .smPreemptApply _ _ => true
  | .nvmeCompletion _ _ _ _ _ => true
  | .nvmeCommandTimeout _ _ _ => true
  | .pageWalk _ _ _ _ => true
  | .pageMigration _ _ _ => true
  | .slotArrival _ _ => true
  | .flitResend _ => true
  | .starvationLimit _ _ => true
  | .readRequest _ => true
  | .readResponse _ => true
  | .write _ => true
  | .writeAck _ => true
  | .atomic _ => true
  | .atomicResponse _ => true
  | .nack _ => true
  | .requestTimeout _ _ => true
  | .multicastWrite _ => true
  | .multicastAck _ => true
  | .reductionContribution _ => true
  | .syncRequest _ => true
  | .control _ => true
  | .create _ => true
  | .mgFree _ => true
  | .addMember _ => true
  | .del _ => true
  | .handler _ => true
  | .query _ => true
  | .netPacketReceive _ _ _ => true
  | .netRetransmitTimeout _ _ _ => true
  | .netSpaceTimeout _ _ _ => true
  | .netRequestComplete _ _ _ => true
  | .netRecordComplete _ _ => true
  | .nrxheadWrite _ => true
  | .stub _ => true
  | .stubTouch _ _ _ => true
  | .pullRequest _ => true
  | .pullResponse _ => true
  | .pullAck _ => true
  | .repointSlot _ => true
  | .stubReleaseSlot _ => true
  | .stubRenewal _ _ => true
  | .renewalReceive _ => true
  | .holderLeaseExpiry _ _ => true
  | .ownerLeaseExpiry _ _ => true
  | .releaseResend _ _ => true
  | .holdStall _ _ _ _ => true
  | .holdKeepalive _ => true
  | .stubBind _ => true
  | .stubUnbind _ => true
  | .frecClear _ => true
  | .heartbeat _ => true
  | .dieFailure _ => true
  | .tileFailure _ _ => true
  | .memoryEccError _ _ _ _ => true
  | .marginEvent _ _ => true
  | .marginStep _ => true
  | .marginBackoffExpiry _ => true
  | .operatingPointChange _ _ => true
  | .railsetWrite _ _ => true
  | .currentGrant _ _ _ => true
  | .boostGrant _ => true
  | .boostExpiry _ => true
  | .coolmodeWrite _ _ => true
  | .coolFlow _ _ _ => true
  | .coolTemp _ _ _ => true
  | .coolPress _ _ => true
  | .coolVoid _ _ => true
  | .flowEvacTimeout _ _ => true
  | .zoneEvac _ _ => true
  | .zvalveEvacWrite _ _ _ => true
  | .parkTimeout _ _ => true
  | .primeTimeout _ _ _ _ _ => true
  | .fullReset => true
  | .bootPhaseComplete _ _ _ _ => true
  | .dtimeSync _ => true
  | .rackLinkUp _ _ => true
  | .lockInterfaceRequest _ _ => true
  | .startInterfaceRequest _ _ => true
  | .stopInterfaceRequest _ _ => true
  | .vfConfigChange _ _ => true
  | .getMeasurements _ _ => true
  | .keyDelivery _ _ _ _ => true
  | .teardown _ _ => true
  | .hostWrite _ _ _ _ => true
  | .hostRead _ _ _ _ => true
  | .dirtyLineEviction _ _ _ => true
  | .powerRemoval => true
  | .renewalAcknowledgement _ => true
  | .releaseAcknowledgement _ => true
  | .holdKeepaliveArrival _ => true
  | .heartbeatArrival _ => true
  | .netAcknowledgement _ _ _ _ _ _ => true
  | .ideKmKeySet _ _ => true
  | .teardownComplete _ _ => true
  | .zmonHold _ _ => true
  | .conditionCleared _ _ _ => true
  | .slotInjection _ => true

/-- The slot group of an instruction (R64): 0 S, 1 L, 2 V or X, 3 M, C or Y. -/
def slotGroup (i : Instr) : Nat :=
  match (opcode i).1 with
  | 0 => 0 | 1 => 1 | 2 => 2 | 3 => 2
  | _ => match i with
    | .nopShort _ _ => 0
    | _ => 3

/-- Whether a stream may issue the instruction (R84, R113, R116, R117): the execute stream when `exe`. -/
def streamOk (exe : Bool) (i : Instr) : Bool :=
  match (opcode i).1 with
  | 0 => match i with
    | .bqpop _ => exe
    | .loopset _ => exe
    | .brloop _ => exe
    | .qpush f => if exe then f.d == 0xC4 else f.d != 0xC4
    | .qpop f => if exe then f.a != 0xC4 else f.a == 0xC4
    | _ => true
  | 1 => match i with
    | .vld _ => exe
    | .vst _ => exe
    | .ld f => !exe || f.sp
    | .st f => !exe || f.sp
    | .atom f => !exe || f.sp
    | .cas f => !exe || f.sp
    | .atomf f => !exe || f.sp
    | .ldq _ => !exe
    | .acq _ => !exe
    | .rel _ => !exe
    | .bind _ => !exe
    | .unbind _ => !exe
    | _ => true
  | 2 => exe
  | 3 => exe
  | 4 => exe
  | 5 => !exe
  | _ => true

/-- The stop bit of an instruction (R79): a prefix has none, and an event ends what it is. -/
def stopBit (i : Instr) (w : Word) : Bool :=
  match i with
  | .nopShort stop _ => stop
  | .dictionaryParcel stop _ => stop
  | .rep _ _ _ => false
  | _ => bit w 1

/-- The forms that `REP` never takes (R87). -/
def repBarred (i : Instr) : Bool :=
  match i with
  | .prep _ => true | .prepx _ => true | .br _ => true | .brf _ => true | .jmp _ => true | .call _ => true
  | .ret _ => true | .bqpop _ => true | .loopset _ => true | .brloop _ => true | .texit _ => true | .dorm _ => true
  | .trap _ => true | .eret _ => true | .yield _ => true | .opend _ => true | .tlbi _ => true | .ckpt _ => true
  | _ => false

end Sys2Proof
end

