-- ==== Sys2Proof/Decode.lean ====
section
/-! DEFINITION. From parcels to instructions (R78 to R97) and back. `decode` is total on any bytes and refuses by name;
every refusal is an ILLOP of the machine (R97). -/

namespace Sys2Proof

/-- Why bytes are no instruction (R97). -/
inductive Reject where
  /-- fewer bytes than the parcel's kind needs -/
  | short
  /-- a parcel of kind 10 or 11 (R78) -/
  | parcel
  /-- class 111 (R89) -/
  | cls
  /-- an opcode that the maps do not list (R90 to R96) -/
  | opcode
  /-- a reserved bit that is not 0 (R81, R85, R88) -/
  | reserved
  /-- a field, type, modifier or immediate that the form does not take (R97) -/
  | illFormed
  deriving DecidableEq, Repr

/-- Bits `lo + n - 1 : lo` of a word. -/
def field (w : Word) (lo n : Nat) : BitVec n := w.extractLsb' lo n

def RegF.ofWord (w : Word) : RegF :=
  { stop := bit w 1, pr := field w 59 3, m := field w 49 10, t1 := field w 45 4, e := field w 37 8, b := field w 29 8,
    a := field w 21 8, d := field w 13 8 }
def ImmF.ofWord (w : Word) : ImmF :=
  { stop := bit w 1, m := field w 57 7, imm := field w 33 24, t1 := field w 29 4, a := field w 21 8, d := field w 13 8 }
def WideF.ofWord (w : Word) : WideF := { stop := bit w 1, imm := field w 21 32, d := field w 13 8 }
def MemF.ofWord (w : Word) : MemF :=
  { stop := bit w 1, sp := bit w 61, m := field w 53 8, disp := field w 41 12, t1 := field w 37 4, b := field w 29 8,
    a := field w 21 8, d := field w 13 8 }
def EngF.ofWord (w : Word) : EngF :=
  { stop := bit w 1, m := field w 52 11, unit := field w 49 3, ri := bit w 48, lay := field w 45 3, e := field w 37 8,
    b := field w 29 8, a := field w 21 8, d := field w 13 8 }

/-- One bit as a bit vector. -/
def one (b : Bool) : BitVec 1 := BitVec.ofBool b
/-- Bits 12:0 of every word (R79): op, cls, stop and a 0. -/
def low (cls op : Nat) (stop : Bool) : BitVec 13 := BitVec.ofNat 8 op ++ BitVec.ofNat 3 cls ++ one stop ++ (0 : BitVec 1)

def RegF.toWord (f : RegF) (cls op : Nat) : Word :=
  (0 : BitVec 2) ++ f.pr ++ f.m ++ f.t1 ++ f.e ++ f.b ++ f.a ++ f.d ++ low cls op f.stop
def ImmF.toWord (f : ImmF) (cls op : Nat) : Word := f.m ++ f.imm ++ f.t1 ++ f.a ++ f.d ++ low cls op f.stop
def WideF.toWord (f : WideF) (cls op : Nat) : Word := (0 : BitVec 11) ++ f.imm ++ f.d ++ low cls op f.stop
def MemF.toWord (f : MemF) (cls op : Nat) : Word :=
  (0 : BitVec 2) ++ one f.sp ++ f.m ++ f.disp ++ f.t1 ++ f.b ++ f.a ++ f.d ++ low cls op f.stop
def EngF.toWord (f : EngF) (cls op : Nat) : Word :=
  (0 : BitVec 1) ++ f.m ++ f.unit ++ one f.ri ++ f.lay ++ f.e ++ f.b ++ f.a ++ f.d ++ low cls op f.stop


/-- The opcode map of class S (R90). -/
def decodeS (op : Nat) (w : Word) : Option Instr :=
  match op with
  | 0x0 => some (.nop (.ofWord w))
  | 0x1 => some (.add (.ofWord w))
  | 0x2 => some (.sub (.ofWord w))
  | 0x3 => some (.mul (.ofWord w))
  | 0x4 => some (.mulh (.ofWord w))
  | 0x5 => some (.mulhn (.ofWord w))
  | 0x6 => some (.div (.ofWord w))
  | 0x7 => some (.divn (.ofWord w))
  | 0x8 => some (.rem (.ofWord w))
  | 0x9 => some (.remn (.ofWord w))
  | 0xa => some (.min (.ofWord w))
  | 0xb => some (.max (.ofWord w))
  | 0xc => some (.minn (.ofWord w))
  | 0xd => some (.maxn (.ofWord w))
  | 0xe => some (.and (.ofWord w))
  | 0xf => some (.or (.ofWord w))
  | 0x10 => some (.xor (.ofWord w))
  | 0x11 => some (.shl (.ofWord w))
  | 0x12 => some (.shr (.ofWord w))
  | 0x13 => some (.sra (.ofWord w))
  | 0x14 => some (.addx (.ofWord w))
  | 0x15 => some (.sel (.ofWord w))
  | 0x18 => some (.clz (.ofWord w))
  | 0x19 => some (.ctz (.ofWord w))
  | 0x1a => some (.popc (.ofWord w))
  | 0x20 => some (.addi (.ofWord w))
  | 0x21 => some (.andi (.ofWord w))
  | 0x22 => some (.ori (.ofWord w))
  | 0x23 => some (.xori (.ofWord w))
  | 0x24 => some (.shli (.ofWord w))
  | 0x25 => some (.shri (.ofWord w))
  | 0x26 => some (.srai (.ofWord w))
  | 0x27 => some (.bext (.ofWord w))
  | 0x28 => some (.bins (.ofWord w))
  | 0x30 => some (.movi (.ofWord w))
  | 0x31 => some (.movh (.ofWord w))
  | 0x38 => some (.cmp (.ofWord w))
  | 0x39 => some (.cmpi (.ofWord w))
  | 0x40 => some (.prep (.ofWord w))
  | 0x41 => some (.prepx (.ofWord w))
  | 0x42 => some (.br (.ofWord w))
  | 0x43 => some (.brf (.ofWord w))
  | 0x44 => some (.jmp (.ofWord w))
  | 0x45 => some (.call (.ofWord w))
  | 0x46 => some (.ret (.ofWord w))
  | 0x47 => some (.bqpop (.ofWord w))
  | 0x48 => some (.loopset (.ofWord w))
  | 0x49 => some (.brloop (.ofWord w))
  | 0x4a => some (.qpush (.ofWord w))
  | 0x4b => some (.qpop (.ofWord w))
  | _ => none

/-- The opcode map of class L (R91). -/
def decodeL (op : Nat) (w : Word) : Option Instr :=
  match op with
  | 0x0 => some (.ld (.ofWord w))
  | 0x1 => some (.st (.ofWord w))
  | 0x2 => some (.ldq (.ofWord w))
  | 0x3 => some (.vld (.ofWord w))
  | 0x4 => some (.vst (.ofWord w))
  | 0x8 => some (.atom (.ofWord w))
  | 0x9 => some (.cas (.ofWord w))
  | 0xa => some (.atomf (.ofWord w))
  | 0x10 => some (.fence (.ofWord w))
  | 0x11 => some (.acq (.ofWord w))
  | 0x12 => some (.rel (.ofWord w))
  | 0x13 => some (.bind (.ofWord w))
  | 0x14 => some (.unbind (.ofWord w))
  | 0x18 => some (.publish (.ofWord w))
  | 0x19 => some (.waitv (.ofWord w))
  | 0x1a => some (.cinc (.ofWord w))
  | 0x1c => some (.lnset (.ofWord w))
  | 0x1d => some (.lnclr (.ofWord w))
  | 0x1e => some (.lnpeek (.ofWord w))
  | _ => none

/-- The opcode map of class V (R92). -/
def decodeV (op : Nat) (w : Word) : Option Instr :=
  match op with
  | 0x0 => some (.vadd (.ofWord w))
  | 0x1 => some (.vsub (.ofWord w))
  | 0x2 => some (.vmul (.ofWord w))
  | 0x3 => some (.vfma (.ofWord w))
  | 0x4 => some (.vfms (.ofWord w))
  | 0x5 => some (.vmin (.ofWord w))
  | 0x6 => some (.vmax (.ofWord w))
  | 0x7 => some (.vabs (.ofWord w))
  | 0x8 => some (.vneg (.ofWord w))
  | 0x10 => some (.vand (.ofWord w))
  | 0x11 => some (.vor (.ofWord w))
  | 0x12 => some (.vxor (.ofWord w))
  | 0x13 => some (.vnot (.ofWord w))
  | 0x14 => some (.vshl (.ofWord w))
  | 0x15 => some (.vshr (.ofWord w))
  | 0x16 => some (.vsra (.ofWord w))
  | 0x18 => some (.vcmp (.ofWord w))
  | 0x19 => some (.vsel (.ofWord w))
  | 0x20 => some (.vbcast (.ofWord w))
  | 0x21 => some (.vrowb (.ofWord w))
  | 0x22 => some (.vcolb (.ofWord w))
  | 0x28 => some (.vrsum (.ofWord w))
  | 0x29 => some (.vrmax (.ofWord w))
  | 0x2a => some (.vcsum (.ofWord w))
  | 0x2b => some (.vcmax (.ofWord w))
  | 0x30 => some (.vtrans (.ofWord w))
  | 0x31 => some (.vshuf (.ofWord w))
  | 0x32 => some (.viota (.ofWord w))
  | 0x33 => some (.vmovs (.ofWord w))
  | 0x34 => some (.vins (.ofWord w))
  | 0x35 => some (.vshape (.ofWord w))
  | 0x38 => some (.vexp2 (.ofWord w))
  | 0x39 => some (.vlog2 (.ofWord w))
  | 0x3a => some (.vrcp (.ofWord w))
  | 0x3b => some (.vrsq (.ofWord w))
  | 0x40 => some (.pand (.ofWord w))
  | 0x41 => some (.por (.ofWord w))
  | 0x42 => some (.pxor (.ofWord w))
  | 0x43 => some (.pandn (.ofWord w))
  | 0x44 => some (.pnot (.ofWord w))
  | 0x45 => some (.pset (.ofWord w))
  | 0x46 => some (.pcnt (.ofWord w))
  | 0x48 => some (.cspush (.ofWord w))
  | 0x49 => some (.cspop (.ofWord w))
  | 0x4a => some (.csbal (.ofWord w))
  | 0x50 => some (.vdot4 (.ofWord w))
  | _ => none

/-- The opcode map of class X (R93). -/
def decodeX (op : Nat) (w : Word) : Option Instr :=
  match op with
  | 0x0 => some (.cvt (.ofWord w))
  | 0x1 => some (.cvti (.ofWord w))
  | 0x2 => some (.xunp (.ofWord w))
  | 0x3 => some (.xpack (.ofWord w))
  | 0x4 => some (.xscale (.ofWord w))
  | 0x5 => some (.xfp6j (.ofWord w))
  | 0x6 => some (.xfp6s (.ofWord w))
  | 0x7 => some (.xshdec (.ofWord w))
  | 0x8 => some (.xshenc (.ofWord w))
  | _ => none

/-- The opcode map of class M (R94). -/
def decodeM (op : Nat) (w : Word) : Option Instr :=
  match op with
  | 0x0 => some (.mnest (.ofWord w))
  | 0x1 => some (.mgo (.ofWord w))
  | 0x2 => some (.ldstat (.ofWord w))
  | 0x3 => some (.mplane (.ofWord w))
  | 0x4 => some (.mma (.ofWord w))
  | 0x5 => some (.attn (.ofWord w))
  | 0x6 => some (.aclr (.ofWord w))
  | 0x7 => some (.ard (.ofWord w))
  | 0x8 => some (.awr (.ofWord w))
  | 0x9 => some (.ascl (.ofWord w))
  | 0xa => some (.msmx (.ofWord w))
  | _ => none

/-- The opcode map of class C (R95). -/
def decodeC (op : Nat) (w : Word) : Option Instr :=
  match op with
  | 0x0 => some (.cnest (.ofWord w))
  | 0x1 => some (.cgo (.ofWord w))
  | 0x2 => some (.cpy (.ofWord w))
  | 0x3 => some (.gath (.ofWord w))
  | 0x4 => some (.scat (.ofWord w))
  | 0x5 => some (.decomp (.ofWord w))
  | 0x6 => some (.slabmv (.ofWord w))
  | 0x8 => some (.dsend (.ofWord w))
  | 0x9 => some (.spull (.ofWord w))
  | 0xa => some (.sdrop (.ofWord w))
  | 0xb => some (.sfwd (.ofWord w))
  | 0xc => some (.mcst (.ofWord w))
  | 0xd => some (.fred (.ofWord w))
  | 0xe => some (.tierpf (.ofWord w))
  | 0x10 => some (.nvrd (.ofWord w))
  | 0x11 => some (.nvwr (.ofWord w))
  | 0x12 => some (.netq (.ofWord w))
  | _ => none

/-- The opcode map of class Y (R96). -/
def decodeY (op : Nat) (w : Word) : Option Instr :=
  match op with
  | 0x0 => some (.waitb (.ofWord w))
  | 0x1 => some (.enqr (.ofWord w))
  | 0x2 => some (.join (.ofWord w))
  | 0x3 => some (.leave (.ofWord w))
  | 0x4 => some (.gbar (.ofWord w))
  | 0x5 => some (.tstart (.ofWord w))
  | 0x6 => some (.texit (.ofWord w))
  | 0x7 => some (.dorm (.ofWord w))
  | 0x8 => some (.hmsg (.ofWord w))
  | 0x10 => some (.seqTree (.ofWord w))
  | 0x11 => some (.seqCheck (.ofWord w))
  | 0x12 => some (.seqWinnow (.ofWord w))
  | 0x13 => some (.seqRoll (.ofWord w))
  | 0x14 => some (.seqPreempt (.ofWord w))
  | 0x15 => some (.seqResume (.ofWord w))
  | 0x16 => some (.seqStat (.ofWord w))
  | 0x20 => some (.resv (.ofWord w))
  | 0x21 => some (.flowq (.ofWord w))
  | 0x30 => some (.getc (.ofWord w))
  | 0x31 => some (.setc (.ofWord w))
  | 0x32 => some (.trap (.ofWord w))
  | 0x33 => some (.eret (.ofWord w))
  | 0x34 => some (.yield (.ofWord w))
  | 0x35 => some (.opend (.ofWord w))
  | 0x36 => some (.tlbi (.ofWord w))
  | 0x37 => some (.ckpt (.ofWord w))
  | _ => none

/-- The instruction that class and opcode name, with the fields of its format (R89). -/
def rawWord (w : Word) : Option Instr :=
  match bits w 4 2 with
  | 0 => decodeS (bits w 12 5) w
  | 1 => decodeL (bits w 12 5) w
  | 2 => decodeV (bits w 12 5) w
  | 3 => decodeX (bits w 12 5) w
  | 4 => decodeM (bits w 12 5) w
  | 5 => decodeC (bits w 12 5) w
  | 6 => decodeY (bits w 12 5) w
  | _ => none


/-- The 64-bit word of an instruction (R81), 0 for what is no full word. -/
def encodeWord : Instr → Word
  | .nop f => f.toWord 0 0x0
  | .add f => f.toWord 0 0x1
  | .sub f => f.toWord 0 0x2
  | .mul f => f.toWord 0 0x3
  | .mulh f => f.toWord 0 0x4
  | .mulhn f => f.toWord 0 0x5
  | .div f => f.toWord 0 0x6
  | .divn f => f.toWord 0 0x7
  | .rem f => f.toWord 0 0x8
  | .remn f => f.toWord 0 0x9
  | .min f => f.toWord 0 0xa
  | .max f => f.toWord 0 0xb
  | .minn f => f.toWord 0 0xc
  | .maxn f => f.toWord 0 0xd
  | .and f => f.toWord 0 0xe
  | .or f => f.toWord 0 0xf
  | .xor f => f.toWord 0 0x10
  | .shl f => f.toWord 0 0x11
  | .shr f => f.toWord 0 0x12
  | .sra f => f.toWord 0 0x13
  | .addx f => f.toWord 0 0x14
  | .sel f => f.toWord 0 0x15
  | .clz f => f.toWord 0 0x18
  | .ctz f => f.toWord 0 0x19
  | .popc f => f.toWord 0 0x1a
  | .addi f => f.toWord 0 0x20
  | .andi f => f.toWord 0 0x21
  | .ori f => f.toWord 0 0x22
  | .xori f => f.toWord 0 0x23
  | .shli f => f.toWord 0 0x24
  | .shri f => f.toWord 0 0x25
  | .srai f => f.toWord 0 0x26
  | .bext f => f.toWord 0 0x27
  | .bins f => f.toWord 0 0x28
  | .movi f => f.toWord 0 0x30
  | .movh f => f.toWord 0 0x31
  | .cmp f => f.toWord 0 0x38
  | .cmpi f => f.toWord 0 0x39
  | .prep f => f.toWord 0 0x40
  | .prepx f => f.toWord 0 0x41
  | .br f => f.toWord 0 0x42
  | .brf f => f.toWord 0 0x43
  | .jmp f => f.toWord 0 0x44
  | .call f => f.toWord 0 0x45
  | .ret f => f.toWord 0 0x46
  | .bqpop f => f.toWord 0 0x47
  | .loopset f => f.toWord 0 0x48
  | .brloop f => f.toWord 0 0x49
  | .qpush f => f.toWord 0 0x4a
  | .qpop f => f.toWord 0 0x4b
  | .ld f => f.toWord 1 0x0
  | .st f => f.toWord 1 0x1
  | .ldq f => f.toWord 1 0x2
  | .vld f => f.toWord 1 0x3
  | .vst f => f.toWord 1 0x4
  | .atom f => f.toWord 1 0x8
  | .cas f => f.toWord 1 0x9
  | .atomf f => f.toWord 1 0xa
  | .fence f => f.toWord 1 0x10
  | .acq f => f.toWord 1 0x11
  | .rel f => f.toWord 1 0x12
  | .bind f => f.toWord 1 0x13
  | .unbind f => f.toWord 1 0x14
  | .publish f => f.toWord 1 0x18
  | .waitv f => f.toWord 1 0x19
  | .cinc f => f.toWord 1 0x1a
  | .lnset f => f.toWord 1 0x1c
  | .lnclr f => f.toWord 1 0x1d
  | .lnpeek f => f.toWord 1 0x1e
  | .vadd f => f.toWord 2 0x0
  | .vsub f => f.toWord 2 0x1
  | .vmul f => f.toWord 2 0x2
  | .vfma f => f.toWord 2 0x3
  | .vfms f => f.toWord 2 0x4
  | .vmin f => f.toWord 2 0x5
  | .vmax f => f.toWord 2 0x6
  | .vabs f => f.toWord 2 0x7
  | .vneg f => f.toWord 2 0x8
  | .vand f => f.toWord 2 0x10
  | .vor f => f.toWord 2 0x11
  | .vxor f => f.toWord 2 0x12
  | .vnot f => f.toWord 2 0x13
  | .vshl f => f.toWord 2 0x14
  | .vshr f => f.toWord 2 0x15
  | .vsra f => f.toWord 2 0x16
  | .vcmp f => f.toWord 2 0x18
  | .vsel f => f.toWord 2 0x19
  | .vbcast f => f.toWord 2 0x20
  | .vrowb f => f.toWord 2 0x21
  | .vcolb f => f.toWord 2 0x22
  | .vrsum f => f.toWord 2 0x28
  | .vrmax f => f.toWord 2 0x29
  | .vcsum f => f.toWord 2 0x2a
  | .vcmax f => f.toWord 2 0x2b
  | .vtrans f => f.toWord 2 0x30
  | .vshuf f => f.toWord 2 0x31
  | .viota f => f.toWord 2 0x32
  | .vmovs f => f.toWord 2 0x33
  | .vins f => f.toWord 2 0x34
  | .vshape f => f.toWord 2 0x35
  | .vexp2 f => f.toWord 2 0x38
  | .vlog2 f => f.toWord 2 0x39
  | .vrcp f => f.toWord 2 0x3a
  | .vrsq f => f.toWord 2 0x3b
  | .pand f => f.toWord 2 0x40
  | .por f => f.toWord 2 0x41
  | .pxor f => f.toWord 2 0x42
  | .pandn f => f.toWord 2 0x43
  | .pnot f => f.toWord 2 0x44
  | .pset f => f.toWord 2 0x45
  | .pcnt f => f.toWord 2 0x46
  | .cspush f => f.toWord 2 0x48
  | .cspop f => f.toWord 2 0x49
  | .csbal f => f.toWord 2 0x4a
  | .vdot4 f => f.toWord 2 0x50
  | .cvt f => f.toWord 3 0x0
  | .cvti f => f.toWord 3 0x1
  | .xunp f => f.toWord 3 0x2
  | .xpack f => f.toWord 3 0x3
  | .xscale f => f.toWord 3 0x4
  | .xfp6j f => f.toWord 3 0x5
  | .xfp6s f => f.toWord 3 0x6
  | .xshdec f => f.toWord 3 0x7
  | .xshenc f => f.toWord 3 0x8
  | .mnest f => f.toWord 4 0x0
  | .mgo f => f.toWord 4 0x1
  | .ldstat f => f.toWord 4 0x2
  | .mplane f => f.toWord 4 0x3
  | .mma f => f.toWord 4 0x4
  | .attn f => f.toWord 4 0x5
  | .aclr f => f.toWord 4 0x6
  | .ard f => f.toWord 4 0x7
  | .awr f => f.toWord 4 0x8
  | .ascl f => f.toWord 4 0x9
  | .msmx f => f.toWord 4 0xa
  | .cnest f => f.toWord 5 0x0
  | .cgo f => f.toWord 5 0x1
  | .cpy f => f.toWord 5 0x2
  | .gath f => f.toWord 5 0x3
  | .scat f => f.toWord 5 0x4
  | .decomp f => f.toWord 5 0x5
  | .slabmv f => f.toWord 5 0x6
  | .dsend f => f.toWord 5 0x8
  | .spull f => f.toWord 5 0x9
  | .sdrop f => f.toWord 5 0xa
  | .sfwd f => f.toWord 5 0xb
  | .mcst f => f.toWord 5 0xc
  | .fred f => f.toWord 5 0xd
  | .tierpf f => f.toWord 5 0xe
  | .nvrd f => f.toWord 5 0x10
  | .nvwr f => f.toWord 5 0x11
  | .netq f => f.toWord 5 0x12
  | .waitb f => f.toWord 6 0x0
  | .enqr f => f.toWord 6 0x1
  | .join f => f.toWord 6 0x2
  | .leave f => f.toWord 6 0x3
  | .gbar f => f.toWord 6 0x4
  | .tstart f => f.toWord 6 0x5
  | .texit f => f.toWord 6 0x6
  | .dorm f => f.toWord 6 0x7
  | .hmsg f => f.toWord 6 0x8
  | .seqTree f => f.toWord 6 0x10
  | .seqCheck f => f.toWord 6 0x11
  | .seqWinnow f => f.toWord 6 0x12
  | .seqRoll f => f.toWord 6 0x13
  | .seqPreempt f => f.toWord 6 0x14
  | .seqResume f => f.toWord 6 0x15
  | .seqStat f => f.toWord 6 0x16
  | .resv f => f.toWord 6 0x20
  | .flowq f => f.toWord 6 0x21
  | .getc f => f.toWord 6 0x30
  | .setc f => f.toWord 6 0x31
  | .trap f => f.toWord 6 0x32
  | .eret f => f.toWord 6 0x33
  | .yield f => f.toWord 6 0x34
  | .opend f => f.toWord 6 0x35
  | .tlbi f => f.toWord 6 0x36
  | .ckpt f => f.toWord 6 0x37
  | .nopShort _ _ => 0
  | .rep _ _ _ => 0
  | .dictionaryParcel _ _ => 0
  | .resultWriteback _ _ _ => 0
  | .queueEntryPresent _ _ _ _ => 0
  | .queuePlaceFreed _ _ _ _ => 0
  | .globalLoadDataArrival _ _ _ _ _ => 0
  | .ldqEntryFill _ _ _ _ => 0
  | .stalledReadProceeds _ _ _ _ => 0
  | .waitTimeout _ _ _ _ => 0
  | .waitOrphan _ _ _ _ => 0
  | .waitbPass _ _ _ _ => 0
  | .waitvPass _ _ _ _ => 0
  | .publishSwap _ _ _ _ => 0
  | .acqGrant _ _ => 0
  | .gbarGenerationComplete _ _ => 0
  | .asyncInterrupt _ _ _ _ => 0
  | .timingReplay _ _ _ _ => 0
  | .operatorEnd _ _ => 0
  | .tillerThreadStart _ _ => 0
  | .handlerMessageReceive _ => 0
  | .enqrAccept _ _ => 0
  | .engineCommandStart _ _ _ => 0
  | .copyCommandStart _ _ _ => 0
  | .engineCommandRetire _ _ _ => 0
  | .copyCommandRetire _ _ _ => 0
  | .engineLineFillResume _ _ _ => 0
  | .backpressureWriteResume _ _ _ => 0
  | .slabMovePiece _ _ _ => 0
  | .launchTagWrite _ _ _ => 0
  | .launchComplete _ _ => 0
  | .operatorDispatch _ _ => 0
  | .stageFirstInput _ _ _ => 0
  | .sqin _ => 0
  | .sqout _ => 0
  | .rebindingInterval _ => 0
  | .periodStart _ => 0
  | .dispatchAgeLimit _ _ => 0
  | .gangTick _ _ => 0
  | .gangSwitch _ _ => 0
  | .overrun _ _ => 0
  | .overrunAbort _ _ => 0
  | .zmonRelease _ _ _ => 0
  | .alloc _ => 0
  | .free _ => 0
  | .rule _ => 0
  | .slabnew _ => 0
  | .slabfree _ => 0
  | .reclaimTimeout _ _ => 0
  | .claimMet _ _ => 0
  | .smPreemptApply _ _ => 0
  | .nvmeCompletion _ _ _ _ _ => 0
  | .nvmeCommandTimeout _ _ _ => 0
  | .pageWalk _ _ _ _ => 0
  | .pageMigration _ _ _ => 0
  | .slotArrival _ _ => 0
  | .flitResend _ => 0
  | .starvationLimit _ _ => 0
  | .readRequest _ => 0
  | .readResponse _ => 0
  | .write _ => 0
  | .writeAck _ => 0
  | .atomic _ => 0
  | .atomicResponse _ => 0
  | .nack _ => 0
  | .requestTimeout _ _ => 0
  | .multicastWrite _ => 0
  | .multicastAck _ => 0
  | .reductionContribution _ => 0
  | .syncRequest _ => 0
  | .control _ => 0
  | .create _ => 0
  | .mgFree _ => 0
  | .addMember _ => 0
  | .del _ => 0
  | .handler _ => 0
  | .query _ => 0
  | .netPacketReceive _ _ _ => 0
  | .netRetransmitTimeout _ _ _ => 0
  | .netSpaceTimeout _ _ _ => 0
  | .netRequestComplete _ _ _ => 0
  | .netRecordComplete _ _ => 0
  | .nrxheadWrite _ => 0
  | .stub _ => 0
  | .stubTouch _ _ _ => 0
  | .pullRequest _ => 0
  | .pullResponse _ => 0
  | .pullAck _ => 0
  | .repointSlot _ => 0
  | .stubReleaseSlot _ => 0
  | .stubRenewal _ _ => 0
  | .renewalReceive _ => 0
  | .holderLeaseExpiry _ _ => 0
  | .ownerLeaseExpiry _ _ => 0
  | .releaseResend _ _ => 0
  | .holdStall _ _ _ _ => 0
  | .holdKeepalive _ => 0
  | .stubBind _ => 0
  | .stubUnbind _ => 0
  | .frecClear _ => 0
  | .heartbeat _ => 0
  | .dieFailure _ => 0
  | .tileFailure _ _ => 0
  | .memoryEccError _ _ _ _ => 0
  | .marginEvent _ _ => 0
  | .marginStep _ => 0
  | .marginBackoffExpiry _ => 0
  | .operatingPointChange _ _ => 0
  | .railsetWrite _ _ => 0
  | .currentGrant _ _ _ => 0
  | .boostGrant _ => 0
  | .boostExpiry _ => 0
  | .coolmodeWrite _ _ => 0
  | .coolFlow _ _ _ => 0
  | .coolTemp _ _ _ => 0
  | .coolPress _ _ => 0
  | .coolVoid _ _ => 0
  | .flowEvacTimeout _ _ => 0
  | .zoneEvac _ _ => 0
  | .zvalveEvacWrite _ _ _ => 0
  | .parkTimeout _ _ => 0
  | .primeTimeout _ _ _ _ _ => 0
  | .fullReset => 0
  | .bootPhaseComplete _ _ _ _ => 0
  | .dtimeSync _ => 0
  | .rackLinkUp _ _ => 0
  | .lockInterfaceRequest _ _ => 0
  | .startInterfaceRequest _ _ => 0
  | .stopInterfaceRequest _ _ => 0
  | .vfConfigChange _ _ => 0
  | .getMeasurements _ _ => 0
  | .keyDelivery _ _ _ _ => 0
  | .teardown _ _ => 0
  | .hostWrite _ _ _ _ => 0
  | .hostRead _ _ _ _ => 0
  | .dirtyLineEviction _ _ _ => 0
  | .powerRemoval => 0
  | .renewalAcknowledgement _ => 0
  | .releaseAcknowledgement _ => 0
  | .holdKeepaliveArrival _ => 0
  | .heartbeatArrival _ => 0
  | .netAcknowledgement _ _ _ _ _ _ => 0
  | .ideKmKeySet _ _ => 0
  | .teardownComplete _ _ => 0
  | .zmonHold _ _ => 0
  | .conditionCleared _ _ _ => 0
  | .slotInjection _ => 0

/-- A full word (R79, R97): refused when its class or opcode is none, when a reserved bit is set (the word is then not
the one that its fields make), and when a field, type, modifier or immediate is not one that the form takes. -/
def decodeWord (w : Word) : Except Reject Instr :=
  match rawWord w with
  | none => .error (if bits w 4 2 == 7 then .cls else .opcode)
  | some i =>
    if encodeWord i != w then .error .reserved
    else if wf i then .ok i
    else .error .illFormed

/-- A prefix, a short `NOP` or a dictionary parcel (R72, R73, R85, R88). -/
def decodeParcel (h : BitVec 16) : Except Reject Instr :=
  if bits h 1 0 == 1 then
    if bits h 15 13 == 0 then .ok (.dictionaryParcel (bit h 2) (h.extractLsb' 3 10)) else .error .reserved
  else match bits h 3 2 with
  | 0 => .ok (.rep (h.extractLsb' 4 6) (h.extractLsb' 10 4) (h.extractLsb' 14 2))
  | 1 => if bit h 5 || bits h 15 10 != 0 then .error .reserved else .ok (.nopShort (bit h 4) (h.extractLsb' 6 4))
  | _ => .error .parcel

/-- The parcel of a prefix, a short `NOP` or a dictionary parcel. -/
def encodeParcel : Instr → BitVec 16
  | .rep c m s => s ++ m ++ c ++ (3 : BitVec 4)
  | .nopShort stop n => (0 : BitVec 6) ++ n ++ (0 : BitVec 1) ++ one stop ++ (7 : BitVec 4)
  | .dictionaryParcel stop i => (0 : BitVec 3) ++ i ++ one stop ++ (1 : BitVec 2)
  | _ => 0

/-- Whether the first parcel begins a full word (R78): bit 0 is 0. -/
def isWord (h : BitVec 16) : Bool := !bit h 0

/-- Bytes to a number, the lowest address least significant (R5). -/
def leNat : List Byte → Nat
  | [] => 0
  | b :: bs => b.toNat + 256 * leNat bs

/-- The low `n` bytes of a number, the least significant first (R5). -/
def leBytes : Nat → Nat → List Byte
  | 0, _ => []
  | n + 1, v => BitVec.ofNat 8 v :: leBytes n (v / 256)

/-- The instruction at the front of the bytes, and the bytes that follow it. -/
def decode (bs : List Byte) : Except Reject (Instr × List Byte) :=
  if bs.length < 2 then .error .short
  else
    let h := BitVec.ofNat 16 (leNat (bs.take 2))
    if isWord h then
      if bs.length < 8 then .error .short
      else (decodeWord (BitVec.ofNat 64 (leNat (bs.take 8)))).map (fun i => (i, bs.drop 8))
    else (decodeParcel h).map (fun i => (i, bs.drop 2))

/-- Whether the instruction is one parcel. -/
def isParcel : Instr → Bool
  | .rep _ _ _ => true
  | .nopShort _ _ => true
  | .dictionaryParcel _ _ => true
  | _ => false

/-- The parcels of an instruction, as one number, and its length in bytes (R78, R79). -/
def encode (i : Instr) : List Byte :=
  if isParcel i then leBytes 2 (encodeParcel i).toNat else leBytes 8 (encodeWord i).toNat

/-- The instruction that the decoder reads from `nbits` bits `w`, numbered as spec/opcode_table.json numbers them, with
zeros above. -/
def decodeTableWord (nbits w : Nat) : Option Instr :=
  match decode (leBytes 8 (w % 2 ^ nbits)) with
  | .ok (i, _) => some i
  | .error _ => none

end Sys2Proof
end

