-- ==== Sys2Proof/Machine/Num.lean ====
section
/-! DEFINITION. Number formats and exact arithmetic (R37 to R61): values, rounding, the sr_hash, the reference functions
and CRC-32C. Every value is formed exactly and rounded once. -/

namespace Sys2Proof.Machine

/-- A floating-point format (R39): width, mantissa bits, bias, and which encodings are special
(0 IEEE: infinities and NaNs; 1 e4m3: one NaN code; 2 none). -/
structure Fmt where
  w : Nat
  mb : Nat
  bias : Nat
  spec : Nat
  deriving DecidableEq, Repr

/-- Formats by type code (R37, R39); 16 is e3m2 and 17 is e2m3, which have no type code (R43). -/
def fmtOf (t : Nat) : Fmt :=
  match t with
  | 8 => ⟨32, 23, 127, 0⟩
  | 9 => ⟨16, 7, 127, 0⟩
  | 10 => ⟨16, 10, 15, 0⟩
  | 11 => ⟨8, 3, 7, 1⟩
  | 12 => ⟨8, 2, 15, 0⟩
  | 13 => ⟨4, 1, 1, 2⟩
  | 16 => ⟨6, 2, 3, 2⟩
  | _ => ⟨6, 3, 1, 2⟩

/-- The largest finite code (R39). -/
def Fmt.maxFin (f : Fmt) : Nat :=
  match f.spec with
  | 0 => (2 ^ (f.w - 1 - f.mb) - 1) * 2 ^ f.mb - 1
  | 1 => 0x7E
  | _ => 2 ^ (f.w - 1) - 1

/-- The canonical NaN (R41); a format without NaN gives +0 (R52). -/
def Fmt.nan (f : Fmt) : Nat :=
  match f.spec with
  | 0 => (2 ^ (f.w - 1 - f.mb) - 1) * 2 ^ f.mb + 2 ^ (f.mb - 1)
  | 1 => 0x7F
  | _ => 0

/-- Infinity's magnitude code, where the format has one. -/
def Fmt.inf (f : Fmt) : Nat := (2 ^ (f.w - 1 - f.mb) - 1) * 2 ^ f.mb

/-- A value: NaN, an infinity, or (−1)^neg × m × 2^e. -/
inductive FVal where
  | nan
  | inf (neg : Bool)
  | fin (neg : Bool) (m : Nat) (e : Int)
  deriving DecidableEq, Repr

/-- The value of a code (R39). -/
def Fmt.value (f : Fmt) (c : Nat) : FVal :=
  let neg := c.testBit (f.w - 1)
  let mag := c % 2 ^ (f.w - 1)
  let e := mag / 2 ^ f.mb
  let m := mag % 2 ^ f.mb
  if f.spec == 0 && e == 2 ^ (f.w - 1 - f.mb) - 1 then (if m == 0 then .inf neg else .nan)
  else if f.spec == 1 && mag == 0x7F then .nan
  else if e == 0 then .fin neg m (1 - (f.bias : Int) - f.mb)
  else .fin neg (2 ^ f.mb + m) ((e : Int) - f.bias - f.mb)

/-- Whether a code is a non-zero subnormal. -/
def Fmt.isSub (f : Fmt) (c : Nat) : Bool := let mag := c % 2 ^ (f.w - 1); mag != 0 && mag < 2 ^ f.mb

/-- An integer as a value. -/
def FVal.ofInt (n : Int) : FVal := .fin (n < 0) n.natAbs 0

/-- The value of a code of any type (R38, R39); flush bit 1 reads bf16 and f16 subnormals as zeros of their sign (R54). -/
def valueOf (t c : Nat) (flushIn : Bool) : FVal :=
  if t <= 7 then .ofInt (if isSigned t then sint c (width t) else (c % 2 ^ width t : Nat))
  else
    let f := fmtOf t
    if flushIn && (t == 9 || t == 10) && f.isSub c then .fin (c.testBit (f.w - 1)) 0 0 else f.value c

/-! ### Exact arithmetic (R42) -/

/-- A finite value over a common exponent. -/
def scaled (neg : Bool) (m : Nat) (e base : Int) : Int :=
  let v : Int := (m * 2 ^ (e - base).toNat : Nat)
  if neg then -v else v

/-- The exact sum of two finite values; `rdn` says that a zero sum is −0, as it also is when both operands are (R42). -/
def finAdd (n1 : Bool) (m1 : Nat) (e1 : Int) (n2 : Bool) (m2 : Nat) (e2 : Int) (rdn : Bool) : FVal :=
  let e := min e1 e2
  let s := scaled n1 m1 e1 e + scaled n2 m2 e2 e
  if s == 0 then
    .fin (if m1 == 0 && m2 == 0 && n1 && n2 then true else rdn) 0 0
  else .fin (s < 0) s.natAbs e

/-- The sum of two values (R42). -/
def FVal.add (a b : FVal) (rdn : Bool) : FVal :=
  match a, b with
  | .nan, _ => .nan
  | _, .nan => .nan
  | .inf x, .inf y => if x == y then .inf x else .nan
  | .inf x, _ => .inf x
  | _, .inf y => .inf y
  | .fin n1 m1 e1, .fin n2 m2 e2 => finAdd n1 m1 e1 n2 m2 e2 rdn

/-- The sign-flipped value. -/
def FVal.neg : FVal → FVal
  | .nan => .nan
  | .inf n => .inf (!n)
  | .fin n m e => .fin (!n) m e

/-- The magnitude. -/
def FVal.abs : FVal → FVal
  | .nan => .nan
  | .inf _ => .inf false
  | .fin _ m e => .fin false m e

/-- The exact product (R42: 0 × ∞ is NaN). -/
def FVal.mul (a b : FVal) : FVal :=
  match a, b with
  | .nan, _ => .nan
  | _, .nan => .nan
  | .inf x, .inf y => .inf (x != y)
  | .inf x, .fin n m _ => if m == 0 then .nan else .inf (x != n)
  | .fin n m _, .inf y => if m == 0 then .nan else .inf (n != y)
  | .fin n1 m1 e1, .fin n2 m2 e2 => .fin (n1 != n2) (m1 * m2) (e1 + e2)

/-- Scale by a power of two, exactly. -/
def FVal.shift (a : FVal) (k : Int) : FVal :=
  match a with
  | .fin n m e => .fin n m (e + k)
  | v => v

/-- −1, 0 or 1 for two values that are not NaN, −0 equal to +0. -/
def FVal.cmp (a b : FVal) : Int :=
  match a, b with
  | .inf x, .inf y => if x == y then 0 else if x then -1 else 1
  | .inf x, _ => if x then -1 else 1
  | _, .inf y => if y then 1 else -1
  | .fin n1 m1 e1, .fin n2 m2 e2 =>
    let e := min e1 e2
    let d := scaled n1 m1 e1 e - scaled n2 m2 e2 e
    if d < 0 then -1 else if d == 0 then 0 else 1
  | _, _ => 0

/-- Whether the value is negative or −0. -/
def FVal.isNeg : FVal → Bool
  | .nan => false
  | .inf n => n
  | .fin n _ _ => n

/-- `cmp` with −0 below +0 (R132, R151). -/
def FVal.cmp0 (a b : FVal) : Int :=
  let c := FVal.cmp a b
  if c == 0 then (if a.isNeg && !b.isNeg then -1 else if !a.isNeg && b.isNeg then 1 else 0) else c

/-- The lesser or greater value; NaN when either is NaN. -/
def FVal.minMax (greater : Bool) (a b : FVal) : FVal :=
  match a, b with
  | .nan, _ => .nan
  | _, .nan => .nan
  | a, b => if greater then (if FVal.cmp0 a b < 0 then b else a) else (if FVal.cmp0 a b > 0 then b else a)

/-! ### Reals to be rounded -/

/-- An exact real: NaN, an infinity, a signed zero, or a non-zero real given by its sign, the floor of its binary
logarithm, and, for each p, the floor of |v| × 2^p with whether that floor is exact. -/
inductive RVal where
  | nan
  | inf (neg : Bool)
  | zero (neg : Bool)
  | num (neg : Bool) (lg : Int) (fl : Int → Nat × Bool)

/-- The floor of m × 2^k, and whether it is exact. -/
def shiftFloor (m : Nat) (k : Int) : Nat × Bool :=
  if 0 <= k then (m * 2 ^ k.toNat, true)
  else
    let s := (-k).toNat
    if m.log2 < s then (0, m == 0) else (m / 2 ^ s, m % 2 ^ s == 0)

/-- A value as a real. -/
def FVal.real : FVal → RVal
  | .nan => .nan
  | .inf n => .inf n
  | .fin n m e => if m == 0 then .zero n else .num n ((m.log2 : Int) + e) (fun p => shiftFloor m (e + p))

/-- The quotient n / d × 2^e of positive numbers. -/
def quotReal (neg : Bool) (n d : Nat) (e : Int) : RVal :=
  let s : Int := (n.log2 : Int) - d.log2
  let ge : Bool := if 0 <= s then d * 2 ^ s.toNat <= n else d <= n * 2 ^ (-s).toNat
  .num neg ((if ge then s else s - 1) + e) fun p =>
    let k := e + p
    if 0 <= k then (n * 2 ^ k.toNat / d, n * 2 ^ k.toNat % d == 0)
    else (n / (d * 2 ^ (-k).toNat), n % (d * 2 ^ (-k).toNat) == 0)

/-- Division of values, as IEEE 754 (R42). -/
def FVal.div (a b : FVal) : RVal :=
  match a, b with
  | .nan, _ => .nan
  | _, .nan => .nan
  | .inf _, .inf _ => .nan
  | .inf x, .fin n _ _ => .inf (x != n)
  | .fin n _ _, .inf y => .zero (n != y)
  | .fin n1 m1 e1, .fin n2 m2 e2 =>
    if m2 == 0 then (if m1 == 0 then .nan else .inf (n1 != n2))
    else if m1 == 0 then .zero (n1 != n2) else quotReal (n1 != n2) m1 m2 (e1 - e2)

/-- The integer square root, one bit at a time from bit `k - 1` down. -/
def isqrtBits (n : Nat) : Nat → Nat → Nat
  | 0, r => r
  | k + 1, r => let c := r + 2 ^ k; isqrtBits n k (if c * c <= n then c else r)
def isqrt (n : Nat) : Nat := isqrtBits n (n.log2 / 2 + 1) 0

/-- 1/√(m × 2^e) for m > 0. -/
def rsqrtReal (m : Nat) (e : Int) : RVal :=
  let fl := fun p : Int =>
    let k := 2 * p - e
    if 0 <= k then let r := isqrt (2 ^ k.toNat / m); (r, r * r * m == 2 ^ k.toNat) else (0, false)
  -- |v| lies between 2^(c-1) and 2^(c+1) for c near -(log2 of the operand)/2
  let c : Int := -(((m.log2 : Int) + e) / 2)
  let t := (fl (4 - c)).1
  .num false ((t.log2 : Int) - 4 + c) fl

/-! ### Transcendentals by refined bounds

Fixed-point bounds with `P` fraction bits: a pair (lo, hi) with lo ≤ v·2^P ≤ hi. -/

/-- Σ over odd k of 2·z^k / k, rounded down term by term, for z = a/b ≤ 1/3; `n` terms. -/
def atanhSum (P a b : Nat) : Nat → Nat → Nat → Nat
  | 0, _, _ => 0
  | n + 1, k, pow => 2 * pow / k + atanhSum P a b n (k + 2) (pow * a * a / (b * b))

/-- Bounds of ln((b + a)/(b − a)) = 2·atanh(a/b). -/
def atanhBounds (P a b : Nat) : Nat × Nat :=
  let n := P / 3 + 2
  let s := atanhSum P a b n 1 (2 ^ P * a / b)
  (s, s + 3 * n + 4)

/-- Bounds of ln 2. -/
def ln2Bounds (P : Nat) : Nat × Nat := atanhBounds P 1 3

/-- Σ y^k / k! rounded down, with 2^P = 1. -/
def expSum (P y : Nat) : Nat → Nat → Nat → Nat
  | 0, _, _ => 0
  | n + 1, k, t => t + expSum P y n (k + 1) (t * y / 2 ^ P / k)

/-- Bounds of 2^f for f = fm × 2^fe in (0, 1), fe < 0. -/
def exp2FracBounds (P fm : Nat) (fe : Int) : Nat × Nat :=
  let (l, h) := ln2Bounds P
  let ylo := (shiftFloor (fm * l) fe).1
  let yhi := (shiftFloor (fm * h) fe).1 + 1
  let n := P / 2 + 16
  (expSum P ylo n 1 (2 ^ P), expSum P yhi n 1 (2 ^ P) + 2 * n + 4)

/-- The floor of v × 2^p from the first precision whose bounds agree. -/
def refine (bounds : Nat → Nat × Nat) (p : Int) : List Nat → Nat
  | [] => 0
  | P :: ps =>
    let (l, h) := bounds P
    let a := (shiftFloor l (p - P)).1
    let b := (shiftFloor h (p - P)).1
    if a == b || ps.isEmpty then a else refine bounds p ps

/-- The precisions tried: the last one is past every case of f32, bf16 and f16 (log 12). -/
def precisions : List Nat := [128, 320, 640]

/-- The exact real 2^x for finite x (R60, R163). -/
def exp2Real (neg : Bool) (m : Nat) (e : Int) : RVal :=
  if m == 0 then .num false 0 (fun p => shiftFloor 1 p)
  else if 0 <= e || m % 2 ^ (-e).toNat == 0 then
    let n : Int := (shiftFloor m e).1
    let k := if neg then -n else n
    .num false k (fun p => shiftFloor 1 (k + p))
  else
    let i : Int := (shiftFloor m e).1
    let fm := m % 2 ^ (-e).toNat
    -- x = i + f, or −(i + f) = −(i + 1) + (1 − f)
    let k := if neg then -(i + 1) else i
    let g := if neg then 2 ^ (-e).toNat - fm else fm
    .num false k (fun p => (refine (fun P => exp2FracBounds P g e) (k + p) precisions, false))

/-- Bounds of log2 of m' = m/2^(log2 m) in [1, 2), or of 2 − … : `P` fraction bits. -/
def log2FracBounds (P m : Nat) : Nat × Nat :=
  let w := 2 ^ m.log2
  let (l, h) := atanhBounds P (m - w) (m + w)
  let (l2, h2) := ln2Bounds P
  (l * 2 ^ P / h2, h * 2 ^ P / l2 + 1)

/-- The exact real log2 (m × 2^e) for m > 0 (R163). -/
def log2Real (m : Nat) (e : Int) : RVal :=
  let E : Int := (m.log2 : Int) + e
  if 2 ^ m.log2 == m then
    (if E == 0 then .zero false else (FVal.ofInt E).real)
  else
    let bounds := fun P : Nat =>
      let (l, h) := log2FracBounds P m
      if 0 <= E then (E.toNat * 2 ^ P + l, E.toNat * 2 ^ P + h)
      else ((-E).toNat * 2 ^ P - h, (-E).toNat * 2 ^ P - l)
    let t := refine bounds 128 precisions
    .num (E < 0) ((t.log2 : Int) - 128) (fun p => (refine bounds p precisions, false))

/-! ### Rounding (R49 to R52) -/

/-- How a result rounds: the code of R49, the saturation bit, the flush bit 0, and the 32 generated bits of R51. -/
structure Rnd where
  rc : Nat := 0
  sat : Bool := false
  fl0 : Bool := false
  u : Nat := 0
  deriving DecidableEq, Repr

/-- Whether the magnitude moves up to the next grid point: `r`/2^32 is the fraction's floor and `x` whether that is
exact. `odd` is the parity of the lower neighbour (R49, R51). -/
def roundUp (k : Rnd) (neg odd : Bool) (r : Nat) (x : Bool) : Bool :=
  if r == 0 && x then false
  else match k.rc with
  | 0 => 2 ^ 31 < r || (r == 2 ^ 31 && (!x || odd))
  | 1 => false
  | 2 => !neg
  | 3 => neg
  | _ =>
    -- d := floor((v − lo)·2^32/(hi − lo)); hi is the larger value
    if neg then let d := 2 ^ 32 - (r + (if x then 0 else 1)); !(k.u < d) else k.u < r

/-- The magnitude of v on the grid of spacing 2^q, rounded. -/
def gridRound (k : Rnd) (neg : Bool) (fl : Int → Nat × Bool) (q : Int) : Nat :=
  let (t, x) := fl (32 - q)
  let lo := t / 2 ^ 32
  lo + (if roundUp k neg (lo % 2 == 1) (t % 2 ^ 32) x then 1 else 0)

/-- An overflow (R52). -/
def Fmt.overflow (f : Fmt) (neg sat : Bool) : Nat :=
  let s := if neg then 2 ^ (f.w - 1) else 0
  if sat || f.spec == 2 then s + f.maxFin
  else if f.spec == 1 then f.nan
  else s + f.inf

/-- `round(v, fmt, rc, sat)` for a floating-point format (R50, R52, R54). -/
def Fmt.round (f : Fmt) (k : Rnd) (v : RVal) : Nat :=
  match v with
  | .nan => f.nan
  | .inf n => f.overflow n k.sat
  | .zero n => if n then 2 ^ (f.w - 1) else 0
  | .num n lg fl =>
    let emin : Int := 1 - (f.bias : Int)
    let q := max lg emin - f.mb
    let r := gridRound k n fl q
    let c := (q - (emin - f.mb)).toNat * 2 ^ f.mb + r
    let s := if n then 2 ^ (f.w - 1) else 0
    if f.maxFin < c then
      (if k.rc == 1 || (k.rc == 2 && n) || (k.rc == 3 && !n) then s + f.maxFin else f.overflow n k.sat)
    else if k.fl0 && c < 2 ^ f.mb && 16 <= f.w then s
    else s + c

/-- The least and the greatest value of an integer type. -/
def intRange (t : Nat) : Int × Int :=
  let w := width t
  if isSigned t then (-(2 ^ (w - 1) : Nat), (2 ^ (w - 1) : Nat) - 1) else (0, (2 ^ w : Nat) - 1)

/-- An integer into an integer type: low bits, or clamped (R52, R176). -/
def intFit (t : Nat) (sat : Bool) (v : Int) : Nat :=
  let (lo, hi) := intRange t
  let v := if sat then (if v < lo then lo else if hi < v then hi else v) else v
  (v % (2 ^ width t : Nat)).toNat

/-- The integer that v rounds to. -/
def roundInt (k : Rnd) (v : RVal) : Int :=
  match v with
  | .num n _ fl => let r : Int := gridRound k n fl 0; if n then -r else r
  | _ => 0

/-- `round(v, type, rc, sat)` for an integer type (R50, R52). -/
def intRound (t : Nat) (k : Rnd) (v : RVal) : Nat :=
  let (lo, hi) := intRange t
  let out := fun (neg : Bool) => if k.sat then (if neg then intFit t false lo else intFit t false hi)
    else if isSigned t then intFit t false lo else 0
  match v with
  | .nan => 0
  | .zero _ => 0
  | .inf n => out n
  | .num n _ _ =>
    let r := roundInt k v
    if lo <= r && r <= hi then intFit t false r else out n

/-- `round(v, t, rc, sat)` for any type or format code (R50). -/
def roundTo (t : Nat) (k : Rnd) (v : RVal) : Nat := if t <= 7 then intRound t k v else (fmtOf t).round k v

/-- Round a value to a type. -/
def roundV (t : Nat) (k : Rnd) (v : FVal) : Nat := roundTo t k v.real

/-- Round to f32 by RNE, with flush bit 0, and read the result back: one step of a kept sum (R57). -/
def f32Step (fl0 : Bool) (v : FVal) : FVal := (fmtOf 8).value (roundV 8 { fl0 := fl0 } v)
/-- The value of an f32 code. -/
def f32 (c : Nat) : FVal := (fmtOf 8).value c

/-- The sum of two f32 codes, rounded by RNE. -/
def f32Add (fl0 : Bool) (a b : Nat) : Nat := roundV 8 { fl0 := fl0 } (FVal.add (f32 a) (f32 b) false)
/-- The product of two f32 codes, rounded by RNE. -/
def f32Mul (fl0 : Bool) (a b : Nat) : Nat := roundV 8 { fl0 := fl0 } (FVal.mul (f32 a) (f32 b))

/-- `exp2_ref` (R60). -/
def exp2Ref (c : Nat) : Nat :=
  match f32 c with
  | .nan => 0x7FC00000
  | .inf n => if n then 0 else 0x7F800000
  | .fin n m e => (fmtOf 8).round {} (exp2Real n m e)

/-- `div_ref` (R60). -/
def divRef (a b : Nat) : Nat :=
  match f32 a, f32 b with
  | .fin _ 0 _, .fin _ 0 _ => 0
  | x, y => (fmtOf 8).round {} (FVal.div x y)

/-- 2^x, log2 x, 1/x and 1/√x of a value (R163). -/
def FVal.exp2 : FVal → RVal
  | .nan => .nan
  | .inf n => if n then .zero false else .inf false
  | .fin n m e => exp2Real n m e
def FVal.log2 : FVal → RVal
  | .nan => .nan
  | .inf n => if n then .nan else .inf false
  | .fin n m e => if m == 0 then .inf true else if n then .nan else log2Real m e
def FVal.rcp (v : FVal) : RVal := FVal.div (.fin false 1 0) v
def FVal.rsq : FVal → RVal
  | .nan => .nan
  | .inf n => if n then .nan else .zero false
  | .fin n m e => if m == 0 then .inf n else if n then .nan else rsqrtReal m e

/-- An e8m0 scale (R40): `none` for NaN, else its power of two. -/
def e8m0 (c : Nat) : Option Int := if c == 255 then none else some ((c : Int) - 127)
/-- A value times an e8m0 scale. -/
def FVal.scale8 (v : FVal) (c : Nat) : FVal := match e8m0 c with | none => .nan | some k => v.shift k

/-- 2v_k of a sheaf code at depth k (R47). -/
def sheaf2v (c k : Nat) : Int := ((2 * (c / 2 ^ (8 - k)) + 1) * 2 ^ (8 - k) : Nat) - 256

/-! ### Hashes and codes -/

/-- One round of sr_hash (R51). -/
def srRound (x i : Nat) : Nat :=
  ((x ^^^ (x / 2 ^ 31)) * 0xD6E8FEB86659FD93 % 2 ^ 64 + 0x9E3779B97F4A7C15 + i) % 2 ^ 64
/-- `sr_hash(seed, salt, coord)` (R51): 32 bits. -/
def srHash (seed salt coord : Nat) : Nat :=
  srRound (srRound (srRound (srRound ((seed % 2 ^ 64) ^^^ ((salt % 2 ^ 32) * 2 ^ 32 + coord % 2 ^ 32)) 0) 1) 2) 3 / 2 ^ 32

/-- Eight bits of the reflected CRC-32C. -/
def crcBits : Nat → Nat → Nat
  | 0, c => c
  | n + 1, c => crcBits n (if c % 2 == 1 then (c / 2) ^^^ 0x82F63B78 else c / 2)
/-- CRC-32C of bytes (R32, R217). -/
def crc32c (bs : List Byte) : Nat :=
  (bs.foldl (fun c b => crcBits 8 (c ^^^ b.toNat)) 0xFFFFFFFF) ^^^ 0xFFFFFFFF

end Sys2Proof.Machine
end

