-- ==== Sys2Proof/Machine/Sparse.lean ====
section
/-! DEFINITION. Sparse tables as sorted association lists in one canonical form, and byte memories (R5) over them. -/

namespace Sys2Proof.Machine

/-- A table from numbers to values: keys strictly rising, and no entry equal to what an unlisted key reads as. -/
abbrev SMap (α : Type) := List (Nat × α)

/-- The value at a key; an unlisted key reads as `d`. -/
def SMap.get (d : α) : SMap α → Nat → α
  | [], _ => d
  | (k, v) :: m, i => if k == i then v else SMap.get d m i

/-- The entry at a key, if listed. -/
def SMap.find : SMap α → Nat → Option α
  | [], _ => none
  | (k, v) :: m, i => if k == i then some v else SMap.find m i

/-- List a value at a key, in key order. -/
def SMap.put (m : SMap α) (i : Nat) (v : α) : SMap α :=
  match m with
  | [] => [(i, v)]
  | (k, w) :: m => if i < k then (i, v) :: (k, w) :: m else if k == i then (i, v) :: m else (k, w) :: SMap.put m i v

/-- Remove a key. -/
def SMap.erase (m : SMap α) (i : Nat) : SMap α :=
  match m with
  | [] => []
  | (k, w) :: m => if k == i then SMap.erase m i else (k, w) :: SMap.erase m i

/-- Write a value: a value equal to the default `d` removes the entry, so equal tables are equal data. -/
def SMap.set [DecidableEq α] (d : α) (m : SMap α) (i : Nat) (v : α) : SMap α :=
  if v = d then SMap.erase m i else SMap.put m i v

/-- The canonical form over a default. -/
def SMap.wf [DecidableEq α] (d : α) : SMap α → Bool
  | [] => true
  | [(_, v)] => v != d
  | (k, v) :: (k', v') :: m => v != d && k < k' && SMap.wf d ((k', v') :: m)

/-- A memory of bytes: the sparse table whose unlisted bytes read as 0 (R14, R33, R441). -/
abbrev Memory := List Host.Cell

/-- The canonical form of a memory: addresses strictly rising, no zero byte listed. -/
def Memory.wf (m : Memory) : Bool := SMap.wf (0 : Byte) m

/-- One byte. -/
def Memory.byte (m : Memory) (a : Nat) : Byte := SMap.get 0 m a
/-- Write one byte. -/
def Memory.setByte (m : Memory) (a : Nat) (v : Byte) : Memory := SMap.set 0 m a v

/-- `n` bytes from `a` on, the lowest address least significant (R5). -/
def Memory.read (m : Memory) (a : Nat) : Nat → Nat
  | 0 => 0
  | n + 1 => (Memory.byte m a).toNat + 256 * Memory.read m (a + 1) n

/-- Write the low `n` bytes of `v` from `a` on (R5). -/
def Memory.write (m : Memory) (a : Nat) : Nat → Nat → Memory
  | 0, _ => m
  | n + 1, v => Memory.write (Memory.setByte m a (BitVec.ofNat 8 v)) (a + 1) n (v / 256)

/-- Fill `n` bytes with zeros. -/
def Memory.zero (m : Memory) (a n : Nat) : Memory := m.filter fun c => c.1 < a || a + n <= c.1

end Sys2Proof.Machine
end

