-- ==== Sys2Proof/Machine/State.lean ====
section
/-! DEFINITION. The state of a load/store domain (R1, R2, R13), as plain data, and `State.reset`. Tables are sparse
(`SMap`): an unlisted key reads as the reset value. A field named "the model's own" is bookkeeping of the model. -/

namespace Sys2Proof.Machine

/-! ### Streams -/

/-- How far a stream has come (R236): never started, running, or ended by one of the three ending forms. -/
inductive StreamStatus where
  | never | running | texit | dorm | opend
  deriving DecidableEq, Repr

/-- A steer register (R18), the tile cycles until its target has been fetched (R112), and whether a trap found that fetch
in progress, so that it restarts on the return (R120, R265). -/
structure Steer where
  tvalid : Bool := false
  cond : Bool := false
  target : Addr := 0
  ready : Nat := 0
  again : Bool := false
  deriving DecidableEq, Repr

/-- What a waiting stream waits for (R252). -/
inductive WaitKind where
  /-- re-attempted in each tile cycle: queues, outstanding accesses, grants -/
  | poll
  /-- scratchpad lines that must be full (R125, R128) -/
  | lines (ns : List Nat)
  /-- a counter reaching a threshold (R230) -/
  | counter (c : Nat) (thr : BitVec 32)
  /-- a buffer version (R140) -/
  | version (b : Nat) (v : BitVec 32)
  /-- commands that write a buffer's shadow copy (R139) -/
  | publish (b : Nat)
  /-- a sync object (R137): home peer, object, shared -/
  | sync (home obj : Nat) (shared : Bool)
  /-- a group's open generation (R234) -/
  | barrier (g : Nat)
  /-- an answer to a message or entry that can no longer be withdrawn (R229) -/
  | answer
  /-- a global access in use (R126) -/
  | gload
  /-- a write to this address, which meets a held tile (R389) -/
  | hold (ea : Word)
  /-- pages of a tier (R341) -/
  | pages (tier : Nat)
  /-- a vector-pipe grant (R245) -/
  | current
  /-- the partition's operators to end, before a checkpoint (R250) -/
  | ckpt
  /-- a group edit to be applied at every station (R374) -/
  | edit
  /-- the die's sequence manager (R332) -/
  | manager
  /-- other contexts of the tile to issue (R238) -/
  | yield
  deriving DecidableEq, Repr

/-- A wait in progress: since which DTIME, whether WAITTO limits it, whether what it waits for has come, and what other
forms of the same bundle have already been granted. -/
structure Wait where
  since : Nat
  limited : Bool
  kind : WaitKind
  ready : Bool := false
  got : List WaitKind := []
  /-- the tile cycle before has left a counter's wait hopeless (R231) -/
  hopeless : Bool := false
  deriving DecidableEq, Repr

/-- What an outstanding global access does on arrival (R126, R133). -/
inductive GOp where
  | load
  | atom (op : Nat) (b : Word)
  | cas (expect b : Word)
  | atomf (op : Nat) (b : Word)
  deriving DecidableEq, Repr

/-- The outstanding global load or atomic of a stream (R126): one at most, since an L-slot result waits for it. -/
structure GLoad where
  op : GOp
  ty : Nat
  dest : BitVec 8
  /-- physical main register or operand bank of the destination, fixed at issue (R24, R264) -/
  bkb : Nat
  bank : Bool
  ea : Word
  size : Nat
  peer : Nat
  addr : Nat
  vf : Nat
  /-- the request slot's tag when the access is remote -/
  tag : Option Nat := none
  /-- the old value, once it is fixed -/
  data : Option Nat := none
  /-- the deferred cause, once known (0 none) -/
  cause : Nat := 0
  ordv : Nat := 0
  deriving DecidableEq, Repr

/-- An entry sent by `ENQR` (R232): its sender, the word and values of its block, and what a command takes from its
issuer. -/
structure Enqr where
  peer : Nat
  tile : Nat
  ctx : Nat
  exe : Bool
  word : Word
  va : Word
  vb : Word
  ve : Word
  vf : Nat
  part : Nat
  op : Nat
  seed : Word
  salt : BitVec 32
  resv : Nat
  deriving DecidableEq, Repr

/-- A stream of a context (R13, R268). -/
structure Stream where
  status : StreamStatus := .never
  pc : Addr := 0
  /-- X0 to X63 by physical number -/
  x : SMap Word := []
  k : SMap Word := []
  /-- the trap bank of K12 to K15 (R264) -/
  kt : SMap Word := []
  l : SMap Word := []
  j : SMap Steer := []
  rpi : BitVec 6 := 0
  salt : BitVec 32 := 0
  tvec : Word := 0
  epc : Word := 0
  ecause : Word := 0
  eaddr : Word := 0
  tmode : Bool := false
  dfr : Bool := false
  /-- the RESV selection for engine commands (R245) -/
  resv : BitVec 8 := 0
  wait : Option Wait := none
  /-- tile cycles, the current one among them, in which the stream issues nothing more (R88, R99, R263) -/
  hold : Nat := 0
  /-- the same for the fetch of a transfer's target (R112), and whether a trap found that fetch in progress (R265) -/
  fhold : Nat := 0
  refetch : Bool := false
  /-- the tile cycles, the current one among them, that a waiting `YIELD` may still last (R238) -/
  yhold : Nat := 0
  gload : Option GLoad := none
  /-- the outstanding access that a trap moved to the snapshot buffer (R269) -/
  snapLoad : Option GLoad := none
  /-- posted remote writes not yet acknowledged: tag, home peer, first byte, length -/
  posted : List (Nat × Nat × Nat × Nat) := []
  /-- an asynchronous cause waiting for delivery (R267), oldest first -/
  async : List Nat := []
  /-- the answer to a message or entry that has been sent (R229): 0 or the cause that it gives -/
  answer : Option Nat := none
  /-- such an answer, taken by a bundle that then trapped, with that bundle's address: the form is not sent again (R229) -/
  snapAnswer : Option (Addr × Nat) := none
  /-- the entry that a waiting `ENQR` has read (R232) -/
  block : Option Enqr := none
  /-- bundles that other contexts of the tile have still to issue before a `YIELD` ends (R238) -/
  yield : List Nat := []
  /-- `RPI` as a trap left it (R87, R263), until `ERET` -/
  srpi : BitVec 6 := 0
  deriving DecidableEq, Repr

/-! ### Contexts -/

/-- A result to be written (R149): physical registers, values, and for vectors the written bits (R174). -/
inductive Write where
  | nothing
  | x (r : Nat) (v : Word)
  | k (r : Nat) (bank : Bool) (v : Word)
  | v (r : Nat) (mask val : Nat)
  | p (r : Nat) (val : PReg)
  | cond (j : Nat) (c : Bool)
  | target (j : Nat) (a : Addr)
  | lctl (w : Word)
  | vshape (w : Word)
  deriving DecidableEq, Repr

/-- What a result of the L slot takes from the end of its tile cycle: an `LNPEEK` the metadata of a line (R142); an atomic
the bytes that it found at its place among the cycle's writes (R33, R130), by address, rank, type and operation. -/
inductive Peek where
  | line (n : Nat)
  | old (a rank ty : Nat) (op : GOp)
  deriving DecidableEq, Repr

/-- A result in flight (R149, R253, R269). -/
structure Pending where
  /-- the execute stream's -/
  exe : Bool
  w : Write
  /-- the value that shifts into the last-result file, and whether as an L-slot result (R17) -/
  shift : Option (Bool × Word) := none
  /-- counted tile cycles until it is seen -/
  left : Nat
  /-- of latency 1: the next bundle of the stream sees it whatever stalls or traps in between (R99, R149) -/
  soon : Bool := false
  /-- what it takes from the end of its cycle (R130, R142) -/
  peek : Option Peek := none
  deriving DecidableEq, Repr

/-- What a pipe that a trap has stopped still owes the form that it ran (R36, R269): the 512-byte passes to be made and
those made, the tile cycles of a pass, those that it counts against the budget, and whether the pipe or the budget has
held the passes back since `ERET`. -/
structure Owed where
  passes : Nat
  done : Nat
  per : Nat
  cyc : Nat
  late : Bool := false
  deriving DecidableEq, Repr

/-- How an LDQ entry is filled (R127). -/
inductive QSrc where
  /-- filled -/
  | none
  /-- from a scratchpad address, looked up when the access is performed (R122), once its line is full -/
  | scratch (ea : Word) (ty : Nat)
  /-- from global memory: home, address, type, tag of a remote request -/
  | global (peer addr ty : Nat) (tag : Option Nat)
  /-- from global memory, once an earlier access of the stream to the same bytes has been performed (R275): home, address,
  type, key slot, and whether through the die's own copy of the line -/
  | later (peer addr ty key : Nat) (cached : Bool)
  /-- from a tile of a stub, once it has been pulled (R387): address, type -/
  | touch (ea : Word) (ty : Nat)
  deriving DecidableEq, Repr

/-- A queue entry (R19, R114, R127): its value or poison mark, and the cycles until its bundle's window closes. -/
structure QEntry where
  val : Word := 0
  poison : Bool := false
  addr : Word := 0
  age : Nat := 0
  src : QSrc := .none
  deriving DecidableEq, Repr

/-- An inter-stream queue (R19): its entries, oldest first, and the places whose pops have not yet freed them. -/
structure Queue where
  entries : List QEntry := []
  freeing : List Nat := []
  deriving DecidableEq, Repr

/-- A context (R236, R266); one that an abort has ended while accesses of it were on their way is `ending` until they have
been answered (R138, R359). -/
inductive CtxStatus where
  | free | running | dormant | stopped | ending
  deriving DecidableEq, Repr

/-- A thread context (R13). -/
structure Ctx where
  acc : Stream := {}
  exe : Stream := {}
  v : SMap VReg := []
  p : SMap PReg := []
  vshape : Word := 0x2FE3
  lctl : Word := 0
  srseed : Word := 0
  lparam : Word := 0
  sbind : Word := 0
  waitto : Word := 1000000
  /-- AQ0 to AQ3, EQ0, BQ (R19) -/
  queues : SMap Queue := []
  inflight : List Pending := []
  /-- the pipeline snapshot buffer (R269) -/
  snapshot : List Pending := []
  /-- the passes of a stopped pipe's form (R36, R269): in the snapshot buffer, and since `ERET` -/
  snapOwed : Option Owed := none
  owed : Option Owed := none
  status : CtxStatus := .free
  /-- the vector-pipe grant (R245): profile entry and units -/
  grant : Option (Nat × Nat) := none
  grantWait : Bool := false
  smarg : Word := 0
  smres : Word := 0
  mgarg : Word := 0
  mgres : Word := 0
  /-- the binding (R319, R320): operator index on the die, stage, local VF, partition -/
  op : Nat := 0
  stage : Nat := 0
  vf : Nat := 0
  part : Nat := 0
  /-- marked for release by the stage scheduler (R321) -/
  release : Bool := false
  /-- its work in the operator is done (R236) -/
  workDone : Bool := false
  /-- the cause that stopped it (R266) -/
  stopCause : Nat := 0
  /-- stalled in this tile cycle (R252) -/
  stalled : Bool := false
  /-- tile cycles of a timing replay still to run (R414) -/
  replay : Nat := 0
  /-- no bundle has issued since `ERET`, so that restored results do not count down yet (R269) -/
  resuming : Bool := false
  deriving DecidableEq, Repr

/-! ### Tiles -/

/-- A completion counter with its status (R27, R28). -/
structure Counter where
  val : BitVec 32 := 0
  pending : BitVec 32 := 0
  rights : BitVec 8 := 0
  err : Bool := false
  deriving DecidableEq, Repr

/-- A buffer-table entry (R29). -/
structure Buffer where
  version : BitVec 32 := 0
  cur : BitVec 15 := 0
  shd : BitVec 15 := 0
  lenM1 : BitVec 14 := 0
  scope : BitVec 2 := 0
  valid : Bool := false
  deriving DecidableEq, Repr

/-- A scratchpad line's metadata (R32). The stored crc is kept as its difference from the CRC-32C of the line's bytes:
`crcDiff` is 0 when they match, which every write makes so (R33). -/
structure LineMeta where
  full : Bool := false
  tag : BitVec 3 := 0
  poison : Bool := false
  crcDiff : BitVec 32 := 0
  deriving DecidableEq, Repr

/-- One write to a line within a tile cycle (R33): its rank in the engine order (lower wins), whether it covers the line,
its offset and bytes, the tag and poison of a full-line write, and what an atomic does to the bytes that it finds at its
place in that order, with their type (R130, R133). -/
structure LineWrite where
  rank : Nat
  full : Bool
  off : Nat
  bytes : List Byte
  tag : BitVec 3
  poison : Bool
  rmw : Option (GOp × Nat) := none
  deriving DecidableEq, Repr

/-- A line in the current tile cycle (R33, R125, R142): its bytes and metadata before the cycle's writes, the writes,
and the last LNSET or LNCLR. The model's own. -/
structure LineCycle where
  data : Nat
  info : LineMeta
  /-- a `take` of the cycle has cleared its full bit (R209, R305) -/
  took : Bool := false
  writes : List LineWrite := []
  ln : Option Bool := none
  deriving DecidableEq, Repr

/-- A row's statistics (R203), f32 codes. -/
structure RowStat where
  m : BitVec 32 := 0xFF800000
  l : BitVec 32 := 0
  deriving DecidableEq, Repr

/-- An accumulator tile (R34): each row as a number of 128 elements of 32 bits, type bit, row poison; statistics of array
B's rows (R203). -/
structure Acc where
  e : SMap Nat := []
  int : Bool := false
  poison : SMap Bool := []
  stats : SMap RowStat := []
  deriving DecidableEq, Repr

/-- A stationary plane (R35): each column n as a number, the code of position (k, n) at bits 16k; the four scales of each
column of MX blocks, a byte each; type code, depth, axis (0 none, 1 row, 2 column) and poison (R190). -/
structure Plane where
  e : SMap Nat := []
  scale : SMap Nat := []
  ty : Nat := 0
  depth : Nat := 8
  axis : Nat := 0
  poison : Bool := false
  deriving DecidableEq, Repr

/-- An engine's fault record (R270). -/
structure FRec where
  valid : Bool := false
  more : Bool := false
  cause : BitVec 8 := 0
  op : BitVec 8 := 0
  ctr : BitVec 8 := 0
  ctx : BitVec 3 := 0
  remote : Bool := false
  mstep : BitVec 28 := 0
  addr : Word := 0
  deriving DecidableEq, Repr

/-- How far an engine command has come. -/
inductive CmdStatus where
  | queued | running | finished
  deriving DecidableEq, Repr

/-- Why a running command does not move on (R190, R209, R224, R226, R380, R387). -/
inductive Stall where
  | none
  /-- an empty source line -/
  | empty (line : Nat)
  /-- a full destination line under back-pressure -/
  | back (line : Nat)
  /-- an answer from outside the tile -/
  | remote
  deriving DecidableEq, Repr

/-- An engine command (R187, R207, R254): what issued it, its operand values, its queues (0 to 3 the halves A0, A1, B0,
B1; 4 the copy engine) and its progress. -/
structure Cmd where
  seq : Nat
  i : Instr
  va : Word := 0
  vb : Word := 0
  ve : Word := 0
  /-- the counter field as encoded: 0 or 0xC0 + n -/
  ctr : BitVec 8 := 0
  ctx : Nat := 0
  exe : Bool := false
  remote : Bool := false
  /-- who sent it by `ENQR`: peer, tile, context -/
  from_ : Option (Nat × Nat × Nat) := none
  vf : Nat := 0
  part : Nat := 0
  /-- the operator whose command it is, 0 once that has been aborted; and whether it ends at its next piece boundary (R228) -/
  op : Nat := 0
  stop : Bool := false
  /-- SRSEED and SRSALT for stochastic rounding (R51) -/
  seed : Word := 0
  salt : BitVec 32 := 0
  /-- its entry of the current profile (R245, R427): rail and units, none where the entry breaks R427 -/
  current : Option (Nat × Nat) := some (0, 0)
  queues : List Nat := []
  /-- plane map bits of the four halves at issue (R188) -/
  map : List Bool := []
  /-- the nest table copied at issue (R198, R214): a and b of the eight slots -/
  nest : List (Word × Word) := []
  /-- spans of local scratchpad read and written (R207, R255), as first address and length -/
  rd : List (Nat × Nat) := []
  wr : List (Nat × Nat) := []
  /-- the buffer table as it stood when the command started (R139) -/
  bufs : SMap Buffer := []
  /-- whether the range checker holds it (R256) -/
  entered : Bool := false
  st : CmdStatus := .queued
  stall : Stall := .none
  /-- micro-steps completed (R36) -/
  prog : Nat := 0
  /-- the form's own progress -/
  aux : List Nat := []
  /-- data in hand, each byte with its mark: 0 good, 1 poisoned, 2 never delivered (R221) -/
  buf : List (Byte × Nat) := []
  /-- the addresses and tags of remote requests in hand -/
  tags : List Nat := []
  err : Bool := false
  deriving DecidableEq, Repr

/-- A handler message or network record waiting for a dormant context (R237, R259, R381): the thread's entry and registers, and
the partition whose contexts may take it, where it is one's own. -/
structure Claim where
  entry : Addr
  x1 : Word
  x2 : Word
  x3 : Word
  x4 : Word := 0
  part : Option Nat := none
  deriving DecidableEq, Repr

/-- A vector pipe (R149): the context whose form it runs, the tile cycles left, those of a pass, the pipe cycles that a pass
counts, MSTEP, and the pipe cycles that its partition has used of the period's budget (R323). -/
structure Pipe where
  ctx : Nat := 0
  left : Nat := 0
  per : Nat := 1
  cyc : Nat := 1
  mstep : Nat := 0
  used : Nat := 0
  deriving DecidableEq, Repr

/-- A cached translation (R356): VF, first byte covered, coverage in bytes, the leaf. -/
structure TlbEntry where
  vf : Nat
  va : Nat
  size : Nat
  leaf : Word
  deriving DecidableEq, Repr

/-- A tile (R13). -/
structure Tile where
  ctxs : SMap Ctx := []
  ctrs : SMap Counter := []
  bufs : SMap Buffer := []
  dict : SMap Word := []
  dictN : Nat := 0
  /-- conditional-stream buffers: lanes of records, by buffer × 128 + lane (R165) -/
  sbs : SMap (List (BitVec 32)) := []
  /-- scratchpad bytes and line metadata (R32) -/
  scr : Memory := []
  lines : SMap LineMeta := []
  /-- ACA0 to ACA3 are 0 to 3, ACB0 to ACB3 are 4 to 7 (R34) -/
  accs : SMap Acc := []
  /-- stationary planes by array × 2 + plane (R35) -/
  planes : SMap Plane := []
  /-- plane map bits of A0, A1, B0, B1 (R188) -/
  pmap : SMap Bool := []
  /-- shadow nest tables by engine × 8 + slot (R197, R213) -/
  nests : SMap (Word × Word) := []
  /-- decode-table slots (R217): code lengths by slot × 256 + symbol, and which slots are loaded -/
  dtab : SMap Nat := []
  dtabOk : SMap Bool := []
  /-- fault records of A0, A1, B0, B1, CE (R270) -/
  frec : SMap FRec := []
  cmds : List Cmd := []
  seq : Nat := 0
  /-- the handler queue (R237) -/
  handlers : List Claim := []
  pipes : SMap Pipe := []
  /-- the operator that the tile is bound to (R236, R318), and the VF that it last served (R318) -/
  bound : Option Nat := none
  lastVf : Option Nat := none
  chaffs : BitVec 32 := 0
  chaffc : BitVec 32 := 0
  chafft : BitVec 32 := 0
  utlb : List TlbEntry := []
  /-- failed or out of binding (R422, R438) -/
  failed : Bool := false
  evac : Bool := false
  /-- the spare that stands for the tile: its number on the die and the zone in which it lies (R422, R435) -/
  spare : Option (Nat × Nat) := none
  /-- ENQR entries waiting at the tile, in order of arrival (R232) -/
  enqr : List Enqr := []
  /-- the last contexts that issued (R251) -/
  lastAcc : Nat := 7
  lastExe : Nat := 7
  /-- streams that have issued or tried in this tile cycle, as context × 2 + execute; the model's own -/
  tried : List Nat := []
  issAcc : Bool := false
  issExe : Bool := false
  /-- buffers that an access of this cycle has resolved (R122) -/
  usedBufs : List Nat := []
  cyc : SMap LineCycle := []
  /-- writes of per-tile registers in this cycle, which others see from the next one (R247): index and value -/
  setcs : List (Nat × Word) := []
  /-- the cycle's local issues are over: entries and messages from outside have been taken (R232, R254, R260); the model's
  own -/
  closed : Bool := false
  /-- contexts that ended in this re-binding interval after the scheduler had marked them (R321) -/
  noBind : List Nat := []
  deriving DecidableEq, Repr

/-! ### Dies -/

/-- A memory line's metadata in DRAM or stacked SRAM (R209, R434): poison, margin mark, and the stored crc as its
difference from the crc of the stored bytes. -/
structure DramMeta where
  poison : Bool := false
  margin : Bool := false
  crcDiff : BitVec 32 := 0
  deriving DecidableEq, Repr

/-- A stacked-SRAM copy of a remote line (R288): its bytes, which of them are dirty, poison and margin mark (R434). -/
structure Copy where
  data : Nat
  dirty : BitVec 128 := 0
  poison : Bool := false
  margin : Bool := false
  deriving DecidableEq, Repr

/-- A hold on a sync object: peer, tile, context, and shared. -/
structure Holder where
  peer : Nat
  tile : Nat
  ctx : Nat
  shared : Bool
  deriving DecidableEq, Repr

/-- A sync object (R135 to R138): owner partition, regions (VF, base, length), holders, and waiting requests in order
of arrival. -/
structure SyncObj where
  owner : Option (Nat × Nat) := none
  regions : List (Nat × Nat × Nat) := []
  holders : List Holder := []
  queue : List Holder := []
  deriving DecidableEq, Repr

/-- A stream named within a die: tile × 16 + context × 2 + execute. -/
abbrev StreamId := Nat

/-- A group (R233, R234): key, owning partition, members, and the open generation: required and arrived streams. -/
structure Group where
  key : Word := 0
  owner : Nat := 0
  members : List StreamId := []
  required : List StreamId := []
  arrived : List StreamId := []
  isOpen : Bool := false
  deriving DecidableEq, Repr

/-- A KV slab (R335, R342): tier (0 stacked SRAM, 1 local DRAM), first byte in the tier's memory, log2 of its positions,
stride, and where a demotion put it: in place, tier 1 at a byte (true), or a block of the swap area (false). -/
structure Slab where
  tier : Nat
  base : Nat
  lsize : Nat
  stride : Nat
  demoted : Option (Bool × Nat) := none
  /-- the local VF whose arena and quota it takes (R331, R335) -/
  vf : Nat := 0
  deriving DecidableEq, Repr

/-- A tree node (R240) and a check record (R241). -/
structure Node where
  token : BitVec 32
  parent : Nat
  q : BitVec 32
  deriving DecidableEq, Repr
structure Check where
  bonus : BitVec 32
  p : BitVec 32
  rank : BitVec 16
  deriving DecidableEq, Repr

/-- A request slot (R239, R329): state 0 free, 1 idle, 2 drafted, 3 checked, 4 winnowed, 5 preempted, 6 aborted. -/
structure Slot where
  state : Nat := 0
  vf : Nat := 0
  prio : Nat := 0
  rule : Nat := 0
  age : Nat := 0
  len : Nat := 0
  pending : BitVec 32 := 0
  nodes : List Node := []
  checks : List Check := []
  path : List Nat := []
  bonus : BitVec 32 := 0
  slabs : SMap Slab := []
  /-- a pre-emption by the sequence manager that waits for its moment (R343) -/
  doomed : Bool := false
  deriving DecidableEq, Repr

/-- A forwarding pair (R219, R338): slot, slab, tier, both bases, and the piece in hand. -/
structure Fwd where
  busy : Bool := false
  slot : Nat := 0
  slab : Nat := 0
  tier : Nat := 0
  old : Nat := 0
  new : Nat := 0
  boundary : Nat := 0
  pieceEnd : Nat := 0
  deriving DecidableEq, Repr

/-- A transfer of a slab between its tier and the swap area (R342 to R346), one command of the VF's queue pair: its number,
the slot and slab, whether it goes out, since when it has been outstanding, and whether it has completed well. -/
structure Swap where
  id : Nat
  slot : Nat
  slab : Nat
  out : Bool
  since : Option Nat := none
  ok : Bool := false
  deriving DecidableEq, Repr

/-- A claim for pages (R341): its VF, pages wanted, since when it has been open, its lender, whether its pages have been
found, and who asks: a stream as tile × 16 + context × 2 + execute, or a copy command as 2^20 + tile × 2^32 + number. -/
structure PageClaim where
  vf : Nat
  pages : Nat
  since : Nat
  lender : Option Nat := none
  met : Bool := false
  asker : Nat
  deriving DecidableEq, Repr

/-- A hold entry (R384): its range, the tiles still held, the holder and the last renewal. -/
structure Hold where
  valid : Bool := false
  gen : BitVec 32 := 0
  vf : Nat := 0
  ova : Nat := 0
  tiles : Nat := 0
  /-- frames of the tiles still held, by tile; stacked-SRAM frames from 2^29 on -/
  held : SMap (Option Nat) := []
  holder : Nat := 0
  hva : Nat := 0
  renew : Nat := 0
  /-- let go by the teardown of its VF (R392, R451) -/
  torn : Bool := false
  deriving DecidableEq, Repr

/-- How far a tile of a stub has come (R387, R392); the owner had let go of one that is gone (R388). -/
inductive Pull where
  | unpulled | asked | pulled | lost | gone
  deriving DecidableEq, Repr

/-- A stub entry (R386). `leaves` are the leaves as they stood at acceptance; `state` says how far each tile has come. -/
structure Stub where
  valid : Bool := false
  broken : Bool := false
  hold : Nat := 0
  gen : BitVec 32 := 0
  owner : Nat := 0
  tiles : Nat := 0
  vf : Nat := 0
  hva : Nat := 0
  /-- the owner's address of tile 0 and the `DTIME` of the hold point, as the stub carries them (R385) -/
  ova : Nat := 0
  hp : Nat := 0
  leaves : SMap Word := []
  state : SMap Pull := []
  req : Option Nat := none
  ack : Nat := 0
  /-- when the last renewal was sent (R391), and whether an `SFWD` of it runs (R390) -/
  sent : Nat := 0
  moving : Bool := false
  deriving DecidableEq, Repr

/-- A hop of a route (R361): whether on a rack ring, whether counter-clockwise, and the peer whose station it reaches. -/
structure Hop where
  rack : Bool
  ccw : Bool
  to_ : Nat
  deriving DecidableEq, Repr

/-- A packet on the fabric (R363): kind, source and destination, tag, partition and tenant of the source, target, what it
asks or carries. -/
structure Packet where
  kind : Nat
  src : Nat
  srcTile : Nat := 0
  srcCtx : Nat := 0
  srcExe : Bool := false
  dst : Nat
  tile : Nat := 0
  tier : Nat := 0
  tag : Nat := 0
  part : Nat := 0
  tenant : Nat := 0
  key : Nat := 0
  addr : Nat := 0
  size : Nat := 0
  op : GOp := .load
  ty : Nat := 0
  bytes : List Byte := []
  poison : Nat := 0
  reason : Nat := 0
  group : Nat := 0
  args : List Nat := []
  circ : Bool := false
  /-- taken by the destination station, so that its effect may take place (R364) -/
  taken : Bool := false
  /-- injected onto a ring (R367), and the hops of its route still to be crossed (R361) -/
  injected : Bool := false
  hops : List Hop := []
  /-- whether the header's zero fields are zero (R363), the entry that a refusal has booked of the reserve buffer, by the order of
  bookings, and whether the slot lies there (R364) -/
  zero : Bool := true
  booked : Option Nat := none
  reserved : Bool := false
  deriving DecidableEq, Repr

/-- A request that awaits its response (R370): tag, kind, destination, since when, and who asked. -/
structure Req where
  tag : Nat
  kind : Nat
  dst : Nat
  since : Nat
  tile : Nat := 0
  ctx : Nat := 0
  exe : Bool := false
  queue : Option Nat := none
  /-- the partition id of who asked (R371), and the number of the engine command that did -/
  part : Nat := 0
  seq : Nat := 0
  deriving DecidableEq, Repr

/-- A launch window (R307, R309): the 2 KiB of its slots, which bytes of each slot's tag word have been written since it
was last read, and the fields of LWSTAT and LWTAG. -/
structure Window where
  bytes : Memory := []
  marks : SMap (BitVec 8) := []
  fail : Bool := false
  ovf : Bool := false
  done : Nat := 0
  tag : Word := 0
  /-- host interrupts raised for the VF (R310); the model's own -/
  irqs : Nat := 0
  deriving DecidableEq, Repr

/-- An accepted launch (R308 to R313): its number on the die (the model's own), its record and its graph position. -/
structure Launch where
  id : Nat
  vf : Nat
  graph : Word := 0
  param : Word := 0
  seed : Word := 0
  prio : Nat := 0
  flags : Nat := 0
  cpl : Word := 0
  tag : Word := 0
  /-- breaks R308 -/
  bad : Bool := false
  /-- entries that have ended, and entries in flight -/
  ended : List Nat := []
  running : List Nat := []
  /-- the first failure: cause and entry -/
  failed : Option (Nat × Nat) := none
  /-- entries that have failed, and whether a broken header or entry ends the walk (R312, R313) -/
  dead : List Nat := []
  broken : Bool := false
  /-- when each entry became ready, by entry, and the entries that have waited 200 µs (R316) -/
  readyAt : SMap Nat := []
  aged : List Nat := []
  deriving DecidableEq, Repr

/-- A reservation of current (R428 to R431), asked for or in force: tile, engine (0 to 3 the halves, 4 and 5 the pipes,
6 the copy engine, in the order of R431), the command's number or the pipe's context, rail, units, partition, and when
it was asked for. -/
structure Reserve where
  tile : Nat
  eng : Nat
  id : Nat
  rail : Nat
  units : Nat
  part : Nat
  at_ : Nat
  deriving DecidableEq, Repr

/-- A stage of an operator (R77, R317 to R321): its entries, its input queue with the depth of that queue and the values
pushed in this tile cycle, whether the queue has ever been non-empty, and whether the stage is owed a context. -/
structure Stage where
  accEntry : Addr := 0
  exeEntry : Addr := 0
  depth : Nat := 1
  q : List Word := []
  new : List Word := []
  begun : Bool := false
  owed : Bool := false
  deriving DecidableEq, Repr

/-- An operator that has been dispatched (R312 to R322): the number of its launch, its entry, kind (1 a
hook), VF and partition, tiles, stages, current profile and its defaults (R427), launch values, when it was dispatched,
whether `OVERRUN` has been raised, its image, and whether one of its contexts has ended with its work done (R236). -/
structure Op where
  live : Bool := false
  launch : Nat := 0
  entry : Nat := 0
  hook : Bool := false
  vf : Nat := 0
  part : Nat := 0
  tiles : List Nat := []
  stages : List Stage := []
  profile : List (BitVec 32) := [0, 0x1000]
  dm : Nat := 1
  dc : Nat := 2
  dv : Nat := 2
  seed : Word := 0
  param : Word := 0
  since : Nat := 0
  overrun : Bool := false
  image : Nat := 0
  workDone : Bool := false
  deriving DecidableEq, Repr

/-- What a partition's last checkpoint recorded (R417): its log sequence number, launches and slots. -/
structure Ckpt where
  seq : BitVec 32
  launches : List Launch
  slots : List (Nat × Slot)
  deriving DecidableEq, Repr

/-- A partition's scheduling registers (R328) and position in its gang table: the registers as written, the copies of
`GANGN` and `GANGT` in force since the last tick, and the current slice. Unlisted slices of `gangt` read as every VF of
the partition for slice 0 and as 0 for others. -/
structure Part where
  gangp : Nat := 2000
  gangn : BitVec 4 := 1
  gangt : SMap (BitVec 24) := []
  actN : BitVec 4 := 1
  actT : SMap (BitVec 24) := []
  slice : Nat := 0
  vfq : SMap (BitVec 8) := []
  vbud : Nat := 1800
  late : BitVec 32 := 0
  ovrn : BitVec 32 := 0
  /-- the log ring (R416) -/
  logbase : Word := 0
  logcap : Nat := 0
  logseq : BitVec 32 := 0
  logckp : BitVec 32 := 0
  /-- a `CKPT` that waits holds back new operators (R250) -/
  ckpt : Bool := false
  /-- `zmon` holds the partition (R413) -/
  zmon : Bool := false
  /-- `FABLOST` (R371) -/
  lostPeer : BitVec 9 := 0
  lostN : BitVec 32 := 0
  /-- the receive ring (R382) -/
  nrxHead : Nat := 0
  nrxTail : Nat := 0
  /-- the switch that a tick has opened and not yet made: its `DTIME`, the VFs that go out, and those that both slices list
  (R324, R325) -/
  switch : Option (Nat × List Nat × List Nat) := none
  /-- `DTIME` of the last tick (R324) -/
  tickAt : Nat := 0
  /-- the last checkpoint, and the logged dispatches still to be repeated, as launch and entry (R417, R419) -/
  last : Option Ckpt := none
  replay : List (Nat × Nat) := []
  deriving DecidableEq, Repr

/-- A cooling zone (R435, R438): sensor readings (flow in units of 5 mL/min, °C), state, failed primes, since when the
state has lasted, whether a prime has its room in the manifold, since when its readings have let it end, valve control, since
when its flow has been low, whether it is too warm
for grants, the causes raised and not yet re-armed, and since when the condition of each has been clear (R437). -/
structure Zone where
  flow : Nat := 0
  temp : Nat := 0
  void : Bool := false
  state : Nat := 0
  fails : Nat := 0
  since : Nat := 0
  primed : Bool := false
  fit : Option Nat := none
  ctl : Nat := 0
  lowSince : Option Nat := none
  hot : Bool := false
  raised : List Nat := []
  clearAt : SMap Nat := []
  deriving DecidableEq, Repr

/-- A coolant boost (R246, R436): zone, units, when it ends, partition, and whether it has been granted. -/
structure Boost where
  zone : Nat
  units : Nat
  ends : Nat
  part : Nat
  granted : Bool
  deriving DecidableEq, Repr

/-- A die's rails, limits and coolant registers (R424, R433, R439, R440). `points` are in force, `want` are asked for:
matrix, vector, fabric, SRAM; `due` are the rails whose change is still to complete (R425). Budgets are kept by partition × 4 + cluster and limits by cluster, as (matrix, vector);
the copies named `act` are those of the current 1 µs period. -/
structure Power where
  points : SMap Nat := []
  want : SMap Nat := []
  due : List Nat := []
  uvon : Bool := false
  drop : Nat := 0
  backoff : Option Nat := none
  /-- corrected errors and margin events of the current 10 s (R433, R434) -/
  corr : Nat := 0
  marginIn : Bool := false
  marginAt : Nat := 0
  margn : BitVec 32 := 0
  stepM : Nat := 320
  stepV : Nat := 160
  clim : SMap (Nat × Nat) := []
  climAct : SMap (Nat × Nat) := []
  pbud : SMap (Nat × Nat) := []
  pbudAct : SMap (Nat × Nat) := []
  /-- units granted by rail within the running 125 ns interval (R432) -/
  stepAt : Nat := 0
  stepSum : SMap Nat := []
  mode : Nat := 0
  warn : Nat := 95
  hard : Nat := 105
  lo : Nat := 150
  hi : Nat := 450
  /-- the last reading of the manifold's pressure, none before the first -/
  kpa : Option Nat := none
  /-- `COOL_PRESS` raised and not yet re-armed, and since when the pressure has been in its band (R437) -/
  pressOut : Bool := false
  pressClear : Option Nat := none
  /-- shares by mode, 4 bits a zone -/
  alloc : SMap Word := []
  zones : SMap Zone := []
  boosts : List Boost := []
  deriving DecidableEq, Repr

/-- A VF's TDISP state (R447, R448): 0 CONFIG_UNLOCKED, 1 CONFIG_LOCKED, 2 RUN, 3 ERROR; its stream keyed; teardown in
progress. -/
structure Tdisp where
  st : Nat := 0
  keyed : Bool := false
  tearing : Bool := false
  /-- the key slots that the VF's tenant has delivered (R449) -/
  slots : List Nat := []
  deriving DecidableEq, Repr

/-- A release or a re-pointing that a holder sends until the owner acknowledges it (R221, R222, R391). -/
structure Resend where
  key : Nat := 0
  part : Nat := 0
  repoint : Bool
  owner : Nat
  hold : Nat
  gen : BitVec 32
  tiles : List Nat
  newHolder : Nat := 0
  hva : Nat := 0
  since : Nat
  last : Nat
  deriving DecidableEq, Repr

/-- A member's contribution to a reduction (R224): group, number of the reduction, peer, op, count, data, poison. -/
structure Contribution where
  group : Nat
  k : Nat
  peer : Nat
  op : Nat
  n : Nat
  data : List Byte
  poison : Bool
  deriving DecidableEq, Repr

/-- A network request as its receiver holds it (R378, R381, R382): partition, endpoint, identity, kind (0 send, 1 write with
notify, 2 write without, which has no record), length, offset of its record in the ring, value, region offset, address of the placed data, and the pieces
placed. -/
structure Rx where
  part : Nat
  ep : Nat
  req : Nat
  kind : Nat
  len : Nat
  at_ : Nat
  imm : Word
  raddr : Nat
  data : Nat
  /-- the send that must be delivered first (R381) -/
  after : Option Nat := none
  got : List (Nat × Nat) := []
  deriving DecidableEq, Repr

/-- The answer to a network packet (R378, R380, R382): an acknowledgement, the nack of a packet that needs space or that is refused
for good, of a wrong job, or the data of a read. -/
inductive NetReply where
  | ack | notReady | refused | wrongJob
  | data (bytes : List Byte)
  deriving DecidableEq, Repr

/-- A multicast group (R372): owning partition id, and its members, one bit for each peer. -/
structure MGroup where
  owner : Nat
  members : BitVec 512
  deriving DecidableEq, Repr

/-- A package's boot (R441, R447): the phases completed, and the fields of `BOOTST`. -/
structure Boot where
  phase : Nat := 7
  code : Nat := 0
  die : Nat := 0
  svn : Nat := 0
  deriving DecidableEq, Repr

/-- A die (R1). -/
structure Die where
  tiles : SMap Tile := []
  /-- local DRAM, two stacks as one range of bytes (R1), and the stacked SRAM -/
  dram : Memory := []
  sram : Memory := []
  dmeta : SMap DramMeta := []
  smeta : SMap DramMeta := []
  /-- copies of remote lines, by peer × 2^34 + line (R288) -/
  copies : SMap Copy := []
  sync : SMap SyncObj := []
  groups : SMap Group := []
  vfroot : SMap Word := []
  migpool : SMap Word := []
  /-- migration counts: VF × 2^45 + page, most recent last (R354) -/
  migCnt : List (Nat × Nat) := []
  tlb : List TlbEntry := []
  /-- pages of access mode 11 whose count has reached its threshold: VF and page address (R354) -/
  migDue : List (Nat × Nat) := []
  /-- hold counts of local frames (R383), by frame; stacked-SRAM frames from 2^29 on -/
  holdCnt : SMap (BitVec 4) := []
  /-- the tenant to which each key slot is bound (R449, R450) -/
  keys : SMap (Option Nat) := []
  /-- request slots, allocations so far, forwarding pairs, and claims for pages by tier (R329, R338, R341) -/
  slots : SMap Slot := []
  slotAge : Nat := 0
  /-- forms and commands that wait for the sequence manager, in order of arrival (R332): tile × 16 + context × 2 + execute -/
  smq : List Nat := []
  fwd : SMap Fwd := []
  claims : SMap (List PageClaim) := []
  holds : SMap Hold := []
  stubs : SMap Stub := []
  /-- fabric requests without response, and the next tag (R363, R370) -/
  reqs : List Req := []
  nextTag : Nat := 0
  /-- the die's chaff counters (R411) -/
  chdc : BitVec 32 := 0
  chdu : BitVec 32 := 0
  chsc : BitVec 32 := 0
  chsu : BitVec 32 := 0
  chfl : BitVec 32 := 0
  chfd : BitVec 32 := 0
  chst : BitVec 32 := 0
  chrq : BitVec 32 := 0
  /-- launch windows by local VF, slots whose tag word has been completed, as VF, slot and the bytes that it
  held then, and accepted launches by partition -/
  windows : SMap Window := []
  launchDue : List (Nat × Nat × Nat) := []
  launches : SMap (List Launch) := []
  launchAge : Nat := 0
  /-- the last 1 µs period and the last 10 µs interval begun (R316, R321) -/
  periodAt : Nat := 0
  rebindAt : Nat := 0
  parts : SMap Part := []
  ops : SMap Op := []
  /-- current asked for, oldest first, and in force (R428, R431) -/
  askCur : List Reserve := []
  inForce : List Reserve := []
  /-- acceptance rules (R333), quota registers by VF × 2 + tier (R339), swap areas (R344) and what they hold -/
  rules : SMap Word := []
  kvq : SMap Word := []
  swb : SMap Word := []
  swn : SMap Word := []
  swap : Memory := []
  swapBad : SMap Bool := []
  /-- transfers to and from the swap areas that the manager still needs (R342, R346) -/
  swaps : List Swap := []
  /-- handler entries of multicast groups: tile, VF, code address (R372) -/
  mch : SMap (Nat × Nat × Nat) := []
  /-- reductions issued on each group, and contributions received (R224) -/
  fredN : SMap Nat := []
  freds : List Contribution := []
  /-- network windows by local partition, as bytes (R447), and requests being received (R381) -/
  netwin : SMap Memory := []
  rx : List Rx := []
  /-- requests whose records have been delivered: partition, endpoint, identity and kind (R378) -/
  rxDone : List (Nat × Nat × Nat × Nat) := []
  /-- when the last keep-alives of held writes were sent (R389) -/
  keepAt : Nat := 0
  /-- slots resent until acknowledged (R391) -/
  resends : List Resend := []
  /-- deficits of the VFs (R316) -/
  deficit : SMap Int := []
  power : Power := {}
  tdisp : SMap Tdisp := []
  /-- when a neighbour's last heartbeat came, by peer, and when this die last sent one (R421) -/
  beats : SMap Nat := []
  beatAt : Nat := 0
  /-- slot-times in which tiers 1 and 2 have waited, by ring direction (R367): 0 and 1 the package ring, 2 and 3 the rack ring -/
  starve1 : SMap Nat := []
  starve2 : SMap Nat := []
  /-- bookings of the station's reserve buffers so far (R364); the model's own -/
  bookings : Nat := 0
  deriving DecidableEq, Repr

/-! ### The domain -/

/-- What the last instruction of the issuing stream came to; the model's own. -/
inductive Last where
  | idle
  | done
  | trapped (cause : Nat)
  | waiting
  | stalled
  deriving DecidableEq, Repr

/-- The issuing stream (the model's own): who issues, the addresses of its bundle, of the word in hand and of what
follows the bundle, what the last instruction came to, a dictionary entry in place of a parcel (R85), and a repeat in
hand (R86): mask, stride, count − 1. -/
structure Issuer where
  peer : Nat := 0
  tile : Nat := 0
  ctx : Nat := 0
  exe : Bool := true
  ipc : Addr := 0
  wpc : Addr := 0
  npc : Addr := 0
  /-- where a transfer of this bundle goes (R111), and the cycles that its fetch still takes (R112) -/
  go : Option (Addr × Nat) := none
  last : Last := .idle
  subst : Option Word := none
  rep : Option (BitVec 4 × BitVec 2 × BitVec 6) := none
  /-- the tile as it stood before the bundle in hand, where earlier slots of it have acted (R64, R83) -/
  was : Option Tile := none
  deriving DecidableEq, Repr

/-- The form of the configuration block (R442): the fields of its header, and the types of its sections in order. -/
structure Block where
  magic : Nat := 0x5A384342
  svn : Nat := 0
  len : Nat := 0x1000
  zero : Bool := true
  types : List Nat := [1, 2, 3, 4, 5, 6, 7, 8]
  deriving DecidableEq, Repr

/-- The configuration block as latched at reset (R442, R444, R445, R449, R453), log 4: tables with the default that
partition 0 of each die owns everything. -/
structure Cfg where
  /-- owner partition of an engine: (peer × 32 + tile) × 8 + engine; engines 0 to 3 the halves A0, A1, B0, B1, 4 the copy
  engine, 5 and 6 the vector pipes -/
  owner : SMap Nat := []
  /-- owner partition of a context: (peer × 32 + tile) × 8 + context; a graph-sequencer context is its partition's (R444) -/
  ctxOwner : SMap Nat := []
  /-- partition, tenant and realm -/
  vfPart : SMap Nat := []
  vfTenant : SMap Nat := []
  realm : SMap Nat := []
  /-- the VF's range of frames (R445): first and count, by peer × 24 + VF; unlisted: 2^20 frames from VF × 2^20 -/
  range : SMap (Nat × Nat) := []
  /-- the VF's range in stacked SRAM; unlisted: 7,680 frames from VF × 2^13 -/
  srange : SMap (Nat × Nat) := []
  /-- the part of a VF's range in a tier that holds slabs (R445): first frame and count, by (peer × 24 + VF) × 2 + tier;
  unlisted: the upper half of the range in DRAM, the whole range in stacked SRAM -/
  kv : SMap (Nat × Nat) := []
  /-- the partition's own range of frames in DRAM (R445), by peer × 4 + partition; unlisted: 2^18 frames from
  28 × 2^20 + partition × 2^18 -/
  prange : SMap (Nat × Nat) := []
  /-- the same in stacked SRAM; unlisted: 512 frames from partition × 2^13 + 7,680 -/
  psrange : SMap (Nat × Nat) := []
  /-- the partition's graph-sequencer context (R444), as tile × 8 + context, by peer × 4 + partition; unlisted: tile
  31 − partition, context 7 -/
  gseq : SMap Nat := []
  /-- NVMe queue pairs by package × 64 + pair (R345): owning partition of the package, and depth; unlisted: partition 0
  and 64 entries -/
  qpOwner : SMap Nat := []
  qpDepth : SMap Nat := []
  /-- owner of a send queue, by peer × 64 + queue (R378) -/
  sqOwner : SMap Nat := []
  /-- owner of a key slot, by peer × 256 + slot (R449); slot 0 is the firmware's -/
  keyOwner : SMap Nat := []
  /-- the package's step slot (R432) -/
  step : SMap Nat := []
  /-- the gang of a partition, by peer × 4 + partition, and its gang table where it is not that of R328, by
  (peer × 4 + partition) × 16 + slice (R324) -/
  gang : SMap Nat := []
  gangt : SMap (BitVec 24) := []
  /-- `PBUD` by (peer × 4 + partition) × 4 + cluster; unlisted: 240 and 112 units (R440) -/
  pbud : SMap (Nat × Nat) := []
  /-- the allocation table, by mode (R436) -/
  alloc : SMap Word := []
  /-- the block itself, and the fused minimum of its svn (R442, R443) -/
  block : Block := {}
  minSvn : Nat := 0
  /-- the standby of a partition, by partition id (R421), and the repair map (R422): which of the die's spares, 0 or 1, may stand
  for a tile, and the zone in which that spare lies (R435), by peer × 32 + tile -/
  standby : SMap Nat := []
  repair : SMap (Nat × Nat) := []
  deriving DecidableEq, Repr

/-- The state of the domain. -/
structure State where
  /-- number of packages P (R2) -/
  packages : Nat := 1
  powered : Bool := true
  /-- DTIME in ns (R7), and the ninths of 5 ns that the running tile cycle has come to (log 3) -/
  dtime : Word := 0
  frac : Nat := 0
  cfg : Cfg := {}
  dies : SMap Die := []
  /-- packets on the rings, oldest first (R363) -/
  net : List Packet := []
  /-- peers that recovery has fenced (R370, R421) -/
  fenced : List Nat := []
  /-- multicast groups that are valid (R372), and the edits on their way, in order: group (4,096 for a new one), peer and stream
  (R374) -/
  mgroups : SMap MGroup := []
  edits : List (Nat × Nat × StreamId) := []
  boots : SMap Boot := []
  /-- whether `DTIME` follows IEEE 1588 time (R441), and rack links that are down, by the package that each joins to the
  next (R446) -/
  synced : Bool := true
  linkDown : SMap Bool := []
  iss : Issuer := {}
  /-- events given by the outside, executed one per step before anything else; the model's own -/
  inputs : List Instr := []
  /-- what a die last answered to a network packet (R378, R380, R382); the model's own -/
  netOut : Option NetReply := none
  /-- what the last host read or SPDM request returned, and whether poisoned (R409, R449); the model's own -/
  hostIn : Option (Bool × List Byte) := none
  /-- storage commands in order of issue (R226): package × 64 + queue pair, peer, tile, number; the model's own -/
  nvOrder : List (Nat × Nat × Nat × Nat) := []
  /-- free values drawn so far (log 5); the model's own -/
  free : Nat := 0
  deriving DecidableEq, Repr

/-- Why a run stops for good. -/
inductive Fault where
  /-- raised by `exec` and `step` after a power removal (R441): nothing runs without power. Safe: the hardware does
  nothing either -/
  | unpowered
  deriving DecidableEq, Repr

/-- Why an instruction has no meaning. -/
inductive Refusal where
  /-- raised by a dispatch arm that has no meaning yet. Safe: nothing can be proved about it -/
  | notModelled (mnemonic : String)
  deriving DecidableEq, Repr

/-- The machine as a full reset leaves it once the boot has completed (R14, R33, R34, R35, R441): every table empty, so
every register at its reset value, and the configuration block of log 4. -/
def State.reset : State := {}

end Sys2Proof.Machine
end

