-- ==== Sys2Proof/Machine/Ops.lean ====
section
/-! DEFINITION. The named operations that every meaning is written over: reaching a tile, context or stream, reading a
register and putting a result in flight, the queues, how an instruction ends, taking a trap and returning from it. -/

namespace Sys2Proof.Machine

abbrev Out := Host.Outcome State Fault Refusal

/-! ### Causes (R262) -/
abbrev cILLOP : Nat := 0x01
abbrev cMISALIGN : Nat := 0x02
abbrev cADDR_RANGE : Nat := 0x03
abbrev cXLATE_FAULT : Nat := 0x04
abbrev cPERM_FAULT : Nat := 0x05
abbrev cPOISONED : Nat := 0x06
abbrev cMARGIN : Nat := 0x07
abbrev cSYNC_FAULT : Nat := 0x08
abbrev cSEQ_FAULT : Nat := 0x09
abbrev cSTREAM_FULL : Nat := 0x0A
abbrev cSOFT_TRAP : Nat := 0x0B
abbrev cWAIT_TIMEOUT : Nat := 0x10
abbrev cWAIT_ORPHAN : Nat := 0x11
abbrev cHOLD_STALL : Nat := 0x12
abbrev cPULL_LOST : Nat := 0x13
abbrev cLAYOUT_MISMATCH : Nat := 0x20
abbrev cQUANT_AXIS : Nat := 0x21
abbrev cDECODE_ERROR : Nat := 0x22
abbrev cCRC_MISMATCH : Nat := 0x23
abbrev cHOLD_FULL : Nat := 0x24
abbrev cSTUB_REFUSED : Nat := 0x25
abbrev cPEER_LOST : Nat := 0x26
abbrev cNVME_STATUS : Nat := 0x27
abbrev cNET_ERROR : Nat := 0x28
abbrev cOVERRUN : Nat := 0x30
abbrev cRECLAIM : Nat := 0x31
abbrev cCOOL_FLOW : Nat := 0x32
abbrev cCOOL_TEMP : Nat := 0x33
abbrev cCOOL_PRESS : Nat := 0x34
abbrev cCOOL_VOID : Nat := 0x35
abbrev cZONE_EVAC : Nat := 0x36

/-! ### Reaching the parts of the state -/

def State.die (s : State) (p : Nat) : Die := SMap.get {} s.dies p
def State.setDie (s : State) (p : Nat) (d : Die) : State := { s with dies := s.dies.put p d }
def State.modDie (s : State) (p : Nat) (f : Die → Die) : State := s.setDie p (f (s.die p))
def Die.tile (d : Die) (t : Nat) : Tile := SMap.get {} d.tiles t
def Die.part (d : Die) (q : Nat) : Part := SMap.get {} d.parts q
def Die.setPart (d : Die) (q : Nat) (x : Part) : Die := { d with parts := d.parts.put q x }
def Die.setTile (d : Die) (t : Nat) (x : Tile) : Die := { d with tiles := d.tiles.put t x }
def State.tile (s : State) (p t : Nat) : Tile := (s.die p).tile t
def State.setTile (s : State) (p t : Nat) (x : Tile) : State := s.setDie p ((s.die p).setTile t x)
def State.modTile (s : State) (p t : Nat) (f : Tile → Tile) : State := s.setTile p t (f (s.tile p t))
def Tile.ctx (t : Tile) (c : Nat) : Ctx := SMap.get {} t.ctxs c
def Tile.setCtx (t : Tile) (c : Nat) (x : Ctx) : Tile := { t with ctxs := t.ctxs.put c x }
def State.ctx (s : State) (p t c : Nat) : Ctx := (s.tile p t).ctx c
def State.setCtx (s : State) (p t c : Nat) (x : Ctx) : State := s.setTile p t ((s.tile p t).setCtx c x)
def State.modCtx (s : State) (p t c : Nat) (f : Ctx → Ctx) : State := s.setCtx p t c (f (s.ctx p t c))
def Ctx.stream (c : Ctx) (exe : Bool) : Stream := if exe then c.exe else c.acc
def Ctx.setStream (c : Ctx) (exe : Bool) (x : Stream) : Ctx := if exe then { c with exe := x } else { c with acc := x }
def State.stream (s : State) (p t c : Nat) (exe : Bool) : Stream := (s.ctx p t c).stream exe
def State.setStream (s : State) (p t c : Nat) (exe : Bool) (x : Stream) : State :=
  s.setCtx p t c ((s.ctx p t c).setStream exe x)

/-- Whether a context may issue at all: running, not stalled, not replaying. -/
def Ctx.live (c : Ctx) : Bool := c.status == .running && !c.stalled && c.replay == 0

/-- Whether nothing holds a stream for some tile cycles (R88, R99, R112). -/
def Stream.unheld (x : Stream) : Bool := x.hold == 0 && x.fhold == 0

/-- Whether a stream may issue now: running, not held, not frozen by the other stream's trap. A message or entry that has
been sent and accepted still completes (R263). -/
def Ctx.free (c : Ctx) (exe : Bool) : Bool :=
  let x := c.stream exe
  c.live && x.status == .running && x.unheld && (!(c.stream (!exe)).tmode || x.answer == some 0)

/-- The issuing tile, context and stream. -/
def State.myTile (s : State) : Tile := s.tile s.iss.peer s.iss.tile
def State.setMyTile (s : State) (x : Tile) : State := s.setTile s.iss.peer s.iss.tile x
def State.myCtx (s : State) : Ctx := s.ctx s.iss.peer s.iss.tile s.iss.ctx
def State.setMyCtx (s : State) (x : Ctx) : State := s.setCtx s.iss.peer s.iss.tile s.iss.ctx x
def State.me (s : State) : Stream := s.myCtx.stream s.iss.exe
/-- `RPI` of the issuing stream (R23, R86, R87): a handler sees it as the trap left it, except under a repeat of its
own. -/
def State.rpi (s : State) : BitVec 6 := if s.me.tmode && s.iss.rep.isNone then s.me.srpi else s.me.rpi
def State.setMe (s : State) (x : Stream) : State := s.setMyCtx (s.myCtx.setStream s.iss.exe x)
/-- The issuing stream as it stood before its bundle: what an earlier slot of the bundle has begun is no earlier access
(R64, R83). -/
def State.prior (s : State) : Stream :=
  match s.iss.was with | some t => (t.ctx s.iss.ctx).stream s.iss.exe | none => s.me
def State.myDie (s : State) : Die := s.die s.iss.peer
def State.setMyDie (s : State) (d : Die) : State := s.setDie s.iss.peer d

/-- DTIME as a number (R7). -/
def State.now (s : State) : Nat := s.dtime.toNat
/-- The time in ninths of a ns, which tells tile cycles apart (log 3). -/
def State.ninths (s : State) : Nat := s.now * 9 + s.frac
/-- The package's number of a die's local VF (R347). -/
def vfNumber (p v : Nat) : Nat := p % 8 * 24 + v
/-- Peers of the domain (R452). -/
def State.peers (s : State) : Nat := 8 * s.packages

/-- A partition's graph-sequencer context (R444), as tile and context. -/
def Cfg.seqCtx (c : Cfg) (p q : Nat) : Nat × Nat :=
  let n := SMap.get ((31 - q) * 8 + 7) c.gseq (p * 4 + q); (n / 8, n % 8)

/-- The partition of which a context is the graph-sequencer context. -/
def Cfg.seqOf (c : Cfg) (p t k : Nat) : Option Nat := (List.range 4).find? (fun q => c.seqCtx p q == (t, k))
/-- The partition that owns a context (R444, R453). -/
def Cfg.ctxPart (c : Cfg) (p t k : Nat) : Nat := (c.seqOf p t k).getD (SMap.get 0 c.ctxOwner ((p * 32 + t) * 8 + k))
/-- A context that a partition may bind to an operator: none that is a graph-sequencer context (R453). -/
def Cfg.binds (c : Cfg) (p t k q : Nat) : Bool := (c.seqOf p t k).isNone && SMap.get 0 c.ctxOwner ((p * 32 + t) * 8 + k) == q

/-- A VF's range in stacked SRAM, and a partition's own ranges in DRAM and stacked SRAM (R445): first frame and count. -/
def Cfg.srangeOf (c : Cfg) (p vf : Nat) : Nat × Nat := SMap.get (vf * 2 ^ 13, 7680) c.srange (p * 24 + vf)
def Cfg.prangeOf (c : Cfg) (p q : Nat) : Nat × Nat := SMap.get (28 * 2 ^ 20 + q * 2 ^ 18, 2 ^ 18) c.prange (p * 4 + q)
def Cfg.psrangeOf (c : Cfg) (p q : Nat) : Nat × Nat := SMap.get (q * 2 ^ 13 + 7680, 512) c.psrange (p * 4 + q)

/-- A chaff counter's next value: it sticks at its greatest (R411). -/
def bump (x : BitVec 32) : BitVec 32 := if x == BitVec.allOnes 32 then x else x + 1

/-- The partition that owns an engine of a tile (R453); engines 0 to 3 the halves, 4 the copy engine, 5 and 6 the
vector pipes. -/
def Cfg.engineOwner (c : Cfg) (p t e : Nat) : Nat := SMap.get 0 c.owner ((p * 32 + t) * 8 + e)
/-- The partition, tenant, realm and range of a VF (R347, R368, R445, R449). -/
def Cfg.partOf (c : Cfg) (p vf : Nat) : Nat := SMap.get 0 c.vfPart (p * 24 + vf)
def Cfg.tenantOf (c : Cfg) (p vf : Nat) : Nat := SMap.get 0 c.vfTenant (p * 24 + vf)
def Cfg.realmOf (c : Cfg) (p q : Nat) : Nat := SMap.get 0 c.realm (p * 4 + q)
def Cfg.rangeOf (c : Cfg) (p vf : Nat) : Nat × Nat := SMap.get (vf * 2 ^ 20, 2 ^ 20) c.range (p * 24 + vf)
def Cfg.inRange (c : Cfg) (p vf frame : Nat) : Bool :=
  let (lo, n) := c.rangeOf p vf; lo <= frame && frame < lo + n

/-! ### How an instruction ends -/

/-- Why an instruction does not take effect. -/
inductive Stop where
  /-- a precise trap (R262): cause, EADDR, detail; the state that it leaves of the memory checked -/
  | trap (cause : Nat) (addr : Word) (detail : Nat) (s : State)
  /-- a deferred trap of an earlier access (R126) -/
  | deferred (cause : Nat) (addr : Word)
  /-- the stream waits (R252): for what, limited by WAITTO or not, with what it has already requested -/
  | wait (k : WaitKind) (limited : Bool) (s : State)
  /-- the context stalls (R252) -/
  | stall

abbrev R (α : Type) := Except Stop α

/-- Trap with EADDR 0. -/
def trap (s : State) (cause : Nat) : R α := .error (.trap cause 0 0 s)
/-- ILLOP unless the condition holds. -/
def legal (s : State) (b : Bool) : R Unit := if b then .ok () else trap s cILLOP
/-- Trap at an address. -/
def trapAt (s : State) (cause : Nat) (addr : Word) : R α := .error (.trap cause addr 0 s)

/-! ### Registers (R15 to R17, R24, R264) -/

/-- BKB (R23). -/
def Ctx.bkb (c : Ctx) : Nat := bits c.lctl 1 0
/-- The physical number of a main register (R24): renamed in the execute stream's stage banks. -/
def physX (exe : Bool) (bkb r : Nat) : Nat := if exe && 48 <= r then 48 + (r - 48 + 4 * bkb) % 16 else r

/-- Read a scalar register field (R15, R16, R24, R264). -/
def Ctx.reg (c : Ctx) (exe : Bool) (f : BitVec 8) : Word :=
  let st := c.stream exe
  let n := num f
  match sel f with
  | 0 => if n == 0 then 0 else SMap.get 0 st.x (physX exe c.bkb n)
  | 1 => if st.tmode && 12 <= n then SMap.get 0 st.kt n else SMap.get 0 st.k n
  | 2 => SMap.get 0 st.l n
  | _ => 0

/-- The write that a scalar destination field names (R15 to R17): nothing for X0 and for the last-result file. -/
def Ctx.dest (c : Ctx) (exe : Bool) (f : BitVec 8) (v : Word) : Write :=
  let st := c.stream exe
  let n := num f
  match sel f with
  | 0 => if n == 0 then .nothing else .x (physX exe c.bkb n) v
  | 1 => .k n (st.tmode && 12 <= n) v
  | _ => .nothing

/-- The value of a register field of the issuing stream. -/
def State.reg (s : State) (f : BitVec 8) : Word := s.myCtx.reg s.iss.exe f

/-- Results of a context that are in flight (R253). -/
def Ctx.count (c : Ctx) : Nat :=
  c.inflight.length + (if c.acc.gload.isSome then 1 else 0) + (if c.exe.gload.isSome then 1 else 0)

/-- Put a result of the issuing stream in flight (R149). -/
def State.pend (s : State) (w : Write) (shift : Option (Bool × Word)) (lat : Nat) : State :=
  let c := s.myCtx
  s.setMyCtx { c with inflight := c.inflight ++ [{ exe := s.iss.exe, w := w, shift := shift, left := lat, soon := lat == 1 }] }

/-- An S-slot scalar result (R17, R99): seen from the next bundle, and shifted into L0. -/
def State.sResult (s : State) (d : BitVec 8) (v : Word) : State :=
  s.pend (s.myCtx.dest s.iss.exe d v) (some (false, v)) 1

/-- An L-slot scalar result of latency 4 (R124, R133, R142), shifted into L2. -/
def State.lResult (s : State) (d : BitVec 8) (v : Word) : State :=
  s.pend (s.myCtx.dest s.iss.exe d v) (some (true, v)) 4

/-- A scalar result that never enters the last-result file (R17, R229). -/
def State.yResult (s : State) (d : BitVec 8) (v : Word) (lat : Nat) : State :=
  s.pend (s.myCtx.dest s.iss.exe d v) none lat

/-- A steer register of the issuing stream. -/
def State.steer (s : State) (f : BitVec 8) : Steer := SMap.get {} s.me.j (num f)

/-- The stage count `SC`, `WARM`, `LEFT` and `VOID` of LCTL (R23). -/
def lctlSc (w : Word) : Nat := bits w 10 8
def lctlWarm (w : Word) : Nat := bits w 5 4
def lctlLeft (w : Word) : Nat := bits w 63 30
def lctlVoid (w : Word) : Bool := bit w 11

/-- LCTL from its fields (R23). -/
def mkLctl (left : Nat) (void : Bool) (sc warm bkb : Nat) : Word :=
  BitVec.ofNat 64 (left * 2 ^ 30 + b2n void * 2 ^ 11 + sc * 2 ^ 8 + warm * 2 ^ 4 + bkb)

/-- Whether a predicate is a stage predicate (R24). -/
def Ctx.isStage (c : Ctx) (n : Nat) : Bool := 4 <= n && n < 4 + lctlSc c.lctl

/-- A predicate as an instruction reads it (R22, R24): P0 is all ones, a stage predicate is computed from LCTL. -/
def Ctx.pred (c : Ctx) (n : Nat) : PReg :=
  if n == 0 then BitVec.allOnes 2048
  else if c.isStage n then
    let st := n - 4
    if !lctlVoid c.lctl && st <= lctlWarm c.lctl && lctlSc c.lctl - 1 - st <= lctlLeft c.lctl
    then BitVec.allOnes 2048 else 0
  else SMap.get 0 c.p n

/-! ### The vector shape (R20) -/

def vsWidth (w : Word) : Nat := 8 * 2 ^ bits w 13 12
def vsCols (w : Word) : Nat := bits w 11 5 + 1
def vsRows (w : Word) : Nat := bits w 4 0 + 1
/-- Whether VSHAPE may take a value (R20). -/
def vsOk (w : Word) : Bool := bits w 13 12 != 3 && vsRows w * vsCols w * (vsWidth w / 8) <= 2048

/-! ### The queues (R19) -/

def queueDepth (q : Nat) : Nat := if q == 5 then 32 else 16
def Ctx.queue (c : Ctx) (q : Nat) : Queue := SMap.get {} c.queues q
def Ctx.setQueue (c : Ctx) (q : Nat) (x : Queue) : Ctx := { c with queues := SMap.set {} c.queues q x }
/-- Places taken: entries present or not, and places not yet freed (R19, R26). -/
def Queue.taken (q : Queue) : Nat := q.entries.length + q.freeing.length
/-- Whether an entry is present: filled, its window closed (R19, R127). -/
def QEntry.present (e : QEntry) : Bool := e.age == 0 && e.src == .none

/-- Push an entry, or wait while the queue is full (R19, R114). -/
def State.push (s : State) (q : Nat) (e : QEntry) : R State :=
  let c := s.myCtx
  let qu := c.queue q
  if queueDepth q <= qu.taken then .error (.wait .poll true s)
  else .ok (s.setMyCtx (c.setQueue q { qu with entries := qu.entries ++ [{ e with age := 5 }] }))

/-- Pop the oldest present entry, or wait (R19, R114): a marked entry raises POISONED, and reads 0 in trap mode. -/
def State.pop (s : State) (q : Nat) : R (Word × State) :=
  let c := s.myCtx
  let qu := c.queue q
  match qu.entries with
  | [] => .error (.wait .poll true s)
  | e :: es =>
    if !e.present then .error (.wait .poll true s)
    else if e.poison && !s.me.tmode then trapAt s cPOISONED e.addr
    else .ok (if e.poison then 0 else e.val,
      s.setMyCtx (c.setQueue q { entries := es, freeing := qu.freeing ++ [5] }))

/-! ### Ending a wait, taking a trap (R263 to R269) -/

/-- Withdraw one request from the table that holds it; `held` says that it had been granted. -/
def State.withdrawKind (s : State) (p t c : Nat) (exe held : Bool) (k : WaitKind) : State :=
  match k with
  | .sync home obj _ =>
    let s := { s with net := s.net.filter fun k =>
      !(k.kind == 0x10 && k.src == p && k.srcTile == t && k.srcCtx == c && k.srcExe == exe) }
    s.modDie home fun d =>
      let o : SyncObj := SMap.get {} d.sync obj
      let other := fun (h : Holder) => !(h.peer == p && h.tile == t && h.ctx == c)
      { d with sync := SMap.set {} d.sync obj { o with
          queue := o.queue.filter other, holders := if held then o.holders.filter other else o.holders } }
  | .barrier g =>
    if held then s
    else s.modDie p fun d =>
      let x : Group := SMap.get {} d.groups g
      { d with groups := SMap.set {} d.groups g { x with
          arrived := x.arrived.filter (fun i => i != t * 16 + c * 2 + b2n exe) } }
  | .current => s.modDie p fun d =>
      let pipe := fun (r : Reserve) => r.tile == t && (r.eng == 4 || r.eng == 5)
      let mine := fun (r : Reserve) => pipe r && r.id / 2 == c
      -- a grant that the form replaces is as if it had never gone (R229)
      let back := fun (r : Reserve) => match ((d.tile t).ctx c).grant with | some (_, u) => { r with units := u } | none => { r with units := 0 }
      { d with
        askCur := d.askCur.filter (fun r => !(pipe r && r.id == c * 2 + b2n exe))
        inForce := if held then (d.inForce.map (fun r => if mine r then back r else r)).filter (fun r => !(mine r && r.units == 0))
          else d.inForce }
  | .edit => { s with
      edits := s.edits.filter (·.2 != (p, t * 16 + c * 2 + b2n exe))
      net := s.net.filter fun k =>
        !(k.kind == 0x12 && k.args.head? == some 10 && k.src == p && k.srcTile == t && k.srcCtx == c && k.srcExe == exe) }
  | .manager => s.modDie p fun d => { d with smq := d.smq.filter (· != t * 16 + c * 2 + b2n exe) }
  | .pages tier => s.modDie p fun d =>
      { d with claims := SMap.set [] d.claims tier ((SMap.get [] d.claims tier).filter
          (fun k => k.asker != t * 16 + c * 2 + b2n exe)) }
  | _ => s

/-- A sequencer's bundle that no longer waits holds no operator back: only its `CKPT` does (R250). -/
def State.unckpt (s : State) (p t c : Nat) : State :=
  let q := (s.ctx p t c).part
  if ((s.die p).part q).ckpt && s.cfg.seqCtx p q == (t, c) then
    s.modDie p fun d => d.setPart q { d.part q with ckpt := false }
  else s

/-- Withdraw a waiting bundle's requests from the tables that hold them (R145, R229, R261). -/
def State.withdraw (s : State) (p t c : Nat) (exe : Bool) : State :=
  match (s.stream p t c exe).wait with
  | none => s.unckpt p t c
  | some w => (w.got.foldl (fun s k => s.withdrawKind p t c exe true k) (s.withdrawKind p t c exe w.ready w.kind)).unckpt p t c

/-- Stop the pipes that run the context's forms at the end of their current pass (R36), and what they then still owe: the
whole passes after it, which come off the partition's count (R323). -/
def stopPipes (t : Tile) (c : Nat) : Tile × Option Owed :=
  let stop := fun (acc : SMap Pipe × Option Owed) (n : Nat) =>
    let p : Pipe := SMap.get {} acc.1 n
    if p.ctx == c && p.left != 0 then
      let rest := (p.left - 1) / p.per
      (acc.1.put n { p with left := (p.left - 1) % p.per + 1, used := p.used - rest * p.cyc },
        if rest == 0 then none else some { passes := rest, done := p.mstep + 1, per := p.per, cyc := p.cyc })
    else acc
  let r := [0, 1].foldl stop (t.pipes, none)
  ({ t with pipes := r.1 }, r.2)

/-- Whether the stream's bundle has sent a message or entry, so that no trap can withdraw it (R229). -/
def Stream.sent (x : Stream) : Bool := x.answer.isSome || (match x.wait with | some w => w.kind == .answer | none => false)

/-- A stream that its own trap, or the other stream's, has taken from its bundle: a `YIELD` and an entry in hand are withdrawn
(R229). -/
def Stream.undone (x : Stream) : Stream := { x with wait := none, yhold := 0, yield := [], block := none }

/-- ECAUSE (R268). -/
def mkEcause (cause detail : Nat) (async : Bool) : Word :=
  BitVec.ofNat 64 (b2n async * 2 ^ 16 + detail % 256 * 2 ^ 8 + cause % 256)

/-- A fetch in progress is marked, to restart on the return (R120, R265). -/
def Stream.markFetch (x : Stream) : Stream :=
  { x with refetch := x.fhold != 0, j := x.j.map (fun e => (e.1, { e.2 with again := e.2.ready != 0 })) }

/-- An outstanding access goes to the snapshot buffer, unless that holds one from an earlier trap (R266, R269). -/
def Stream.shelve (x : Stream) : Stream :=
  if x.snapLoad.isSome then x else { x with snapLoad := x.gload, gload := none }

/-- Take a trap of the stream `exe` of a context (R263, R264, R266 to R269): the other stream's wait is withdrawn, every
result in flight moves to the snapshot buffer, but for those of latency 1, which the next bundle sees, EPC, ECAUSE and EADDR are set, and the stream enters trap mode at TVEC;
without a handler, or in trap mode, the context stops. -/
def State.takeTrap (s : State) (p t c : Nat) (exe : Bool) (cause : Nat) (addr : Word) (detail : Nat) (async dfr : Bool)
    (epc : Addr) : State :=
  let flight := (s.ctx p t c).inflight
  let s := s.withdraw p t c exe
  let s := if (s.stream p t c (!exe)).sent then s else s.withdraw p t c (!exe)
  let (tl, owed) := stopPipes (s.tile p t) c
  let x := tl.ctx c
  let me := x.stream exe
  let ot := x.stream (!exe)
  let me' := { me.shelve.undone with
    epc := epc.setWidth 64, ecause := mkEcause cause detail async, eaddr := addr, dfr := dfr
    answer := none, snapAnswer := if me.tmode then me.snapAnswer else me.answer.map (fun a => (me.pc, a)) }
  let stops := me.tvec == 0 || me.tmode
  let me'' := if stops then me' else { me'.markFetch with
    tmode := true, srpi := me.rpi, rpi := 0, pc := me.tvec.setWidth 57, hold := max me.hold 4, fhold := 0 }
  let ot := if stops then ot.shelve else ot.shelve.markFetch
  let ot' := if ot.sent then ot else ot.undone
  let x' := ((x.setStream exe me'').setStream (!exe) ot')
  let x'' := { x' with
    snapshot := x.snapshot ++ flight.filter (fun e => !e.soon), inflight := flight.filter (·.soon)
    snapOwed := if owed.isSome then owed else if x.owed.isSome then x.owed else x.snapOwed, owed := none
    resuming := false,
    status := if stops then .stopped else x.status, stopCause := if stops then cause else x.stopCause }
  s.setTile p t (tl.setCtx c x'')

/-- A stream as a return from trap mode leaves it (R120, R265, R269): its access outstanding again, and the fetches that the
trap found in progress begun again; a message or entry whose answer has come counts as sent where its bundle goes on (R229). -/
def Stream.resumed (y : Stream) : Stream :=
  { y with
    gload := if y.snapLoad.isSome then y.snapLoad else y.gload, snapLoad := none
    fhold := if y.refetch then 4 else y.fhold, refetch := false
    answer := match y.snapAnswer with | some (a, r) => if y.epc == a.setWidth 64 then some r else none | none => y.answer
    snapAnswer := none
    j := y.j.map (fun e => (e.1, if e.2.again then { e.2 with ready := 4, again := false } else e.2)) }

/-- Return from trap mode (R265, R269): the ordinary bank, PC := EPC, the other stream goes on, and the snapshot entries
count down again; a fetch in progress restarts (R120). -/
def State.trapReturn (s : State) (p t c : Nat) (exe : Bool) : State :=
  let x := s.ctx p t c
  let y := x.stream exe
  let z := x.stream (!exe)
  let me := { y.resumed with
    tmode := false, pc := y.epc.setWidth 57, hold := 1, rpi := y.srpi }
  let ot : Stream := { z.resumed with hold := max z.hold 1 }
  let x' := ((x.setStream exe me).setStream (!exe) ot)
  s.setCtx p t c { x' with
    inflight := x.inflight ++ x.snapshot, snapshot := [], owed := x.snapOwed, snapOwed := none
    resuming := !x.snapshot.isEmpty }

/-! ### From a result to an outcome -/

/-- Set the issuing stream waiting (R252): a wait that goes on keeps the time since which it has lasted. -/
def State.beginWait (s : State) (k : WaitKind) (limited : Bool) : State :=
  let me := s.me
  let since := match me.wait with | some w => w.since | none => s.now
  let got := match me.wait with | some w => (if w.ready && w.kind != k then w.kind :: w.got else w.got) | none => []
  s.setMe { me with wait := some { since := since, limited := limited, kind := k, got := got } }

/-- The wait that the bundle in hand began with, kept for what of the bundle is still to run. -/
def State.keepWait (s t : State) : State := t.setMe { t.me with wait := s.me.wait }

/-- The fetch of a target that a `SOFT_TRAP`'s bundle has transferred to (R112, R248). -/
def State.fetching (s : State) : State :=
  match s.iss.go with | some g => s.setMe { s.me with fhold := g.2 } | none => s

/-- Let a stream that waits on a value of its operands look again, with the operands as they stand now (R149, R252,
log 22). -/
def Stream.relook (x : Stream) : Stream :=
  { x with wait := x.wait.map (fun w =>
      match w.kind with
      | .lines _ => if w.ready then w else { w with kind := .poll }
      | .counter _ _ => if w.ready then w else { w with kind := .poll }
      | .version _ _ => if w.ready then w else { w with kind := .poll }
      | _ => w) }

/-- Let a stream of a context look again. -/
def Ctx.lookAgain (c : Ctx) (exe : Bool) : Ctx := c.setStream exe (c.stream exe).relook

/-- Let a stream that waits on scratchpad lines look its address up again (R122). -/
def Stream.remap (x : Stream) : Stream :=
  { x with wait := x.wait.map (fun w => match w.kind with | .lines _ => if w.ready then w else { w with kind := .poll } | _ => w) }

/-- Let every stream of a tile that waits on lines look its address up again. -/
def Tile.remap (t : Tile) : Tile := { t with ctxs := t.ctxs.map (fun e => (e.1, { e.2 with acc := e.2.acc.remap, exe := e.2.exe.remap })) }

/-- Whether the bundle in hand has been granted what it asked for. -/
def Stream.granted (x : Stream) (k : WaitKind) : Bool :=
  match x.wait with | some w => (w.kind == k && w.ready) || w.got.contains k | none => false

/-- Whether the results in flight would pass 64 (R253). -/
def overFull (s t : State) : Bool := 64 < t.myCtx.count && s.myCtx.count < t.myCtx.count

/-- The outcome of an instruction of the issuing stream. -/
def finish (s : State) (r : R State) : Out :=
  match r with
  | .ok t =>
    if overFull s t then .next { s.setMyCtx { s.myCtx with stalled := true } with iss := { s.iss with last := .stalled } }
    else .next { t.setMe { t.me with wait := none } with iss := { t.iss with last := .done } }
  | .error (.trap cause addr detail t) =>
    .next { (if cause == cSOFT_TRAP then t.fetching else t).takeTrap s.iss.peer s.iss.tile s.iss.ctx s.iss.exe cause addr detail false false
              (if cause == cSOFT_TRAP then (match t.iss.go with | some g => g.1 | none => s.iss.npc) else s.iss.ipc)
            with iss := { s.iss with last := .trapped cause } }
  | .error (.deferred cause addr) =>
    .next { (s.setMe { s.me with gload := none }).takeTrap s.iss.peer s.iss.tile s.iss.ctx s.iss.exe cause addr 0 false
              (cause == cPOISONED || cause == cMARGIN) s.iss.ipc
            with iss := { s.iss with last := .trapped cause } }
  | .error (.wait k limited t) =>
    .next { t.beginWait k limited with iss := { s.iss with last := .waiting } }
  | .error .stall => .next { s.setMyCtx { s.myCtx with stalled := true } with iss := { s.iss with last := .stalled } }

/-- The physical register that a scalar field names, as one number; none for X0 and for no scalar register. -/
def Ctx.physReg (c : Ctx) (exe : Bool) (f : BitVec 8) : Option Nat :=
  let n := num f
  match sel f with
  | 0 => if n == 0 then none else some (physX exe c.bkb n)
  | 1 => some (if (c.stream exe).tmode && 12 <= n then 100 + n else 64 + n)
  | 2 => some (200 + n)
  | _ => none

/-- The forms that read their field d. -/
def readsD (i : Instr) : Bool :=
  match i with
  | .st _ => true | .cas _ => true | .movh _ => true | .bins _ => true | _ => false

/-- The L-slot forms that return a scalar result (R126). -/
def lScalar (i : Instr) : Bool :=
  match i with
  | .ld _ => true | .atom _ => true | .cas _ => true | .atomf _ => true | .lnpeek _ => true | _ => false

/-- The forms that end a stream (R126, R236). -/
def endsStream (i : Instr) : Bool :=
  match i with
  | .texit _ => true | .dorm _ => true | .opend _ => true | _ => false

/-- Whether an instruction must wait for the stream's outstanding global access (R126): it reads or writes the
destination, reads L2 or L3, returns an L-slot scalar result, or ends the stream. -/
def needsLoad (i : Instr) (s : State) (g : GLoad) : Bool :=
  let w := encodeWord i
  let k := kinds i
  let c := s.myCtx
  let scalar := fun (k : Kind) => k == .s || k == .sd
  let names := fun (k : Kind) (f : BitVec 8) =>
    scalar k && (c.physReg s.iss.exe f).isSome && c.physReg s.iss.exe f == c.physReg s.iss.exe g.dest && sel f != 2
  let readsL := fun (k : Kind) (f : BitVec 8) => scalar k && sel f == 2 && 2 <= num f
  names k.d (field w 13 8) || names k.a (field w 21 8) || names k.b (field w 29 8) || names k.e (field w 37 8) ||
    readsL k.a (field w 21 8) || readsL k.b (field w 29 8) || readsL k.e (field w 37 8) ||
    (readsD i && readsL k.d (field w 13 8)) || lScalar i || endsStream i

/-- Whether an instruction may access anything: a prefix or a dictionary parcel is not what accesses, but the word that it
makes (R85, R86). -/
def accesses (i : Instr) : Bool :=
  match i with
  | .rep .. | .dictionaryParcel .. => false
  | i => slotGroup i == 1 || slotGroup i == 3

/-- Whether an access has been answered or failed, so that it is on its way no more. -/
def GLoad.back (g : GLoad) : Bool := g.tag.isNone || g.data.isSome || g.cause != 0

/-- Wait for an outstanding access of an earlier bundle that the instruction needs, or take its deferred trap (R126); an
acquire is performed before every later access of the stream (R279), a shelved one before those of a handler. -/
def loadCheck (i : Instr) (s : State) : R Unit :=
  let before := fun (g : GLoad) => g.ordv % 2 == 1 && accesses i
  let shelved : R Unit := match s.prior.snapLoad with
    | some g => if before g && !g.back then .error (.wait .gload false s) else .ok ()
    | none => .ok ()
  match s.prior.gload with
  | none => shelved
  | some g =>
    if needsLoad i s g || before g then
      (if g.cause != 0 then .error (.deferred g.cause g.ea) else .error (.wait .gload false s))
    else shelved

/-- An encoded instruction: it needs power (R441), a stream that may issue it (R84), and the data that it uses (R126). -/
def issue (i : Instr) (s : State) (r : R State) : Out :=
  if !s.powered then .fault .unpowered
  else if streamOk s.iss.exe i then finish s (match loadCheck i s with | .ok _ => r | .error e => .error e)
  else finish s (trap s cILLOP)

/-- An event of the device: it needs power, and changes the state as its rule says. -/
def event (s : State) (t : State) : Out := if s.powered then .next t else .fault .unpowered

end Sys2Proof.Machine
end

