-- ==== Sys2Proof/Machine/Operands.lean ====
section
/-! DEFINITION. Operand forms: typed readings of scalar registers and immediates (R98, R104), the shift amounts (R102),
and effective addresses (R121). -/

namespace Sys2Proof.Machine

/-- The low W bits of a scalar as the type reads them (R98). -/
def lowW (t : Nat) (w : Word) : Nat := w.toNat % 2 ^ width t
/-- W bits read as signed for an i type and unsigned for an n type (R38). -/
def intVal (t v : Nat) : Int := if isSigned t then sint v (width t) else (v % 2 ^ width t : Nat)
/-- A W-bit result extended to 64 bits: by sign for an i type, by zeros for any other (R98). -/
def extT (t v : Nat) : Word := if isSigned t then sext64 v (width t) else BitVec.ofNat 64 (v % 2 ^ width t)
/-- An integer modulo 2^W. -/
def modW (t : Nat) (v : Int) : Nat := (v % (2 ^ width t : Nat)).toNat

/-- The signed 24-bit immediate, cut to W bits (R104, R109). -/
def immW (t : Nat) (f : ImmF) : Nat := (sext64 f.imm.toNat 24).toNat % 2 ^ width t
/-- The signed 12-bit displacement. -/
def dispW (f : MemF) : Word := f.disp.signExtend 64
/-- The effective address of a Mem form without index (R121). -/
def State.ea (s : State) (f : MemF) : Word := s.reg f.a + dispW f

/-- Shift left, by an amount that is never masked (R102). -/
def shlW (t a n : Nat) : Nat := if width t <= n then 0 else a * 2 ^ n % 2 ^ width t
/-- Logical shift right (R102). -/
def shrW (t a n : Nat) : Nat := if width t <= n then 0 else a / 2 ^ n
/-- Arithmetic shift right (R102). -/
def sraW (t a n : Nat) : Nat :=
  let w := width t
  if w <= n then (if a.testBit (w - 1) then 2 ^ w - 1 else 0) else modW t (sint a w / (2 ^ n : Nat))

/-- Quotient towards zero (R101). -/
def divW (t a b : Nat) : Nat :=
  if b == 0 then 2 ^ width t - 1 else modW t (Int.tdiv (intVal t a) (intVal t b))
/-- Remainder with the dividend's sign (R101). -/
def remW (t a b : Nat) : Nat := if b == 0 then a else modW t (Int.tmod (intVal t a) (intVal t b))

/-- Leading zeros of `n` bits, from bit `n - 1` down. -/
def clzN (a : Nat) : Nat → Nat
  | 0 => 0
  | n + 1 => if a.testBit n then 0 else 1 + clzN a n
/-- Trailing zeros among `n` bits, from bit `k` up. -/
def ctzN (a : Nat) : Nat → Nat → Nat
  | 0, _ => 0
  | n + 1, k => if a.testBit k then 0 else 1 + ctzN a n (k + 1)
/-- One bits among the low `n`. -/
def popN (a : Nat) : Nat → Nat
  | 0 => 0
  | n + 1 => b2n (a.testBit n) + popN a n

end Sys2Proof.Machine
end

