-- ==== Sys2Proof/Machine/Scratch.lean ====
section
/-! DEFINITION. The scratchpad of a tile (R32, R33, R122): addresses, reads, the writes of one tile cycle in the order of
R33, and line metadata. A read sees the line as it stood before the cycle's writes (R125). -/

namespace Sys2Proof.Machine

/-! ### Read-modify-writes (R130 to R132) -/

/-- The new value of an integer read-modify-write (R130). -/
def atomNew (op t old b : Nat) : Nat :=
  match op with
  | 0 => (old + b) % 2 ^ width t
  | 1 => old &&& b
  | 2 => old ||| b
  | 3 => old ^^^ b
  | 4 => if sint b (width t) < sint old (width t) then b else old
  | 5 => if sint old (width t) < sint b (width t) then b else old
  | 6 => min old b
  | 7 => max old b
  | _ => b

/-- The new value of a floating-point read-modify-write (R132). -/
def atomfNew (op t old b : Nat) : Nat :=
  let f := fmtOf t
  let x := f.value old
  let y := f.value b
  if op == 0 then roundV t {} (FVal.add x y false)
  else if x == .nan || y == .nan then f.nan
  else
    let c := FVal.cmp0 x y
    if op == 1 then (if c <= 0 then old else b) else (if 0 <= c then old else b)

/-- What an operation writes, given the old value; none when a CAS fails (R131). -/
def gopNew (op : GOp) (t old : Nat) : Option Nat :=
  match op with
  | .load => none
  | .atom o b => some (atomNew o t old (lowW t b))
  | .cas e b => if old == lowW t e then some (lowW t b) else none
  | .atomf o b => some (atomfNew o t old (lowW t b))

/-- What the destination receives: the old value, extended by the type, or by zeros for a floating-point one. -/
def gopOld (op : GOp) (t old : Nat) : Word :=
  match op with
  | .atomf _ _ => BitVec.ofNat 64 old
  | _ => extT t old

/-! ### Addresses and lines -/

/-- The first line of a buffer's copy (R29), given how a command may have resolved it (R139). -/
def bufLine (b : Buffer) (shadow : Bool) : Nat := if shadow then b.shd.toNat else b.cur.toNat

/-- The byte that a scratchpad address reaches (R122), or the cause that it gives. -/
def Tile.resolve (t : Tile) (ea : Nat) : Except Nat Nat :=
  if ea / 2 ^ 22 == 0 then .ok ea
  else if ea / 2 ^ 32 == 0 && (ea / 2 ^ 30 == 1 || ea / 2 ^ 30 == 3) then
    let b : Buffer := SMap.get {} t.bufs (ea / 2 ^ 22 % 256)
    if !b.valid then .error cILLOP
    else
      let off := ea % 2 ^ 22
      if (b.lenM1.toNat + 1) * 128 <= off then .error cADDR_RANGE
      else .ok (bufLine b (ea / 2 ^ 30 == 3) * 128 + off)
  else .error cADDR_RANGE

/-- Whether a span of scratchpad addresses keeps to R122, or the cause that it gives. -/
def Tile.span (t : Tile) (ea len : Nat) : Except Nat Unit :=
  if ea / 2 ^ 22 == 0 then (if ea + len <= 2 ^ 22 then .ok () else .error cADDR_RANGE)
  else match t.resolve ea with
  | .error c => .error c
  | .ok _ =>
    let b : Buffer := SMap.get {} t.bufs (ea / 2 ^ 22 % 256)
    if ea % 2 ^ 22 + len <= (b.lenM1.toNat + 1) * 128 then .ok () else .error cADDR_RANGE

/-- The lines of a span, first and last (R256): on both copies of its buffer when asked. -/
def linesOf (bufs : SMap Buffer) (both : Bool) (sp : Nat × Nat) : List (Nat × Nat) :=
  if sp.2 == 0 then []
  else if sp.1 / 2 ^ 30 == 0 then [(sp.1 / 128, (sp.1 + sp.2 - 1) / 128)]
  else
    let b : Buffer := SMap.get {} bufs (sp.1 / 2 ^ 22 % 256)
    let off := sp.1 % 2 ^ 22
    let at_ := fun (l : Nat) => (l + off / 128, l + (off + sp.2 - 1) / 128)
    if both then [at_ b.cur.toNat, at_ b.shd.toNat] else [at_ (bufLine b (sp.1 / 2 ^ 30 == 3))]

/-- The explicit mask that an `ATTN` reads (R191, R204), by its descriptor as the scratchpad holds it. -/
def Tile.maskSpan (t : Tile) (c : Cmd) : List (Nat × Nat) :=
  match c.i, t.resolve c.ve.toNat with
  | .attn _, .ok a =>
    let d := Memory.read t.scr a 32
    if d / 2 ^ 128 % 256 == 2 || d / 2 ^ 128 % 256 == 3 then [(d / 2 ^ 160 % 2 ^ 32, 16 * (bits c.vb 14 8 + 1))] else []
  | _, _ => []

/-- The lines that an engine command of the tile reads and writes. -/
def Cmd.rdLines (t : Tile) (c : Cmd) : List (Nat × Nat) :=
  (if c.st == .queued then c.rd ++ t.maskSpan c else c.rd).flatMap (linesOf (if c.st == .queued then t.bufs else c.bufs) (c.st == .queued))
def Cmd.wrLines (t : Tile) (c : Cmd) : List (Nat × Nat) :=
  c.wr.flatMap (linesOf (if c.st == .queued then t.bufs else c.bufs) (c.st == .queued))

/-- Whether two sets of line spans meet. -/
def meet (a b : List (Nat × Nat)) : Bool := a.any (fun x => b.any (fun y => x.1 <= y.2 && y.1 <= x.2))

/-- A line as reads of this cycle see it. -/
def Tile.lineInfo (t : Tile) (n : Nat) : LineMeta :=
  match t.cyc.find n with
  | some c => c.info
  | none => SMap.get {} t.lines n
/-- A line's metadata after the writes of this cycle so far (R142). -/
def Tile.lineNow (t : Tile) (n : Nat) : LineMeta := SMap.get {} t.lines n

/-- `n` bytes of scratchpad within one line, as reads of this cycle see them. -/
def Tile.rd (t : Tile) (a n : Nat) : Nat :=
  match t.cyc.find (a / 128) with
  | some c => c.data / 2 ^ (8 * (a % 128)) % 2 ^ (8 * n)
  | none => Memory.read t.scr a n

/-- The line's record of the current cycle. -/
def Tile.cycleOf (t : Tile) (n : Nat) : LineCycle :=
  match t.cyc.find n with
  | some c => c
  | none => { data := Memory.read t.scr (128 * n) 128, info := SMap.get {} t.lines n }

/-- Insert a write behind every write that is applied before it: full-line writes first, then by falling rank (R33). -/
def orderWrite (w : LineWrite) : List LineWrite → List LineWrite
  | [] => [w]
  | x :: xs =>
    if (x.full && !w.full) || (x.full == w.full && w.rank <= x.rank) then x :: orderWrite w xs
    else w :: x :: xs

/-- Bytes over part of a line. -/
def overlay (data : Nat) (w : LineWrite) : Nat :=
  let n := w.bytes.length
  let old := data / 2 ^ (8 * w.off) % 2 ^ (8 * n)
  data - old * 2 ^ (8 * w.off) + leNat w.bytes * 2 ^ (8 * w.off)

/-- The bytes that a write puts in place over a line's data; none where a `CAS` finds another value (R131). -/
def LineWrite.made (w : LineWrite) (data : Nat) : Option (List Byte) :=
  match w.rmw with
  | none => some w.bytes
  | some (op, ty) => (gopNew op ty (data / 2 ^ (8 * w.off) % 2 ^ (8 * w.bytes.length))).map (leBytes w.bytes.length)

/-- One write applied to a line (R33): a full-line write states tag and poison, a partial one keeps the tag and never
clears poison; poisoned bytes poison the line (R209). -/
def applyWrite (l : Nat × LineMeta) (w : LineWrite) : Nat × LineMeta :=
  match w.made l.1 with
  | none => l
  | some bs =>
    (overlay l.1 { w with bytes := bs },
     if w.full then { full := true, tag := w.tag, poison := w.poison, crcDiff := 0 }
     else { l.2 with full := true, crcDiff := 0, poison := l.2.poison || w.poison })

/-- Put a line's record in force: its writes in order, then the last LNSET or LNCLR (R142). -/
def Tile.settle (t : Tile) (n : Nat) (c : LineCycle) : Tile :=
  let (data, info) := c.writes.foldl applyWrite (c.data, c.info)
  let info := match c.ln with | some b => { info with full := b } | none => info
  { t with
    cyc := t.cyc.put n c
    scr := if c.writes.isEmpty then t.scr else Memory.write t.scr (128 * n) 128 data
    lines := SMap.set {} t.lines n info }

/-- Write bytes within one line (R33). -/
def Tile.wrLine (t : Tile) (rank addr : Nat) (bytes : List Byte) (tag : BitVec 3) (poison : Bool) : Tile :=
  let n := addr / 128
  let c := t.cycleOf n
  let w : LineWrite := { rank := rank, full := bytes.length == 128, off := addr % 128, bytes := bytes, tag := tag,
                         poison := poison }
  t.settle n { c with writes := orderWrite w c.writes }

/-- Write bytes from an address on, line by line; a whole line is a full-line write (R33, R209). Recursion on the number
of lines that the bytes may touch. -/
def Tile.wrSpan (t : Tile) (rank addr : Nat) (bytes : List Byte) (tag : BitVec 3) (poison : Bool) : Nat → Tile
  | 0 => t
  | n + 1 =>
    if bytes.isEmpty then t
    else
      let k := 128 - addr % 128
      (t.wrLine rank addr (bytes.take k) tag poison).wrSpan rank (addr + k) (bytes.drop k) tag poison n

def Tile.wr (t : Tile) (rank addr : Nat) (bytes : List Byte) (tag : BitVec 3) (poison : Bool) : Tile :=
  t.wrSpan rank addr bytes tag poison (bytes.length / 128 + 2)

/-- Ranks of the engine order (R33): a control-core stream, lowest context first and its execute stream before its
access stream; the pipes; arrays A and B; the copy engine; and the fabric. -/
def coreRank (ctx : Nat) (exe : Bool) : Nat := ctx * 2 + (if exe then 0 else 1)
def arrayRank (q : Nat) : Nat := 18 + q / 2
def copyRank : Nat := 20
def fabricRank : Nat := 21

/-- An atomic on bytes of a line (R130, R133): a partial write, which acts on what it finds at its place in the order of
R33. -/
def Tile.wrAtom (t : Tile) (rank addr n : Nat) (op : GOp) (ty : Nat) : Tile :=
  let c := t.cycleOf (addr / 128)
  let w : LineWrite := { rank := rank, full := false, off := addr % 128, bytes := List.replicate n 0, tag := 0, poison := false,
                         rmw := some (op, ty) }
  t.settle (addr / 128) { c with writes := orderWrite w c.writes }

/-- A line's data as the atomic of a rank finds it among the cycle's writes. -/
def foundBy (rank : Nat) : Nat → List LineWrite → Nat
  | data, [] => data
  | data, w :: ws => if w.rank == rank && w.rmw.isSome then data else foundBy rank (applyWrite (data, {}) w).1 ws

/-- The bytes that an atomic of a rank finds (R130). -/
def Tile.found (t : Tile) (a rank n : Nat) : Nat :=
  let c := t.cycleOf (a / 128)
  foundBy rank c.data c.writes / 2 ^ (8 * (a % 128)) % 2 ^ (8 * n)

/-- Set or clear a line's full bit after every write of the cycle (R142). Of two line forms of one cycle the one that issued last
counts: DESIGN CHOICE, log 117. -/
def Tile.setFull (t : Tile) (n : Nat) (b : Bool) : Tile := t.settle n { t.cycleOf n with ln := some b }

/-- The consuming clear of a `take` (R125): before the writes of the cycle. -/
def Tile.takeFull (t : Tile) (n : Nat) : Tile :=
  let c := t.cycleOf n
  t.settle n { c with info := { c.info with full := false }, took := true }

/-- Whether a back-pressured write to a line waits (R209, R305): its full bit was 1 when the cycle began, or is now. -/
def Tile.backed (t : Tile) (n : Nat) : Bool :=
  (t.lineInfo n).full || (t.cycleOf n).took || (t.lineNow n).full

/-- Poison a line that failed its crc (R129, R190, R209), at once and for the reads of this cycle too. -/
def Tile.poisonLine (t : Tile) (n : Nat) : Tile :=
  match t.cyc.find n with
  | some c => t.settle n { c with info := { c.info with poison := true } }
  | none => { t with lines := SMap.set {} t.lines n { SMap.get {} t.lines n with poison := true } }

/-- Check a line before its data is used (R129): whether it is poisoned, and the tile with the line poisoned and the
event counted in the scratchpad's chaff counter when its crc does not match. -/
def Tile.checkLine (t : Tile) (n : Nat) : Bool × Tile :=
  let i := t.lineInfo n
  if i.poison then (true, t)
  else if i.crcDiff == 0 then (false, t)
  else (true, { t.poisonLine n with chaffs := bump t.chaffs })

/-- The stored crc of a line after the cycle's writes so far (R32, R142). -/
def Tile.lineCrc (t : Tile) (n : Nat) : Nat :=
  crc32c (leBytes 128 (Memory.read t.scr (128 * n) 128)) ^^^ (t.lineNow n).crcDiff.toNat

end Sys2Proof.Machine
end

