-- ==== Sys2Proof/Machine/Global.lean ====
section
/-! DEFINITION. Global memory: the page-table walk (R347 to R353), cached translations (R356), KV addresses (R336, R338),
the checks of the holding die (R352, R368), and the bytes of DRAM, stacked SRAM and its copies of lines (R288). -/

namespace Sys2Proof.Machine

/-- What an access is for (R352). -/
inductive Access where
  | load | store | atomic | fetch | eread | ewrite | hint
  deriving DecidableEq, Repr

def Access.writes : Access → Bool
  | .store => true | .atomic => true | .ewrite => true | .load => false | .fetch => false | .eread => false | .hint => false
def Access.engine : Access → Bool
  | .eread => true | .ewrite => true | .hint => true | .load => false | .store => false | .atomic => false | .fetch => false

/-- Where the bytes of a global access are: a byte of a die's memory (tier 0 stacked SRAM, 1 DRAM), a byte of the line
that this die's stacked SRAM holds a copy of (R288), or a launch window (R360). -/
inductive Loc where
  | mem (peer tier addr key : Nat)
  | copy (peer addr : Nat)
  | window (peer vf off : Nat)
  deriving DecidableEq, Repr

/-- What a translation gives. -/
inductive Xl where
  | ok (l : Loc)
  | fault (cause : Nat)
  /-- a leaf with stub = 1 that belongs to a live stub entry: stub index and tile (R387) -/
  | touch (n tile : Nat)
  deriving DecidableEq, Repr

/-! ### The walk -/

def leafAm (e : Word) : Nat := bits e 62 61
def leafPeer (e : Word) : Nat := bits e 49 41
def leafFrame (e : Word) : Nat := bits e 40 12
def leafSpan (e : Word) : Nat := bits e 11 10

/-- An entry of a node (R349): one aligned 8-byte read of local DRAM. -/
def Die.pte (d : Die) (node idx : Nat) : Word := BitVec.ofNat 64 (Memory.read d.dram (node * 4096 + idx * 8) 8)

/-- The device frames of the launch windows, and every frame from the first of them on (R360). -/
def devFrame : Nat := 0x1FFFFF00
/-- Whether a leaf maps such a frame, on which its span has no effect (R360). -/
def isDevice (e : Word) : Bool := devFrame <= leafFrame e
def groupSpan (e : Word) : Nat := if isDevice e then 0 else leafSpan e

def isLeafSpan (e : Word) (span : Nat) : Bool := bit e 0 && bit e 1 && groupSpan e == span

/-- The entry that governs an index at a level, where it stands, and whether it is a group's head (R351). -/
def Die.headEntry (d : Die) (node idx level : Nat) : Word × Nat × Bool :=
  let at_ := fun i => d.pte node i
  let g256 := idx / 256 * 256
  let g16 := idx / 16 * 16
  if level == 1 && isLeafSpan (at_ g256) 2 then (at_ g256, g256, true)
  else if level <= 1 && isLeafSpan (at_ g16) 1 then (at_ g16, g16, true)
  else (at_ idx, idx, false)

/-- Bytes covered by a leaf of a level and span (R351). -/
def coverage (level span : Nat) : Nat := 2 ^ (12 + 9 * level) * (if span == 1 then 16 else if span == 2 then 256 else 1)

/-- Whether a leaf passes the cases of R351; a leaf of access mode 10 may name another die (R288, R353, log 30). -/
def leafOk (s : State) (p : Nat) (e : Word) (level : Nat) : Bool :=
  let am := leafAm e
  let dev := isDevice e
  bits e 7 2 == 0 && groupSpan e != 3 && !(groupSpan e == 2 && level == 0) &&
    leafFrame e * 4096 % coverage level (groupSpan e) == 0 &&
    (am != 0 || leafPeer e == p || dev) &&
    !(2 <= am && dev) && (bits e 60 58 == 0 || am == 3 || dev) && leafPeer e < s.peers &&
    !(am == 3 && (bit e 9 || leafSpan e != 0 || level == 1))

/-- A leaf, the bytes it covers, the first address covered, and where it stands in memory. -/
structure LeafAt where
  leaf : Word
  size : Nat
  base : Nat
  addr : Nat
  deriving DecidableEq, Repr

/-- The walk from a node at a level down (R349, R351); none is `XLATE_FAULT`. -/
def walkFrom (s : State) (p vf va : Nat) : Nat → Nat → Option LeafAt
  | level, node =>
    let idx := va / 2 ^ (12 + 9 * level) % 512
    let (e, at_, head) := (s.die p).headEntry node idx level
    if !s.cfg.inRange p vf node then none
    else if !bit e 0 then none
    else if bit e 1 then
      if 2 <= level || (groupSpan e != 0 && !head) || !leafOk s p e level then none
      else
        let c := coverage level (groupSpan e)
        some { leaf := e, size := c, base := va / c * c, addr := node * 4096 + at_ * 8 }
    else
      match level with
      | 0 => none
      | l + 1 =>
        if e.toNat != leafFrame e * 4096 + 1 then none
        else walkFrom s p vf va l (leafFrame e)

/-- Whether a VF's space is enabled (R348). -/
def State.spaceOn (s : State) (p vf : Nat) : Bool := bit (SMap.get (0 : Word) (s.die p).vfroot vf) 63

/-- A KV address (R336). -/
def isKv (va : Nat) : Bool := va / 2 ^ 52 == 31

/-- The walk of a VF's space (R348, R349): entries that cover KV addresses are never read. -/
def walk (s : State) (p vf va : Nat) : Option LeafAt :=
  let root : Word := SMap.get 0 (s.die p).vfroot vf
  if !s.spaceOn p vf || 2 ^ 57 <= va || isKv va then none else walkFrom s p vf va 4 (bits root 40 12)

/-! ### Cached translations (R356) -/

def TlbEntry.covers (e : TlbEntry) (vf va : Nat) : Bool := e.vf == vf && e.va <= va && va < e.va + e.size

/-- Put an entry last, dropping the oldest beyond the capacity. -/
def tlbPut (cap : Nat) (l : List TlbEntry) (e : TlbEntry) : List TlbEntry :=
  let l := l ++ [e]
  l.drop (l.length - cap)

/-- The entry for an address of a space that is enabled (R348): from the tile's micro-TLB, else from the die's TLB, else by a
walk; with both filled. -/
def lookup (s : State) (p t vf va : Nat) : Option TlbEntry × State :=
  if !s.spaceOn p vf then (none, s)
  else match (s.tile p t).utlb.find? (·.covers vf va) with
  | some e => (some e, s)
  | none =>
    match (s.die p).tlb.find? (·.covers vf va) with
    | some e => (some e, s.modTile p t fun x => { x with utlb := tlbPut 64 x.utlb e })
    | none =>
      match walk s p vf va with
      | none => (none, s)
      | some l =>
        let e : TlbEntry := { vf := vf, va := l.base, size := l.size, leaf := l.leaf }
        let s := s.modDie p fun d => { d with tlb := tlbPut 8192 d.tlb e }
        (some e, s.modTile p t fun x => { x with utlb := tlbPut 64 x.utlb e })

/-- Drop the translations of a VF that overlap a range (R249), in a die and all its tiles. -/
def Die.dropTlb (d : Die) (hit : TlbEntry → Bool) : Die :=
  { d with
    tlb := d.tlb.filter (fun e => !hit e)
    tiles := d.tiles.map (fun x => (x.1, { x.2 with utlb := x.2.utlb.filter (fun e => !hit e) })) }

def TlbEntry.hits (vf lo n : Nat) (e : TlbEntry) : Bool := e.vf == vf && e.va < lo + n && lo < e.va + e.size

/-! ### Checks of the holding die (R352, R368) -/

/-- The VF of a die in whose range a frame lies. -/
def Cfg.vfOfFrame (c : Cfg) (p frame : Nat) : Option Nat := (List.range 24).find? (fun v => c.inRange p v frame)

/-- Whether a frame belongs to a VF whose teardown is in progress (R451). -/
def State.tornFrame (s : State) (home frame : Nat) : Bool :=
  (s.die home).tdisp.any (fun v => v.2.tearing && s.cfg.inRange home v.1 frame)

/-- Whether the die that holds a frame lets the access through: the frame's range, the key slot (R352), and no teardown
of the frame's VF in progress (R451). -/
def homeOk (s : State) (home frame key p vf : Nat) : Bool :=
  let tenant := s.cfg.tenantOf p vf
  let owned := if home == p then s.cfg.inRange p vf frame
    else match s.cfg.vfOfFrame home frame with
      | none => false
      | some v => s.cfg.tenantOf home v == tenant &&
          s.cfg.realmOf home (s.cfg.partOf home v) == s.cfg.realmOf p (s.cfg.partOf p vf)
  owned && !s.tornFrame home frame && SMap.get none (s.die home).keys key == some tenant

/-! ### Bytes of DRAM and stacked SRAM -/

def Die.bytes (d : Die) (tier : Nat) : Memory := if tier == 0 then d.sram else d.dram
def Die.metaOf (d : Die) (tier line : Nat) : DramMeta := SMap.get {} (if tier == 0 then d.smeta else d.dmeta) line
def Die.setMeta (d : Die) (tier line : Nat) (m : DramMeta) : Die :=
  if tier == 0 then { d with smeta := SMap.set {} d.smeta line m } else { d with dmeta := SMap.set {} d.dmeta line m }

/-- Why the data of a line is rejected (R129, R209, R434): 0, `POISONED` or `MARGIN`. -/
def DramMeta.bad (m : DramMeta) : Nat := if m.margin then cMARGIN else if m.poison || m.crcDiff != 0 then cPOISONED else 0

/-- Write bytes within one line: a whole line takes the source's poison, a part keeps the line's (R33, R209). -/
def Die.wrLine (d : Die) (tier addr : Nat) (bs : List Byte) (poison : Bool) : Die :=
  let m := d.metaOf tier (addr / 128)
  let m' : DramMeta := if bs.length == 128 then { poison := poison } else { m with crcDiff := 0, poison := m.poison || poison }
  let mem := Memory.write (d.bytes tier) addr bs.length (leNat bs)
  (if tier == 0 then { d with sram := mem } else { d with dram := mem }).setMeta tier (addr / 128) m'

/-- Write bytes line by line; the count bounds the lines. -/
def Die.wrSpan (d : Die) (tier addr : Nat) (bs : List Byte) (poison : Bool) : Nat → Die
  | 0 => d
  | n + 1 =>
    if bs.isEmpty then d
    else
      let k := 128 - addr % 128
      (d.wrLine tier addr (bs.take k) poison).wrSpan tier (addr + k) (bs.drop k) poison n

def Die.wr (d : Die) (tier addr : Nat) (bs : List Byte) (poison : Bool) : Die :=
  d.wrSpan tier addr bs poison (bs.length / 128 + 2)

/-- The worst rejection among the lines of a span (R129). -/
def Die.badSpan (d : Die) (tier addr : Nat) (n : Nat) : Nat :=
  (List.range ((addr + n - 1) / 128 + 1 - addr / 128)).foldl
    (fun c k => if c != 0 then c else (d.metaOf tier (addr / 128 + k)).bad) 0

/-! ### Copies of lines in stacked SRAM (R288) -/

def copyKey (peer addr : Nat) : Nat := peer * 2 ^ 34 + addr / 128

/-- Hops from place `a` to place `b` of a ring of `n`, in one direction: the places reached. -/
def ringSteps (n a b : Nat) (ccw : Bool) : List Nat :=
  (List.range ((if ccw then a + n - b else b + n - a) % n)).map (fun i => (if ccw then a + n - (i + 1) else a + i + 1) % n)
/-- The way along a package ring from die `a` to die `b` (R361). -/
def packageWay (pkg a b : Nat) : List Hop :=
  let ccw := 4 < (b + 8 - a) % 8
  (ringSteps 8 a b ccw).map (fun d => ⟨false, ccw, pkg * 8 + d⟩)
/-- The fixed route from a peer to a peer of a domain of `n` packages (R361). -/
def route (n p q : Nat) : List Hop :=
  let (sp, dp) := (p / 8, q / 8)
  if sp == dp then packageWay sp (p % 8) (q % 8)
  else
    let ccw := n / 2 < (dp + n - sp) % n
    let bridge := if ccw then 6 else 2
    packageWay sp (p % 8) bridge ++ (ringSteps n sp dp ccw).map (fun k => ⟨true, ccw, k * 8 + bridge⟩) ++ packageWay dp bridge (q % 8)

/-- Whether a hop crosses a rack link that is down (R446); link `k` joins package `k` to the next. -/
def State.hopDown (s : State) (h : Hop) : Bool :=
  h.rack && SMap.get false s.linkDown (if h.ccw then h.to_ / 8 else (h.to_ / 8 + s.packages - 1) % s.packages)
/-- Whether a peer cannot be reached from another: it is fenced (R370), or its route crosses a rack link that is down (R361,
R446). -/
def State.gone (s : State) (p q : Nat) : Bool :=
  s.fenced.contains q || (p / 8 != q / 8 && (route s.packages p q).any s.hopDown)

/-- The copy of a line, filled from its home on a miss; from a home that is lost nothing comes (R370). -/
def State.copyOf (s : State) (p peer addr : Nat) : Copy :=
  match (s.die p).copies.find (copyKey peer addr) with
  | some c => c
  | none =>
    if s.gone p peer then { data := 0, poison := true }
    else { data := Memory.read (s.die peer).dram (addr / 128 * 128) 128,
              poison := ((s.die peer).metaOf 1 (addr / 128)).bad != 0 }

def State.setCopy (s : State) (p peer addr : Nat) (c : Copy) : State :=
  s.modDie p fun d => { d with copies := d.copies.put (copyKey peer addr) c }

/-- Write back the dirty bytes of a copy byte by byte under its mask, with its poison (R288, R409); recursion on the byte. -/
def writeBytes (d : Die) (base : Nat) (c : Copy) : Nat → Die
  | 0 => d
  | n + 1 =>
    let d := writeBytes d base c n
    if bit c.dirty n then d.wrLine 1 (base + n) [BitVec.ofNat 8 (c.data / 2 ^ (8 * n))] c.poison else d
/-- Write back a copy to its home: a line that is dirty throughout as a full-line write (R33, R288). -/
def writeBack (d : Die) (base : Nat) (c : Copy) : Die :=
  if c.dirty == BitVec.allOnes 128 then d.wrLine 1 base (leBytes 128 c.data) c.poison else writeBytes d base c 128

/-- The frame of a location for the hold counts (R383): stacked-SRAM frames follow those of DRAM. -/
def Loc.holdFrame : Loc → Option (Nat × Nat)
  | .mem peer tier addr _ => some (peer, addr / 4096 + (if tier == 0 then 2 ^ 29 else 0))
  | .copy peer addr => some (peer, addr / 4096)
  | .window _ _ _ => none

/-- Whether a location's frame is held (R383, R389). -/
def State.heldLoc (s : State) (l : Loc) : Bool :=
  match l.holdFrame with
  | none => false
  | some (p, f) => SMap.get 0 (s.die p).holdCnt f != 0

/-- Write back a copy and keep it clean, or drop it; what goes to a lost home is lost (R370). Nothing goes into a frame that is
held (R286, R389). -/
def State.flushCopy (s : State) (p key : Nat) (drop : Bool) : State :=
  match (s.die p).copies.find key with
  | none => s
  | some c =>
    if c.dirty != 0 && s.heldLoc (.copy (key / 2 ^ 34) (key % 2 ^ 34 * 128)) then s else
    let s := if s.gone p (key / 2 ^ 34) then s else s.modDie (key / 2 ^ 34) fun d => writeBack d (key % 2 ^ 34 * 128) c
    s.modDie p fun d => { d with copies := if drop then d.copies.erase key else d.copies.put key { c with dirty := 0 } }

/-- An atomic or an engine write goes to a line's home (R133, R210): the die's own dirty bytes are written back first, and its
copy is dropped (R288); while the frame is held dirty bytes stay, and the access waits (R389). -/
def State.toHome (s : State) (p home addr : Nat) : State := s.flushCopy p (copyKey home addr) true
/-- Whether the die still has a copy of the line of an access that goes to its home. -/
def State.copied (s : State) (p : Nat) (l : Loc) : Bool :=
  match l with
  | .mem home _ addr _ => home != p && ((s.die p).copies.find (copyKey home addr)).isSome
  | _ => false

/-! ### KV addresses (R336, R338) -/

/-- Where a slab lies in the memory tiers, if it does. -/
def Slab.place (b : Slab) : Option (Nat × Nat) :=
  match b.demoted with
  | none => some (b.tier, b.base)
  | some (true, x) => some (1, x)
  | some (false, _) => none

/-- Where a KV access goes (R336, R219): below a move's boundary to the new slab; a slab that a demotion has put elsewhere is
reached there, and in the swap area not at all (log 121). -/
def kvLoc (s : State) (p part va : Nat) : Except Nat Loc :=
  let d := s.die p
  let slot := va / 2 ^ 40 % 4096
  let sl : Slot := SMap.get {} d.slots slot
  let off := va % 2 ^ 32
  if sl.state != 0 && s.cfg.partOf p sl.vf != part then .error cPERM_FAULT
  else if sl.state == 0 || sl.state == 5 then .error cXLATE_FAULT
  else match sl.slabs.find (va / 2 ^ 32 % 256) with
  | none => .error cXLATE_FAULT
  | some b =>
    if 2 ^ b.lsize * b.stride <= off then .error cXLATE_FAULT
    else
      let moved := (d.fwd.find? (fun f => f.2.busy && f.2.slot == slot && f.2.slab == va / 2 ^ 32 % 256)).map (·.2)
      match moved with
      | some f => .ok (.mem p b.tier ((if off / b.stride < f.boundary then f.new else f.old) + off) 0)
      | none => match b.place with
        | some (t, a) => .ok (.mem p t (a + off) 0)
        | none => .error cXLATE_FAULT

/-- Bytes from a KV address on that a slab holds, and that a move's boundary does not part (R336, R338). -/
def State.kvLeft (s : State) (p va : Nat) : Nat :=
  let d := s.die p
  let slot := va / 2 ^ 40 % 4096
  let idx := va / 2 ^ 32 % 256
  let off := va % 2 ^ 32
  match (SMap.get ({} : Slot) d.slots slot).slabs.find idx with
  | none => 128
  | some b =>
    let size := 2 ^ b.lsize * b.stride
    let edge := match (d.fwd.find? (fun f => f.2.busy && f.2.slot == slot && f.2.slab == idx)).map (·.2) with
      | some f => f.boundary * b.stride
      | none => 0
    if size <= off then 128 else if off < edge then edge - off else size - off

/-! ### Translation -/

/-- The live stub entry of a VF that holds a page, and the page's tile (R387). -/
def Die.stubOf (d : Die) (vf va : Nat) : Option (Nat × Nat) :=
  (d.stubs.find? (fun e => e.2.valid && e.2.vf == vf && e.2.hva * 4096 <= va && va < (e.2.hva + e.2.tiles) * 4096)).map
    (fun e => (e.1, va / 4096 - e.2.hva))

/-- Count a line read of a page of access mode 11 (R354). -/
def countMigration (s : State) (p vf va thr : Nat) : State :=
  s.modDie p fun d =>
    let k := vf * 2 ^ 45 + va / 4096
    let n := (match d.migCnt.find? (fun e => e.1 == k) with | some e => e.2 | none => 0) + 1
    let rest := d.migCnt.filter (fun e => e.1 != k)
    let rest := rest.drop (rest.length + 1 - 1024)
    { d with
      migCnt := rest ++ [(k, n)]
      migDue := if n == 2 ^ (4 + 2 * thr) then d.migDue ++ [(vf, va / 4096 * 4096)] else d.migDue }

/-- Resolve a global address for an access by a partition in a VF's space (R121, R336, R352, R353, R360). -/
def translate (s : State) (p t part vf : Nat) (va : Nat) (acc : Access) : Xl × State :=
  if 2 ^ 57 <= va then (.fault cXLATE_FAULT, s)
  else if isKv va then
    if acc == .fetch then (.fault cPERM_FAULT, s)
    else match kvLoc s p part va with
      | .ok l => (.ok l, s)
      | .error c => (.fault c, s)
  else match lookup s p t vf va with
  | (none, s) => (.fault cXLATE_FAULT, s)
  | (some e, s) =>
    let l := e.leaf
    let stub := bit l 63
    let frame := leafFrame l + (va - e.va) / 4096
    let addr := leafFrame l * 4096 + (va - e.va)
    let home := leafPeer l
    -- a stub leaf of no live entry is no translation for what would touch it (R387)
    if stub && !acc.writes && ((s.die p).stubOf vf va).isNone then (.fault cXLATE_FAULT, s)
    else if isDevice l then
      let v := leafFrame l - devFrame
      if acc.engine || acc == .fetch || 24 <= v || home != p || s.cfg.partOf home v != part || (acc.writes && (!bit l 9 || stub))
      then (.fault cPERM_FAULT, s)
      else match if stub then (s.die p).stubOf vf va else none with
        | some (n, k) => (.touch n k, s)
        | none => (.ok (.window home v (va % 4096)), s)
    else if acc.writes && (!bit l 9 || stub) then (.fault cPERM_FAULT, s)
    else if acc == .fetch && (!bit l 8 || stub) then (.fault cPERM_FAULT, s)
    else if stub then
      match (s.die p).stubOf vf va with
      | none => (.fault cXLATE_FAULT, s)
      | some (n, k) => (.touch n k, s)
    else if !homeOk s home frame (bits l 57 50) p vf then (.fault cPERM_FAULT, s)
    else if leafAm l == 2 && acc != .atomic && acc != .ewrite then (.ok (.copy home addr), s)
    else if leafAm l == 2 then (.ok (.mem home 1 addr (bits l 57 50)), s.toHome p home addr)
    else
      let s := if leafAm l == 3 && !acc.writes && acc != .hint then countMigration s p vf va (bits l 60 58) else s
      (.ok (.mem home 1 addr (bits l 57 50)), s)

/-! ### Reading and writing a location -/

/-- `n` bytes at a location, as the die `p` sees them. -/
def State.readLoc (s : State) (p : Nat) (l : Loc) (n : Nat) : Nat :=
  match l with
  | .mem peer tier addr _ => Memory.read ((s.die peer).bytes tier) addr n
  | .copy peer addr => (s.copyOf p peer addr).data / 2 ^ (8 * (addr % 128)) % 2 ^ (8 * n)
  | .window _ _ _ => 0

/-- Why the data there is rejected, or 0. -/
def State.badLoc (s : State) (p : Nat) (l : Loc) (n : Nat) : Nat :=
  match l with
  | .mem peer tier addr _ => (s.die peer).badSpan tier addr n
  | .copy peer addr => let c := s.copyOf p peer addr; if c.margin then cMARGIN else if c.poison then cPOISONED else 0
  | .window _ _ _ => 0

/-- The state after a read: a copy that the read filled (R288). -/
def State.touchLoc (s : State) (p : Nat) (l : Loc) : State :=
  match l with
  | .copy peer addr => if s.gone p peer then s else s.setCopy p peer addr (s.copyOf p peer addr)
  | _ => s

/-- Write bytes at a location; at most one line for a copy. -/
def State.writeLoc (s : State) (p : Nat) (l : Loc) (bs : List Byte) (poison : Bool) : State :=
  match l with
  | .mem peer tier addr _ => s.modDie peer fun d => d.wr tier addr bs poison
  | .copy peer addr =>
    let c := s.copyOf p peer addr
    let o := addr % 128
    let n := bs.length
    let old := c.data / 2 ^ (8 * o) % 2 ^ (8 * n)
    s.setCopy p peer addr { c with
      data := c.data - old * 2 ^ (8 * o) + leNat bs * 2 ^ (8 * o)
      dirty := c.dirty ||| (BitVec.ofNat 128 ((2 ^ n - 1) * 2 ^ o))
      poison := if n == 128 then poison else c.poison || poison
      margin := c.margin && n != 128 }
  | .window _ _ _ => s

/-- Whether a location is on another die. -/
def Loc.remote (l : Loc) (p : Nat) : Bool :=
  match l with
  | .mem peer _ _ _ => peer != p
  | .copy _ _ => false
  | .window peer _ _ => peer != p

/-! ### Launch windows (R307, R309) -/

/-- An aligned word of a VF's launch window. -/
def State.windowRead (s : State) (p vf off : Nat) : Word :=
  let w : Window := SMap.get {} (s.die p).windows vf
  if off < 0x800 then BitVec.ofNat 64 (Memory.read w.bytes off 8)
  else if off == 0x800 then
    let q := (SMap.get [] (s.die p).launches (s.cfg.partOf p vf)).length
    BitVec.ofNat 64 (w.done % 256 * 2 ^ 16 + q * 2 ^ 8 + b2n w.fail * 2 + b2n w.ovf)
  else if off == 0x808 then w.tag
  else 0

/-- Write bytes of a launch window, none crossing an 8-byte word: a slot whose tag word is thereby complete is
read whole, and its launch is due (R309). -/
def State.windowWrite (s : State) (p vf off : Nat) (bs : List Byte) : State :=
  let d := s.die p
  let w : Window := SMap.get {} d.windows vf
  if off < 0x800 then
    let w := { w with bytes := Memory.write w.bytes off bs.length (leNat bs) }
    if off % 64 < 56 then s.setDie p { d with windows := d.windows.put vf w }
    else
      let n := off / 64
      let m := SMap.get 0 w.marks n ||| BitVec.ofNat 8 ((2 ^ bs.length - 1) * 2 ^ (off % 8))
      s.setDie p { d with
        windows := d.windows.put vf { w with marks := SMap.set 0 w.marks n (if m == 0xFF then 0 else m) }
        launchDue := if m == 0xFF then d.launchDue ++ [(vf, n, Memory.read w.bytes (64 * n) 64)] else d.launchDue }
  else if off / 8 == 0x100 then
    let v := leNat bs * 2 ^ (8 * (off % 8))
    s.setDie p { d with windows := d.windows.put vf { w with
      fail := w.fail && !v.testBit 1, ovf := w.ovf && !v.testBit 0 } }
  else s

/-! ### Fetching instructions -/

/-- The bytes at a code address, parcel by parcel, each translated for a fetch; none with its cause (R83, R268). -/
def fetchParcel (s : State) (p t part vf : Nat) (va : Nat) : Except Nat (BitVec 16) :=
  match translate s p t part vf va .fetch with
  | (.ok l, s) =>
    let c := s.badLoc p l 2
    if c != 0 then .error c else .ok (BitVec.ofNat 16 (s.readLoc p l 2))
  | (.fault c, _) => .error c
  | (.touch _ _, _) => .error cPERM_FAULT

/-- Four parcels as a word. -/
def fetchWord (s : State) (p t part vf : Nat) (va : Nat) : Except (Nat × Nat) Word :=
  let get := fun k => match fetchParcel s p t part vf (va + 2 * k) with
    | .ok h => Except.ok h.toNat
    | .error c => .error (c, va + 2 * k)
  match get 0, get 1, get 2, get 3 with
  | .ok a, .ok b, .ok c, .ok d => .ok (BitVec.ofNat 64 (a + b * 2 ^ 16 + c * 2 ^ 32 + d * 2 ^ 48))
  | .error e, _, _, _ => .error e
  | _, .error e, _, _ => .error e
  | _, _, .error e, _ => .error e
  | _, _, _, .error e => .error e

/-- What fetching the bytes from one address to another leaves: each line that they lie in is read once, its translation cached
(R356), its page's reads counted (R354) and the die's copy of it filled (R288). -/
def State.fetched (s : State) (p t part vf lo hi : Nat) : State :=
  (List.range ((hi + 127) / 128 - lo / 128)).foldl (fun s k =>
    match translate s p t part vf (max lo ((lo / 128 + k) * 128)) .fetch with
    | (.ok l, s) => s.touchLoc p l
    | (_, s) => s) s

end Sys2Proof.Machine
end

