-- ==== Sys2Proof/Machine/Fabric.lean ====
section
/-! DEFINITION. What every unit needs of the fabric (R363 to R370, R387): packets, requests with tags, and pull requests
for stub tiles. -/

namespace Sys2Proof.Machine

/-- The partition id of a partition (R363). -/
def partId (p q : Nat) : Nat := p / 8 * 32 + p % 8 * 4 + q

/-- Send a packet: the answer of a peer that cannot be reached is a nack of reason 4, which names the kind and carries
what the packet asked (R370). -/
def State.send (s : State) (k : Packet) : State :=
  if s.gone k.src k.dst then
    { s with net := s.net ++ [{ k with kind := 0x07, src := k.dst, dst := k.src, tile := k.srcTile, reason := 4,
                                       args := k.kind :: k.args, injected := true, taken := true }] }
  else { s with net := s.net ++ [k] }

/-- Send a request under a new tag and remember it until its response (R363, R370), with the engine command that asks. -/
def State.request (s : State) (k : Packet) (queue : Option Nat) (seq : Nat := 0) : Nat × State :=
  let d := s.die k.src
  let tag := d.nextTag
  let s := s.setDie k.src { d with
    nextTag := tag + 1
    reqs := d.reqs ++ [{ tag := tag, kind := k.kind, dst := k.dst, since := s.now, tile := k.srcTile, ctx := k.srcCtx,
                         exe := k.srcExe, queue := queue, part := k.part, seq := seq }] }
  (tag, s.send { k with tag := tag })

/-- Forget a request. -/
def State.dropReq (s : State) (p tag : Nat) : State :=
  s.modDie p fun d => { d with reqs := d.reqs.filter (fun r => r.tag != tag) }

/-- Pulls in flight of a die (R387). -/
def Die.pulls (d : Die) : Nat :=
  (d.stubs.map (fun e => (e.2.state.filter (fun x => x.2 == .asked)).length)).sum

/-- Whether an `SFWD` of a stub has begun and waits for the pulls in flight: touches wait for its outcome (R390). -/
def Die.forwarding (d : Die) (n : Nat) : Bool :=
  d.tiles.any fun t => t.2.cmds.any fun c => c.st == .running &&
    (match c.i with | .sfwd _ => c.aux.getD 1 0 == 5 && c.aux.getD 2 0 == n | _ => false)

/-- Ask the owner for a tile, unless it has been asked for or 64 pulls are in flight (R387). -/
def State.askPull (s : State) (p n tile tier : Nat) : State :=
  let d := s.die p
  let b : Stub := SMap.get {} d.stubs n
  if SMap.get .unpulled b.state tile != .unpulled || b.moving || d.forwarding n || 64 <= d.pulls then s
  else
    let s := s.setDie p { d with stubs := d.stubs.put n { b with state := b.state.put tile .asked } }
    (s.request { kind := 0x0D, src := p, dst := b.owner, tier := tier, part := partId p (s.cfg.partOf p b.vf),
                 tenant := s.cfg.tenantOf p b.vf,
                 args := [b.hold, b.gen.toNat, tile, n] } (some (n * 2 ^ 20 + tile))).2

/-- Whether a tile of a stub can no longer be pulled (R392). -/
def Die.tileLost (d : Die) (n tile : Nat) : Bool :=
  let b : Stub := SMap.get {} d.stubs n
  b.broken || SMap.get .unpulled b.state tile == .lost

/-- Resolve a global address for the issuing stream, or trap, or wait for the pull that the touch asks for (R352,
R387). -/
def State.xlate (s : State) (ea : Word) (acc : Access) : R (Loc × State) :=
  let p := s.iss.peer
  match translate s p s.iss.tile s.myCtx.part s.myCtx.vf ea.toNat acc with
  | (.ok l, t) => .ok (l, t)
  | (.fault c, t) => trapAt t c ea
  | (.touch n k, t) =>
    if (t.die p).tileLost n k then trapAt t cPULL_LOST ea
    else .error (.wait .poll false (t.askPull p n k 0))

/-- The packet header of a stream. -/
def State.headerOf (s : State) (p t c : Nat) (exe : Bool) (kind dst tier : Nat) : Packet :=
  { kind := kind, src := p, srcTile := t, srcCtx := c, srcExe := exe, dst := dst, tier := tier,
    part := partId p (s.ctx p t c).part, tenant := s.cfg.tenantOf p (s.ctx p t c).vf }
/-- The packet header of the issuing stream. -/
def State.header (s : State) (kind dst tier : Nat) : Packet := s.headerOf s.iss.peer s.iss.tile s.iss.ctx s.iss.exe kind dst tier

end Sys2Proof.Machine
end

