-- ==== Sys2Proof/Machine/Paging.lean ====
section
/-! DEFINITION. What happens to pages and their cached lines outside any one access (R288, R354 to R359): migration,
walks, evictions, and the abort of a request whose KV data is lost (R412). -/

namespace Sys2Proof.Machine

/-! ### Asynchronous causes (R267) -/

/-- Raise an A cause in a context: to its execute stream, or to its access stream when the execute stream has ended. -/
def State.raise (s : State) (p t c cause : Nat) : State :=
  s.modCtx p t c fun x =>
    if x.status != .running then x
    else
      let exe := x.exe.status == .running
      let y := x.stream exe
      x.setStream exe { y with async := y.async ++ [cause] }

/-- Raise an A cause in a partition's graph-sequencer context. -/
def State.raiseSeq (s : State) (p q cause : Nat) : State :=
  let (t, c) := s.cfg.seqCtx p q; if (s.ctx p t c).part == q then s.raise p t c cause else s

/-! ### Requests aborted by hardware (R412) -/

/-- Move a slot to aborted: its tree goes, its length stays, and the event is counted. -/
def State.abortSlot (s : State) (p n : Nat) : State :=
  s.modDie p fun d =>
    let x : Slot := SMap.get {} d.slots n
    if x.state == 0 || x.state == 6 then d
    else
      let y : Slot := { x with state := 6, nodes := [], checks := [], path := [], doomed := false }
      { d with slots := SMap.set {} d.slots n y, chrq := bump d.chrq }

/-- A KV read that takes bad data aborts its slot. -/
def State.kvRead (s : State) (p va bad : Nat) : State :=
  if bad != 0 && isKv va then s.abortSlot p (va / 2 ^ 40 % 4096) else s

/-! ### Migration (R354, R355) -/

/-- The rewritten leaf of a migrated page. -/
def migratedLeaf (l : Word) (p frame : Nat) : Word :=
  BitVec.ofNat 64 (bits l 57 50 * 2 ^ 50 + p * 2 ^ 41 + frame * 2 ^ 12 + bits l 8 0)

/-- Copy 32 lines from one die's DRAM to another's, with their poison. -/
def copyPage (src dst : Die) (from_ to_ : Nat) : Die :=
  (List.range 32).foldl (fun d k =>
    d.wr 1 (to_ + 128 * k) (leBytes 128 (Memory.read src.dram (from_ + 128 * k) 128))
      ((src.metaOf 1 ((from_ + 128 * k) / 128)).bad != 0)) dst

/-- Write an 8-byte entry of a node. -/
def State.setPte (s : State) (p addr : Nat) (e : Word) : State := s.modDie p fun d => d.wr 1 addr (leBytes 8 e.toNat) false

/-- Drop a page's translations as a die-scope `TLBI` of one page would (R249). -/
def State.dropPage (s : State) (p vf va : Nat) : State := s.modDie p fun d => d.dropTlb (·.hits vf va 4096)

/-- Whether the frame that a VF's pool gives next is held: a migration into it waits (R389). -/
def State.migrateHeld (s : State) (p vf : Nat) : Bool :=
  let pool : Word := SMap.get 0 (s.die p).migpool vf
  bits pool 63 44 != 0 && SMap.get 0 (s.die p).holdCnt (bits pool 40 12) != 0

/-- Migrate the page that holds an address, where R354 and R355 let it. -/
def State.migrate (s : State) (p vf va : Nat) : State :=
  let page := va / 4096 * 4096
  let pool : Word := SMap.get 0 (s.die p).migpool vf
  let next := bits pool 40 12
  match walk s p vf page with
  | none => s
  | some l =>
    let key := bits l.leaf 57 50
    let home := leafPeer l.leaf
    if leafAm l.leaf != 3 || bit l.leaf 63 || bits pool 63 44 == 0 || !s.cfg.inRange p vf next ||
        SMap.get 0 s.cfg.keyOwner (p * 256 + key) != s.cfg.partOf p vf || key == 0 || s.gone p home ||
        !homeOk s home (leafFrame l.leaf) key p vf || SMap.get 0 (s.die p).holdCnt next != 0 then s
    else
      let s := s.setDie p (copyPage (s.die home) (s.die p) (leafFrame l.leaf * 4096) (next * 4096))
      let s := s.setPte p l.addr (migratedLeaf l.leaf p next)
      let s := s.modDie p fun d => { d with
        migpool := SMap.set 0 d.migpool vf (BitVec.ofNat 64 ((bits pool 63 44 - 1) * 2 ^ 44 + (next + 1) % 2 ^ 29 * 2 ^ 12))
        migCnt := d.migCnt.filter (fun e => e.1 != vf * 2 ^ 45 + page / 4096) }
      s.dropPage p vf page

/-- R354: a page whose count has reached its threshold migrates. -/
def execPageMigration (p v : Nat) (va : BitVec 64) (s : State) : Out :=
  let k := (v, va.toNat / 4096 * 4096)
  event s (if (s.die p).migDue.contains k && !s.migrateHeld p v then
      (s.modDie p fun d => { d with migDue := d.migDue.filter (· != k) }).migrate p v va.toNat
    else s)

/-- R356, R357: a walk for a tile fills the micro-TLB and the die TLB. -/
def execPageWalk (p t v : Nat) (va : BitVec 64) (s : State) : Out :=
  event s (if va.toNat < 2 ^ 57 && !isKv va.toNat then (lookup s p t v va.toNat).2 else s)

/-- R288: an eviction writes back a copy's dirty bytes and drops it. -/
def execDirtyLineEviction (p home line : Nat) (s : State) : Out := event s (s.flushCopy p (home * 2 ^ 34 + line) true)

end Sys2Proof.Machine
end

