-- ==== Sys2Proof/Machine/LoadStore.lean ====
section
/-! DEFINITION. Class L (R121 to R145): loads, stores, queue loads, vector loads and stores, atomics, fences, sync
objects, versioned buffers, counters and line metadata. -/

namespace Sys2Proof.Machine

/-- Bytes of a type. -/
def sizeOf_ (t : Nat) : Nat := width t / 8

/-- A scratchpad address of the issuing tile (R122), or its trap; a buffer's use in this cycle is remembered. -/
def State.scratch (s : State) (ea : Word) : R (Nat × State) :=
  match s.myTile.resolve ea.toNat with
  | .ok a =>
    let t := s.myTile
    .ok (a, if bits ea 31 30 == 0 then s else s.setMyTile { t with usedBufs := (bits ea 29 22) :: t.usedBufs })
  | .error c => trapAt s c ea

/-- ILLOP for an address through a buffer that is not valid, which comes before the bundle's other causes (R122, R262). -/
def State.bufLive (s : State) (ea : Word) : R Unit :=
  match s.myTile.resolve ea.toNat with | .error c => (if c == cILLOP then trapAt s c ea else .ok ()) | .ok _ => .ok ()

/-- `MISALIGN` unless the address is a multiple of the size (R121). -/
def aligned (s : State) (ea : Word) (n : Nat) : R Unit := if ea.toNat % n == 0 then .ok () else trapAt s cMISALIGN ea

/-- Check a line before its data is taken (R129). -/
def State.checked (s : State) (n : Nat) (ea : Word) : R State :=
  let (bad, t) := s.myTile.checkLine n
  if bad then trapAt (s.setMyTile t) cPOISONED ea else .ok s

/-- Whether byte ranges of one die overlap. -/
def overlaps (a n b m : Nat) : Bool := a < b + m && b < a + n

/-- The die and the byte of its memory that an access reaches, through the die's own copy of the line or not. -/
def Loc.spot (l : Loc) : Option (Nat × Nat) :=
  match l with
  | .mem peer _ addr _ => some (peer, addr)
  | .copy peer addr => some (peer, addr)
  | .window _ _ _ => none

/-- Whether a global access must wait for an earlier remote access of the stream to overlapping bytes (R275): a posted write, or
a load or atomic, which a trap may have shelved. -/
def Stream.clash (x : Stream) (l : Loc) (n : Nat) : Bool :=
  match l.spot with
  | none => false
  | some (peer, addr) =>
    x.posted.any (fun w => w.2.1 == peer && overlaps w.2.2.1 w.2.2.2 addr n) ||
    [x.gload, x.snapLoad].any (fun g => match g with
      | some g => !g.back && g.peer == peer && overlaps g.addr g.size addr n
      | none => false)

/-- The bytes of a die's memory that a queue entry has still to read. -/
def QEntry.unread (e : QEntry) : Option (Nat × Nat × Nat) :=
  match e.src with
  | .later p a t _ _ => some (p, a, sizeOf_ t)
  | .global p a t (some _) => some (p, a, sizeOf_ t)
  | _ => none

/-- The same for the issuing stream, whose queue loads may not have been performed yet (R127). -/
def State.clash (s : State) (l : Loc) (n : Nat) : Bool :=
  s.prior.clash l n || (match l.spot with
    | some (peer, addr) => !s.iss.exe && s.myCtx.queues.any (fun q => q.2.entries.any (fun e =>
        match e.unread with | some (p, a, k) => p == peer && overlaps a k addr n | none => false))
    | none => false)

/-- The scratchpad byte that a queue entry still reads, looked up as the buffer table stands (R122). -/
def QEntry.spot (t : Tile) (e : QEntry) : Option Nat :=
  match e.src with
  | .scratch ea _ => (match t.resolve ea.toNat with | .ok a => some a | .error _ => none)
  | _ => none

/-- Whether a scratchpad write of the issuing stream overlaps bytes that an earlier queue load of it has still to read
(R275). -/
def State.scratchClash (s : State) (a n : Nat) : Bool :=
  !s.iss.exe && s.myCtx.queues.any (fun q => q.2.entries.any (fun e =>
    match e.src with
    | .scratch _ ty => (match e.spot s.myTile with | some b => overlaps b (sizeOf_ ty) a n | none => false)
    | _ => false))

/-- Whether a stream's earlier stores and atomics have been answered: none is on its way any more, not even one that a trap
has shelved. -/
def Stream.answered_ (x : Stream) : Bool :=
  x.posted.isEmpty && [x.gload, x.snapLoad].all (fun g => match g with | some g => g.op == .load || g.back | none => true)

/-- Whether the stream's earlier stores and atomics have been performed (R139, R141, R279): an atomic whose data was bad
never has been (R126). -/
def State.storesDone (s : State) : Bool :=
  s.prior.answered_ && (match s.prior.gload with | some g => g.op == .load || g.cause == 0 | none => true)

/-- Whether its earlier loads have been: the outstanding one, one that a trap has shelved, and its queue loads (R127, R134). -/
def State.loadsDone (s : State) : Bool :=
  s.prior.gload.isNone && (match s.prior.snapLoad with | some g => g.back | none => true) &&
    (s.iss.exe || s.myCtx.queues.all (fun q => q.2.entries.all (fun e => e.src == .none)))

/-- Wait until earlier accesses have been performed; one that failed, and that the form must wait for, raises its deferred trap
(R126). -/
def State.settled (s : State) (stores loads : Bool) : R Unit :=
  if (!stores || s.storesDone) && (!loads || s.loadsDone) then .ok ()
  else match s.prior.gload with
    | some g => if g.cause != 0 && (loads || g.op != .load) then .error (.deferred g.cause g.ea) else .error (.wait .poll false s)
    | none => .error (.wait .poll false s)

/-! ### Loads and stores (R124 to R127) -/

/-- Start a global load or atomic (R126): local data is fixed now, a remote request goes to its home. -/
def State.startGlobal (s : State) (op : GOp) (t : Nat) (d : BitVec 8) (ea : Word) (l : Loc) (data : Option Nat)
    (cause ordv kind : Nat) : State :=
  let n := sizeOf_ t
  let c := s.myCtx
  let (peer, addr, key) := match l with
    | .mem p _ a k => (p, a, k)
    | .copy p a => (p, a, 0)
    | .window p v o => (p, v * 4096 + o, 0)
  let remote := l.remote s.iss.peer
  let (tag, s) := if remote then
      let (tag, s) := s.request { s.header kind peer 0 with addr := addr, size := n, op := op, ty := t, key := key } none
      (some tag, s)
    else (none, s)
  s.setMe { s.me with gload := some {
    op := op, ty := t, dest := d, bkb := c.bkb, bank := s.me.tmode, ea := ea, size := n, peer := peer, addr := addr,
    vf := c.vf, tag := tag, data := data, cause := cause, ordv := ordv } }

/-- R124 to R126, R129. A load that waits has read no line, so that it counts for no migration (R354). -/
def ldM (f : MemF) (s : State) : R State := do
  let t := f.t1.toNat
  let n := sizeOf_ t
  let ea := s.ea f
  if f.sp then s.bufLive ea
  aligned s ea n
  if f.sp then
    let (a, s) ← s.scratch ea
    let fe := bits f.m 1 0
    if fe != 2 && !(s.myTile.lineInfo (a / 128)).full then .error (.wait (.lines [a / 128]) true s)
    else
      let s ← s.checked (a / 128) ea
      let v := s.myTile.rd a n
      let s := if fe == 1 then s.setMyTile (s.myTile.takeFull (a / 128)) else s
      pure (s.lResult f.d (extT t v))
  else
    let here := s
    let (l, s) ← s.xlate ea .load
    match l with
    | .window peer vf off =>
      -- the launch window (R307, R360): aligned 8-byte loads only
      if n != 8 then trapAt s cPERM_FAULT ea
      else pure (s.startGlobal .load t f.d ea (.mem s.iss.peer 1 0 0) (some (s.windowRead peer vf off).toNat) 0 0 1)
    | _ =>
      if s.clash l n then .error (.wait .poll false here)
      else if l.remote s.iss.peer then pure (s.startGlobal .load t f.d ea l none 0 0 1)
      else
        let bad := s.badLoc s.iss.peer l n
        pure (((s.touchLoc s.iss.peer l).kvRead s.iss.peer ea.toNat bad).startGlobal .load t f.d ea l
          (some (s.readLoc s.iss.peer l n)) bad 0 1)
def execLd (f : MemF) (s : State) : Out := issue (.ld f) s (ldM f s)

/-- Whether the bytes of a global write are held (R389): the stream waits, up to `HOLD_STALL`. -/
def State.unheld (s : State) (l : Loc) (ea : Word) : R Unit :=
  if !l.remote s.iss.peer && s.heldLoc l then .error (.wait (.hold ea) true s) else .ok ()

/-- A posted remote write (R369): remembered until its acknowledgement. -/
def State.post (s : State) (peer addr key : Nat) (bs : List Byte) : State :=
  let (tag, s) := s.request { s.header 0x03 peer 1 with addr := addr, size := bs.length, bytes := bs, key := key } none
  s.setMe { s.me with posted := s.me.posted ++ [(tag, peer, addr, bs.length)] }

/-- R124, R33, R369. -/
def stM (f : MemF) (s : State) : R State := do
  let t := f.t1.toNat
  let n := sizeOf_ t
  let ea := s.ea f
  let bs := leBytes n (lowW t (s.reg f.d))
  if f.sp then s.bufLive ea
  aligned s ea n
  if f.sp then
    let (a, s) ← s.scratch ea
    if s.scratchClash a n then .error (.wait .poll false s)
    else pure (s.setMyTile (s.myTile.wrLine (coreRank s.iss.ctx s.iss.exe) a bs 0 false))
  else
    let (l, s) ← s.xlate ea .store
    match l with
    | .window peer vf off => if n != 8 then trapAt s cPERM_FAULT ea else pure (s.windowWrite peer vf off bs)
    | .mem peer _ addr key =>
      if s.clash l n then .error (.wait .poll false s)
      else if l.remote s.iss.peer then pure (s.post peer addr key bs)
      else do
        s.unheld l ea
        pure (s.writeLoc s.iss.peer l bs false)
    | .copy _ _ =>
      if s.clash l n then .error (.wait .poll false s)
      else do
        s.unheld l ea
        pure (s.writeLoc s.iss.peer l bs false)

def execSt (f : MemF) (s : State) : Out := issue (.st f) s (stM f s)

/-- R127: the entry is reserved at issue; data that is there fills it at once, other data later: the wait for a tile of a
stub (R387) or for an earlier access to the same bytes (R275) is the entry's too. A launch window takes none (R360). -/
def ldqM (f : MemF) (s : State) : R State := do
  let t := f.t1.toNat
  let n := sizeOf_ t
  let q := num f.d
  let ea := s.ea f
  let val := fun (v : Nat) => if q == 5 then (if v == 0 then (0 : Word) else 1) else extT t v
  let full := queueDepth q <= (s.myCtx.queue q).taken
  if f.sp then s.bufLive ea
  aligned s ea n
  if f.sp then
    let (a, s) ← s.scratch ea
    if !(s.myTile.lineInfo (a / 128)).full then s.push q { addr := ea, src := .scratch ea t }
    else
      let (bad, tl) := s.myTile.checkLine (a / 128)
      (s.setMyTile tl).push q { addr := ea, val := val (tl.rd a n), poison := bad }
  else match s.xlate ea .load with
  | .error (.wait _ _ s) => s.push q { addr := ea, src := .touch ea t }
  | .error e => .error e
  | .ok (.window _ _ _, u) => trapAt u cPERM_FAULT ea
  | .ok (l@(.copy peer addr), u) =>
    if full then .error (.wait .poll true s)
    else if u.clash l n then u.push q { addr := ea, src := .later peer addr t 0 true }
    else
      (u.touchLoc u.iss.peer l).push q
        { addr := ea, val := val (u.readLoc u.iss.peer l n), poison := u.badLoc u.iss.peer l n != 0 }
  | .ok (l@(.mem peer _ addr key), u) =>
    if full then .error (.wait .poll true s)
    else if u.clash l n then u.push q { addr := ea, src := .later peer addr t key false }
    else if l.remote u.iss.peer then
      let (tag, u) := u.request { u.header 0x01 peer 0 with
        addr := addr, size := n, ty := t, key := key, args := [q] } none
      u.push q { addr := ea, src := .global peer addr t (some tag) }
    else
      let bad := u.badLoc u.iss.peer l n
      match u.push q { addr := ea, val := val (u.readLoc u.iss.peer l n), poison := bad != 0,
                       src := .global peer addr t none } with
      | .ok u => .ok (u.kvRead u.iss.peer ea.toNat bad)
      | e => e

def execLdq (f : MemF) (s : State) : Out := issue (.ldq f) s (ldqM f s)

/-! ### Vector loads and stores (R128) -/

/-- Address of each active element, in ascending order of element (R128). Without an index its type bit m[3] has no effect: DESIGN
CHOICE, log 118. -/
def vElems (s : State) (f : MemF) (size n : Nat) : List (Nat × Word) :=
  let c := s.myCtx
  let p := c.pred (bits f.m 2 0)
  let vb := (SMap.get 0 c.v (num f.b)).toNat
  let ea := s.ea f
  ((List.range n).filter (fun e => bit p e)).map fun e =>
    let off : Word := if f.b == 0 then BitVec.ofNat 64 e
      else
        let x := vb / 2 ^ (32 * e) % 2 ^ 32
        if bit f.m 3 then sext64 x 32 else BitVec.ofNat 64 x
    (e, ea + off * BitVec.ofNat 64 size)

/-- Checks shared by VLD and VST (R128), and the scratchpad byte of each active element. -/
def vSpots (s : State) (f : MemF) : R (List (Nat × Nat × Word) × State) := do
  let t := f.t1.toNat
  let size := sizeOf_ t
  let sh := s.myCtx.vshape
  let n := vsRows sh * vsCols sh
  legal s (width t == vsWidth sh && (f.b == 0 || n <= 512))
  let es := vElems s f size n
  es.forM (fun e => s.bufLive e.2)
  match es.find? (fun e => e.2.toNat % size != 0) with
  | some e => trapAt s cMISALIGN e.2
  | none =>
    es.foldlM (fun (acc : List (Nat × Nat × Word) × State) e => do
      let (a, s) ← acc.2.scratch e.2
      pure (acc.1 ++ [(e.1, a, e.2)], s)) ([], s)

def dedup (l : List Nat) : List Nat := l.foldl (fun acc x => if acc.contains x then acc else acc ++ [x]) []

def vldM (f : MemF) (s : State) : R State := do
  let size := sizeOf_ f.t1.toNat
  let (es, s) ← vSpots s f
  let lines := dedup (es.map (fun e => e.2.1 / 128))
  if !lines.all (fun n => (s.myTile.lineInfo n).full) then .error (.wait (.lines lines) true s)
  else
    let s ← es.foldlM (fun (s : State) e => s.checked (e.2.1 / 128) e.2.2) s
    let w := 8 * size
    let mask := es.foldl (fun m e => m + (2 ^ w - 1) * 2 ^ (w * e.1)) 0
    let val := es.foldl (fun v e => v + s.myTile.rd e.2.1 size * 2 ^ (w * e.1)) 0
    pure (s.pend (.v (num f.d) mask val) none 6)

def execVld (f : MemF) (s : State) : Out := issue (.vld f) s (vldM f s)

/-- R128: a line whose 128 bytes all are written is a full-line write with tag 001; others take partial writes. -/
def vstM (f : MemF) (s : State) : R State := do
  let size := sizeOf_ f.t1.toNat
  let (es, s) ← vSpots s f
  let src := (SMap.get 0 s.myCtx.v (num f.d)).toNat
  let w := 8 * size
  let rank := coreRank s.iss.ctx s.iss.exe
  let byteOf := fun (e : Nat × Nat × Word) => leBytes size (src / 2 ^ (w * e.1))
  let lines := dedup (es.map (fun e => e.2.1 / 128))
  pure (lines.foldl (fun (s : State) n =>
    let mine := es.filter (fun e => e.2.1 / 128 == n)
    let offs := dedup (mine.map (fun e => e.2.1 % 128))
    if offs.length * size == 128 then
      let data := mine.foldl (fun (m : Memory) e => Memory.write m (e.2.1 % 128) size (leNat (byteOf e))) []
      s.setMyTile (s.myTile.wrLine rank (128 * n) (leBytes 128 (Memory.read data 0 128)) 1 false)
    else mine.foldl (fun (s : State) e => s.setMyTile (s.myTile.wrLine rank e.2.1 (byteOf e) 0 false)) s) s)

def execVst (f : MemF) (s : State) : Out := issue (.vst f) s (vstM f s)

/-! ### Atomics (R130 to R133) -/

/-- A scratchpad atomic (R130, R133): its write takes its place among the cycle's writes to the line, and its result the old
value that it finds there. -/
def State.atomHere (s : State) (op : GOp) (t a n : Nat) (d : BitVec 8) : State :=
  let rank := coreRank s.iss.ctx s.iss.exe
  let s := s.setMyTile (s.myTile.wrAtom rank a n op t)
  let c := s.myCtx
  let v := gopOld op t (s.myTile.found a rank n)
  s.setMyCtx { c with inflight := c.inflight ++ [{
    exe := s.iss.exe, w := c.dest s.iss.exe d v, shift := some (true, v), left := 4, peek := some (.old a rank t op) }] }

/-- The three atomic forms (R133, R278, R288). -/
def atomM (f : MemF) (op : GOp) (s : State) : R State := do
  let t := f.t1.toNat
  let n := sizeOf_ t
  let ea := s.ea f
  let ordv := bits f.m 7 6
  if f.sp then s.bufLive ea
  aligned s ea n
  if 2 <= ordv then s.settled true true
  if f.sp then
    let (a, s) ← s.scratch ea
    if s.scratchClash a n then .error (.wait .poll false s)
    else
      let s ← s.checked (a / 128) ea
      pure (s.atomHere op t a n f.d)
  else
    let (l, s) ← s.xlate ea .atomic
    match l with
    | .window _ _ _ => trapAt s cPERM_FAULT ea
    | _ =>
      if s.clash l n then .error (.wait .poll false s)
      -- the die's own dirty bytes go home first, once the tile there is not held (R288, R389)
      else if s.copied s.iss.peer l then .error (.wait (.hold ea) true s)
      else if l.remote s.iss.peer then pure (s.startGlobal op t f.d ea l none 0 ordv 5)
      else do
        s.unheld l ea
        let old := s.readLoc s.iss.peer l n
        let bad := s.badLoc s.iss.peer l n
        let s' := match gopNew op t old with
          | some v => if bad == 0 then s.writeLoc s.iss.peer l (leBytes n v) false else s
          | none => s
        pure ((s'.kvRead s.iss.peer ea.toNat bad).startGlobal op t f.d ea l (some old) bad ordv 5)

def execAtom (f : MemF) (s : State) : Out := issue (.atom f) s (atomM f (.atom (bits f.m 3 0) (s.reg f.b)) s)
def execCas (f : MemF) (s : State) : Out := issue (.cas f) s (atomM f (.cas (s.reg f.d) (s.reg f.b)) s)
def execAtomf (f : MemF) (s : State) : Out := issue (.atomf f) s (atomM f (.atomf (bits f.m 3 0) (s.reg f.b)) s)

/-- R134: kind all 00, st 01, ld 10. -/
def execFence (f : ImmF) (s : State) : Out :=
  let k := bits f.m 3 2
  issue (.fence f) s (do
    s.settled (k != 2 || (match s.me.gload with | some g => g.op != .load | none => false)) (k != 1)
    pure s)

/-! ### Sync objects (R135 to R138) -/

/-- A handle's object and home, or its trap (R135, R452). -/
def handle (s : State) (h : Word) : R (Nat × Nat) := do
  if bits h 63 23 != 0 then trap s cSYNC_FAULT
  else do
    legal s (bits h 22 14 < s.peers)
    pure (bits h 13 0, bits h 22 14)

/-- Whether a partition may use an object of an owner (R135): it is the owner, or, on another die, a partition of the
owner's realm (R291, R368, log 107). -/
def Cfg.syncUser (c : Cfg) (owner : Nat × Nat) (p q : Nat) : Bool :=
  owner == (p, q) || (owner.1 != p && c.realmOf owner.1 owner.2 == c.realmOf p q)

/-- The object of a handle, if the issuing partition may use it (R135). An object without an owner is refused to nobody: DESIGN
CHOICE, log 116. -/
def State.syncObj (s : State) (home obj : Nat) : R SyncObj :=
  let o : SyncObj := SMap.get {} (s.die home).sync obj
  match o.owner with
  | some w => if s.cfg.syncUser w s.iss.peer s.myCtx.part then .ok o else trap s cPERM_FAULT
  | none => .ok o

def State.setSync (s : State) (home obj : Nat) (o : SyncObj) : State :=
  s.modDie home fun d => { d with sync := SMap.set {} d.sync obj o }

/-- R136. -/
def execBind (f : RegF) (s : State) : Out :=
  issue (.bind f) s (do
    let (obj, home) ← handle s (s.reg f.a)
    let o ← s.syncObj home obj
    let b := (s.reg f.b).toNat
    let e := (s.reg f.e).toNat
    let vf := s.myCtx.vf
    let clash := (s.die home).sync.any (fun x => x.2.regions.any (fun r => overlaps r.2.1 r.2.2 b e))
    if b % 128 == 0 && e % 128 == 0 && 128 <= e && e <= 2 ^ 40 && !clash && o.regions.length < 4 && o.holders.isEmpty
    then pure (s.setSync home obj { o with
      owner := some (o.owner.getD (s.iss.peer, s.myCtx.part)), regions := o.regions ++ [(vf, b, e)] })
    else trap s cSYNC_FAULT)

/-- R136: the last region gone frees the object (R135). -/
def execUnbind (f : RegF) (s : State) : Out :=
  issue (.unbind f) s (do
    let (obj, home) ← handle s (s.reg f.a)
    let o ← s.syncObj home obj
    let b := (s.reg f.b).toNat
    let rest := o.regions.filter (fun r => r.2.1 != b)
    if rest.length == o.regions.length || !o.holders.isEmpty then trap s cSYNC_FAULT
    else pure (s.setSync home obj (if rest.isEmpty then ({} : SyncObj) else { o with regions := rest })))

/-- The issuing context as a holder. -/
def State.asHolder (s : State) (shared : Bool) : Holder := ⟨s.iss.peer, s.iss.tile, s.iss.ctx, shared⟩
def SyncObj.heldBy (o : SyncObj) (p t c : Nat) : Bool := o.holders.any (fun h => h.peer == p && h.tile == t && h.ctx == c)

/-- R137: the request is made once; the stream goes on when it has been granted. -/
def execAcq (f : ImmF) (s : State) : Out :=
  issue (.acq f) s (do
    let (obj, home) ← handle s (s.reg f.a)
    let o ← s.syncObj home obj
    let shared := bit f.m 0
    let k := WaitKind.sync home obj shared
    if s.me.granted k then pure s
    else if (match s.me.wait with | some w => w.kind == k | none => false) then .error (.wait k true s)
    else ask o obj home shared k)
where
  /-- Ask the home die for the object. -/
  ask (o : SyncObj) (obj home : Nat) (shared : Bool) (k : WaitKind) : R State :=
    if o.heldBy s.iss.peer s.iss.tile s.iss.ctx then trap s cSYNC_FAULT
    else if home == s.iss.peer then
      .error (.wait k true (s.setSync home obj { o with queue := o.queue ++ [s.asHolder shared] }))
    else .error (.wait k true (s.send { s.header 0x10 home 0 with args := [obj, b2n shared] }))

/-- Write back every dirty copy of the die, and drop the copies when asked (R288): an eviction may do so at any time. -/
def State.flushCopies (s : State) (p : Nat) (drop : Bool) : State :=
  (s.die p).copies.foldl (fun s e => s.flushCopy p e.1 drop) s

/-- Whether a dirty copy of the die lies in a frame that is held: it is not written back before the hold ends (R286, R389). -/
def State.flushHeld (s : State) (p : Nat) : Bool :=
  (s.die p).copies.any (fun e => e.2.dirty != 0 && s.heldLoc (.copy (e.1 / 2 ^ 34) (e.1 % 2 ^ 34 * 128)))

/-- R138: the stores and atomics of both streams of the context are performed first. -/
def execRel (f : ImmF) (s : State) : Out :=
  issue (.rel f) s (do
    let (obj, home) ← handle s (s.reg f.a)
    let o ← s.syncObj home obj
    if !o.heldBy s.iss.peer s.iss.tile s.iss.ctx then trap s cSYNC_FAULT
    else do
      s.settled true true
      if !(s.myCtx.stream (!s.iss.exe)).answered_ || s.flushHeld s.iss.peer then .error (.wait .poll false s)
      let s := s.flushCopies s.iss.peer false
      pure (s.setSync home obj { o with holders := o.holders.filter (fun h =>
        !(h.peer == s.iss.peer && h.tile == s.iss.tile && h.ctx == s.iss.ctx)) }))

/-! ### Versioned buffers and counters (R139 to R141) -/

def Tile.buffer (t : Tile) (n : Nat) : Buffer := SMap.get {} t.bufs n
/-- Whether a buffer's two copies overlap (R29). -/
def Buffer.overlap (b : Buffer) : Bool :=
  overlaps b.cur.toNat (b.lenM1.toNat + 1) b.shd.toNat (b.lenM1.toNat + 1)

/-- Whether an engine command of the tile that has not retired may write a buffer's shadow copy (R139). -/
def Tile.shadowBusy (t : Tile) (b : Buffer) : Bool :=
  t.cmds.any (fun c => meet (c.wrLines t) [(b.shd.toNat, b.shd.toNat + b.lenM1.toNat)])

/-- R139, R29. -/
def execPublish (f : ImmF) (s : State) : Out :=
  let n := f.imm.toNat
  let b := s.myTile.buffer n
  issue (.publish f) s (do
    legal s (b.valid && !b.overlap)
    s.settled true true
    if s.myTile.shadowBusy b then .error (.wait (.publish n) false s)
    else if s.myTile.usedBufs.contains n then .error (.wait .poll false s)
    else
      let t := s.myTile
      let b' : Buffer := { b with cur := b.shd, shd := b.cur, version := b.version + 1 }
      -- a waiting read through the buffer is looked up again (R122)
      pure (s.setMyTile ({ t with bufs := SMap.set {} t.bufs n b' } : Tile).remap))

/-- R140. -/
def execWaitv (f : ImmF) (s : State) : Out :=
  let n := f.imm.toNat
  let b := s.myTile.buffer n
  let v : BitVec 32 := (s.reg f.a).setWidth 32
  issue (.waitv f) s (do
    legal s b.valid
    if (b.version - v).msb then .error (.wait (.version n v) true s) else pure s)

def Tile.counter (t : Tile) (n : Nat) : Counter := SMap.get {} t.ctrs n
def Tile.setCounter (t : Tile) (n : Nat) (c : Counter) : Tile := { t with ctrs := SMap.set {} t.ctrs n c }

/-- R141. -/
def execCinc (f : ImmF) (s : State) : Out :=
  let n := num f.d
  let c := s.myTile.counter n
  issue (.cinc f) s (do
    if !bit c.rights s.iss.ctx then trap s cPERM_FAULT
    else do
      s.settled true true
      pure (s.setMyTile (s.myTile.setCounter n { c with val := c.val + BitVec.ofNat 32 f.imm.toNat })))

/-! ### Line metadata (R142) -/

def execLnset (f : MemF) (s : State) : Out :=
  issue (.lnset f) s (do
    let (a, s) ← s.scratch (s.ea f)
    pure (s.setMyTile (s.myTile.setFull (a / 128) true)))
def execLnclr (f : MemF) (s : State) : Out :=
  issue (.lnclr f) s (do
    let (a, s) ← s.scratch (s.ea f)
    pure (s.setMyTile (s.myTile.setFull (a / 128) false)))

/-- What LNPEEK reads (R142). -/
def Tile.peekWord (t : Tile) (n : Nat) : Word :=
  let i := t.lineNow n
  BitVec.ofNat 64 (t.lineCrc n * 2 ^ 32 + b2n i.poison * 2 ^ 4 + i.tag.toNat * 2 + b2n i.full)

/-- The value of a register write, replaced. -/
def Write.withVal (w : Write) (v : Word) : Write :=
  match w with
  | .x r _ => .x r v
  | .k r b _ => .k r b v
  | w => w

/-- What a result takes from the end of its tile cycle (R130, R142). -/
def Tile.peeked (t : Tile) (k : Peek) : Word :=
  match k with
  | .line n => t.peekWord n
  | .old a rank ty op => gopOld op ty (t.found a rank (sizeOf_ ty))

/-- R142: the result takes the metadata as it stands after the cycle's changes. -/
def execLnpeek (f : MemF) (s : State) : Out :=
  issue (.lnpeek f) s (do
    let (a, s) ← s.scratch (s.ea f)
    let c := s.myCtx
    pure (s.setMyCtx { c with inflight := c.inflight ++ [{
      exe := s.iss.exe, w := c.dest s.iss.exe f.d 0, shift := some (true, 0), left := 4, peek := some (.line (a / 128)) }] }))

end Sys2Proof.Machine
end

