-- ==== Sys2Proof/Machine/Sequence.lean ====
section
/-! DEFINITION. The sequence manager (R239 to R244, R329 to R344): slots, slabs, quotas and claims, the commands of
`SMCMD`, the `SEQ` forms, demotion and pre-emption. -/

namespace Sys2Proof.Machine

/-! ### Slabs and room (R335, R339, R340) -/

/-- The KV arena of a VF in a tier (R445): first byte and length. -/
def Cfg.kvArena (c : Cfg) (p vf tier : Nat) : Nat × Nat :=
  let dflt : Nat × Nat :=
    if tier == 0 then c.srangeOf p vf
    else let (lo, n) := c.rangeOf p vf; (lo + n / 2, n - n / 2)
  let (lo, n) := SMap.get dflt c.kv ((p * 24 + vf) * 2 + tier)
  (lo * 4096, n * 4096)

def Slab.bytes (b : Slab) : Nat := 2 ^ b.lsize * b.stride
/-- Pages of 64 KiB that a number of bytes occupies. -/
def kvPages (n : Nat) : Nat := (n + 65535) / 65536

/-- The slot of a number. -/
def Die.slot (d : Die) (n : Nat) : Slot := SMap.get {} d.slots n
def Die.setSlot (d : Die) (n : Nat) (x : Slot) : Die := { d with slots := SMap.set {} d.slots n x }

/-- The runs in use in a tier, as VF, first byte and length: slabs, and the new slabs of moves. -/
def Die.runs (d : Die) (tier : Nat) : List (Nat × Nat × Nat) :=
  (d.slots.flatMap (fun s => s.2.slabs.filterMap (fun b => match b.2.place with
    | some (t, a) => if t == tier then some (b.2.vf, a, b.2.bytes) else none
    | none => none))) ++
  (d.fwd.filterMap (fun f =>
    if f.2.busy && f.2.tier == tier then
      match (d.slot f.2.slot).slabs.find f.2.slab with
      | some b => some (b.vf, f.2.new, 2 * b.bytes)
      | none => none
    else none))

/-- Pages that a VF holds in a tier. -/
def Die.inuse (d : Die) (tier vf : Nat) : Nat := ((d.runs tier).filterMap (fun r => if r.1 == vf then some (kvPages r.2.2) else none)).sum
def Die.guar (d : Die) (tier vf : Nat) : Nat := bits (SMap.get (0 : Word) d.kvq (vf * 2 + tier)) 23 0
def Die.borrow (d : Die) (tier vf : Nat) : Nat := bits (SMap.get (0 : Word) d.kvq (vf * 2 + tier)) 47 24
def Die.slotLimit (d : Die) (vf : Nat) : Nat := bits (SMap.get (0 : Word) d.kvq (vf * 2)) 59 48

/-- Pages of a tier's KV arenas, and those that no slab holds. -/
def arenaPages (c : Cfg) (p tier : Nat) : Nat := ((List.range 24).map (fun v => (c.kvArena p v tier).2 / 65536)).sum
def Die.freePages (d : Die) (c : Cfg) (p tier : Nat) : Nat :=
  arenaPages c p tier - ((List.range 24).map (d.inuse tier)).sum

/-- A driver write of `KVQ0` or `KVQ1`, ignored when the guarantees would exceed the tier's arena, which in
tier 0 is at most 12,288 pages (R339). -/
def Die.setQuota (d : Die) (c : Cfg) (p tier v : Nat) (w : Word) : Die :=
  let q := { d with kvq := SMap.set 0 d.kvq (v * 2 + tier) w }
  let room := if tier == 0 then min (arenaPages c p 0) 12288 else arenaPages c p tier
  if room < ((List.range 24).map (q.guar tier)).sum then d else q

def Die.claimsOf (d : Die) (tier : Nat) : List PageClaim := SMap.get [] d.claims tier
/-- Pages that an asker may take: returned pages go first to the waiting claims (R341). -/
def Die.roomFor (d : Die) (c : Cfg) (p tier asker : Nat) : Nat :=
  d.freePages c p tier - (((d.claimsOf tier).takeWhile (fun k => k.asker != asker)).map (·.pages)).sum

/-- The sequence manager itself as an asker: it never has a claim (R341, R342). -/
def managerAsker : Nat := 2 ^ 60

/-- What a demand for pages comes to (R340, R341). -/
inductive Demand where
  | ok | beyond | few | wait
  deriving DecidableEq, Repr

def Die.demand (d : Die) (c : Cfg) (p tier vf pages asker : Nat) (all : Nat := pages) : Demand :=
  let u := d.inuse tier vf + pages
  if d.guar tier vf + d.borrow tier vf < u then .beyond
  else if all <= d.roomFor c p tier asker then .ok
  else if d.guar tier vf < u then .few
  else .wait

/-- Join the claims of a tier, unless the asker has joined already. -/
def Die.claim (d : Die) (tier : Nat) (k : PageClaim) : Die :=
  if (d.claimsOf tier).any (·.asker == k.asker) then d
  else { d with claims := SMap.set [] d.claims tier (d.claimsOf tier ++ [k]) }
def Die.unclaim (d : Die) (tier asker : Nat) : Die :=
  { d with claims := SMap.set [] d.claims tier ((d.claimsOf tier).filter (·.asker != asker)) }

/-- The VF with the most borrowed pages in a tier, the lower number among equals (R341). -/
def Die.lender (d : Die) (tier : Nat) : Option Nat :=
  let b := fun v => d.inuse tier v - d.guar tier v
  (List.range 24).foldl (fun o v => match o with
    | none => if b v != 0 then some v else none
    | some w => if b w < b v then some v else some w) none

/-- Open the first claim of a tier: its lender is told (R341). -/
def State.openClaim (s : State) (p tier : Nat) : State :=
  match (s.die p).claimsOf tier with
  | [] => s
  | k :: ks =>
    if k.lender.isSome || k.met then s
    else
      let l := (s.die p).lender tier
      let k := { k with lender := l, since := s.now }
      let s := s.modDie p fun d => { d with claims := SMap.set [] d.claims tier (k :: ks) }
      match l with
      | none => s
      | some v => s.raiseSeq p (s.cfg.partOf p v) cRECLAIM

/-- R341: the open claim is met once the tier has the pages it asks for, and its asker goes on. -/
def execClaimMet (p tier : Nat) (s : State) : Out :=
  let d := s.die p
  event s (match d.claimsOf tier with
    | [] => s
    | k :: ks =>
      if k.met || d.freePages s.cfg p tier < k.pages then s
      else
        let s := s.setDie p { d with claims := SMap.set [] d.claims tier ({ k with met := true } :: ks) }
        if 2 ^ 20 <= k.asker then s
        else
          let t := k.asker / 16
          let c := k.asker / 2 % 8
          let exe := k.asker % 2 == 1
          let x := s.stream p t c exe
          s.setStream p t c exe { x with wait := x.wait.map (fun w => { w with ready := true }) })

/-! ### Zeroing and freeing -/

/-- Zero a slab's pages and their metadata. -/
def Die.scrub (d : Die) (tier a n : Nat) : Die :=
  let keep := fun (e : Nat × DramMeta) => e.1 < a / 128 || (a + n + 127) / 128 <= e.1
  if tier == 0 then { d with sram := d.sram.zero a n, smeta := d.smeta.filter keep }
  else { d with dram := d.dram.zero a n, dmeta := d.dmeta.filter keep }

/-- The area where a VF's block of swap is kept in `swap`. -/
def swapByte (vf block : Nat) : Nat := vf * 2 ^ 50 + block * 4096

/-- The move of a slab that runs, as the number of its pair and the pair (R338). -/
def Die.moveOf (d : Die) (n idx : Nat) : Option (Nat × Fwd) := d.fwd.find? (fun f => f.2.busy && f.2.slot == n && f.2.slab == idx)

/-- Free a slab's room: its pages are zeroed, also those that a move of it has begun to fill, whose pair falls free; swap blocks
fall free with it. -/
def Die.freeSlab (d : Die) (n idx : Nat) : Die :=
  let x := d.slot n
  match x.slabs.find idx with
  | none => d
  | some b =>
    let d := match b.place with
      | some (t, a) => d.scrub t a b.bytes
      | none => d
    let d := match d.moveOf n idx with
      | some (k, f) => { d.scrub f.tier f.new (2 * b.bytes) with fwd := d.fwd.erase k }
      | none => d
    d.setSlot n { x with slabs := x.slabs.erase idx }

/-- Free a slot with every slab (R331). -/
def Die.freeSlot (d : Die) (n : Nat) : Die :=
  let d := ((d.slot n).slabs.map (·.1)).foldl (fun d i => d.freeSlab n i) d
  { d with slots := d.slots.erase n, swaps := d.swaps.filter (·.slot != n) }

/-- Whether a frame of a run is held (R383). -/
def Die.runHeld (d : Die) (t a n : Nat) : Bool :=
  let f := if t == 0 then 2 ^ 29 else 0
  d.holdCnt.any (fun e => f + a / 4096 <= e.1 && e.1 < f + (a + n + 4095) / 4096 && e.2 != 0)
/-- Whether a slab has a held tile (R384), or is moving (R219). -/
def Die.slabHeld (d : Die) (b : Slab) : Bool :=
  match b.place with
  | none => false
  | some (t, a) => d.runHeld t a b.bytes
/-- The same for a slab that may be moving, whose new run counts too. -/
def Die.slabBusy (d : Die) (n idx : Nat) (b : Slab) : Bool :=
  d.slabHeld b || (match d.moveOf n idx with | some (_, f) => d.runHeld f.tier f.new (2 * b.bytes) | none => false)
def Die.slabMoves (d : Die) (n idx : Nat) : Bool := d.fwd.any (fun f => f.2.busy && f.2.slot == n && f.2.slab == idx)

/-! ### The manager's order, and its storage (R226, R332, R346) -/

/-- The issuing stream as an asker (R341). -/
def State.asker (s : State) : Nat := s.iss.tile * 16 + s.iss.ctx * 2 + b2n s.iss.exe

/-- The issuing stream goes to the sequence manager: it waits behind those that came before it, but for a form that had to wait
for pages (R332). -/
def State.smTurn (s : State) : R State :=
  let q := s.myDie.smq
  if s.me.granted (.pages 0) || s.me.granted (.pages 1) then pure (s.setMyDie { s.myDie with smq := q.filter (· != s.asker) })
  else if q.all (· == s.asker) || q.head? == some s.asker then pure (s.setMyDie { s.myDie with smq := q.filter (· != s.asker) })
  else .error (.wait .manager false (s.setMyDie { s.myDie with smq := if q.contains s.asker then q else q ++ [s.asker] }))
/-- A form that has come to its turn and cannot be performed yet: the others wait behind it (R332, R389). -/
def State.smHold (s : State) : R State :=
  .error (.wait .manager false (s.setMyDie { s.myDie with smq := s.asker :: s.myDie.smq }))

/-- The partition of the package that owns a queue pair, and its depth (R345). -/
def Cfg.pairOwner (c : Cfg) (p qp : Nat) : Nat := SMap.get 0 c.qpOwner (p / 8 * 64 + qp)
def Cfg.pairDepth (c : Cfg) (p qp : Nat) : Nat := SMap.get 64 c.qpDepth (p / 8 * 64 + qp)
/-- A pair is usable once the package has enumerated its controller (R441). -/
def State.pairReady (s : State) (p : Nat) : Bool := 6 <= (SMap.get ({} : Boot) s.boots (p / 8)).phase

/-- How far a command has come, and what it keeps: `aux` from its second place on. -/
def Cmd.step (c : Cmd) : Nat := c.aux.getD 1 0
def Cmd.arg (c : Cmd) (n : Nat) : Nat := c.aux.getD (n + 2) 0
/-- The queue pair of a storage command's operand a, and whether it is one. -/
def nvPair (a : Word) : Nat := bits a 53 48
def Cmd.storage (c : Cmd) : Bool := match c.i with | .nvrd _ => true | .nvwr _ => true | _ => false

/-- The queue pair of a VF's swap area (R344). -/
def Die.swapPair (d : Die) (vf : Nat) : Nat := bits (SMap.get (0 : Word) d.swb vf) 53 48
/-- The queue pair of a transfer (R346). -/
def Die.pairOf (d : Die) (w : Swap) : Nat := d.swapPair (((d.slot w.slot).slabs.find w.slab).map (·.vf) |>.getD (d.slot w.slot).vf)
/-- The manager's transfers in the order of a package's commands: the tile number that no tile has. -/
def managerTile : Nat := 32

/-- Commands of a package that are outstanding on a queue pair, transfers of the manager among them (R346). -/
def State.outstanding (s : State) (p qp : Nat) : Nat :=
  ((s.dies.filter (fun d => d.1 / 8 == p / 8)).map (fun d => (d.2.tiles.map (fun t => (t.2.cmds.filter (fun c =>
    c.st == .running && c.step == 1 && nvPair c.va == qp && c.storage)).length)).sum +
    (d.2.swaps.filter (fun w => w.since.isSome && !w.ok && d.2.pairOf w == qp)).length)).sum

/-- The commands of a queue pair that have not been submitted yet, in order of issue (R226, R346). -/
def State.unsubmitted (s : State) (p qp : Nat) : List (Nat × Nat × Nat × Nat) :=
  s.nvOrder.filter fun e => e.1 == p / 8 * 64 + qp &&
    (if e.2.2.1 == managerTile then (s.die e.2.1).swaps.any (fun w => w.id == e.2.2.2 && w.since.isNone)
     else (s.tile e.2.1 e.2.2.1).cmds.any (fun c => c.seq == e.2.2.2 && c.st != .finished && c.step == 0))

/-- Whether a queue pair has no room for a command now (R226). -/
def State.pairFull (s : State) (p qp : Nat) : Bool := s.cfg.pairDepth p qp <= s.outstanding p qp

/-- A transfer for each slab of a slot that is listed, behind the commands that wait for the pair (R346). -/
def State.askSwap (s : State) (p n : Nat) (out : Bool) (slabs : List Nat) : State :=
  slabs.foldl (fun s i =>
    let d := s.die p
    let w : Swap := { id := d.nextTag, slot := n, slab := i, out := out }
    { s.setDie p { d with nextTag := d.nextTag + 1, swaps := d.swaps ++ [w] } with
      nvOrder := s.nvOrder ++ [(p / 8 * 64 + d.pairOf w, p, managerTile, w.id)] }) s
/-- Submit the transfers whose turn has come (R346). -/
def State.submitSwaps (s : State) (p : Nat) : State :=
  (s.die p).swaps.foldl (fun s w =>
    let q := (s.die p).pairOf w
    if w.since.isSome || s.pairFull p q || (s.unsubmitted p q).head? != some (p / 8 * 64 + q, p, managerTile, w.id) then s
    else s.modDie p fun d => { d with swaps := d.swaps.map (fun x => if x.id == w.id then { x with since := some s.now } else x) }) s
/-- Whether every transfer that a change of a slot needs has been made; and the state in which they are asked for. -/
def Die.swapped (d : Die) (n : Nat) (slabs : List Nat) : Bool :=
  slabs.all (fun i => d.swaps.any (fun w => w.slot == n && w.slab == i && w.ok))
def Die.endSwaps (d : Die) (n : Nat) : Die := { d with swaps := d.swaps.filter (fun w => !(w.slot == n && w.ok)) }
/-- A completion of a transfer: one that fails aborts its slot (R412). -/
def State.swapDone (s : State) (p id status : Nat) : State :=
  match (s.die p).swaps.find? (fun w => w.id == id && w.since.isSome && !w.ok) with
  | none => s
  | some w =>
    if status != 0 then (s.abortSlot p w.slot).modDie p fun d => { d with swaps := d.swaps.filter (·.slot != w.slot) }
    else s.modDie p fun d =>
      -- one whose slab has left already leaves nothing to be done (R343)
      let gone := match ((d.slot w.slot).slabs.find w.slab).map (·.demoted) with | some (some (false, _)) => w.out | some _ => !w.out | none => true
      { d with swaps := if gone then d.swaps.filter (·.id != id) else d.swaps.map (fun x => if x.id == id then { x with ok := true } else x) }

/-! ### The commands of SMCMD (R330, R331) -/

/-- The rule of an index is valid (R333). -/
def Die.ruleOk (d : Die) (n : Nat) : Bool := bit (SMap.get (0 : Word) d.rules n) 63

/-- The result word: status and slot. -/
def smRes (status slot : Nat) : Word := BitVec.ofNat 64 (status * 2 ^ 56 + slot)
/-- End a command with its result, which the stream's next bundle sees. -/
def State.smEnd (s : State) (status slot : Nat) : R State := .ok (s.setMyCtx { s.myCtx with smres := smRes status slot })

/-- The lowest free slot. -/
def Die.lowestFree (d : Die) : Option Nat := (List.range 4096).find? (fun n => (d.slot n).state == 0)

def smAlloc (w : Word) (s : State) : R State :=
  let d := s.myDie
  let vf := s.myCtx.vf
  let rule := bits w 29 24
  if !d.ruleOk rule then s.smEnd 3 0
  else match d.lowestFree with
  | none => s.smEnd 1 0
  | some n =>
    if d.slotLimit vf <= (d.slots.filter (fun e => e.2.state != 0 && e.2.vf == vf)).length then s.smEnd 1 0
    else
      let x : Slot := { state := 1, vf := vf, prio := bits w 31 30, rule := rule, age := d.slotAge,
                        pending := BitVec.ofNat 32 (bits s.myCtx.smarg 31 0) }
      (s.setMyDie { d.setSlot n x with slotAge := d.slotAge + 1 }).smEnd 0 n

/-- A slot that a command may name: one of the partition's, in one of the states allowed. -/
def State.smSlot (s : State) (w : Word) (allowed : List Nat) : Option (Nat × Slot) :=
  let n := bits w 15 4
  let x := s.myDie.slot n
  if s.cfg.partOf s.iss.peer x.vf == s.myCtx.part && allowed.contains x.state then some (n, x) else none

def smFree (w : Word) (s : State) : R State :=
  match s.smSlot w [1, 5, 6] with
  | none => s.smEnd 2 0
  | some (n, x) =>
    let d := s.myDie
    if x.slabs.any (fun b => d.slabMoves n b.1) then s.smEnd 4 0
    else if x.slabs.any (fun b => d.slabHeld b.2) || d.swaps.any (·.slot == n) then s.smHold
    else (s.setMyDie (d.freeSlot n)).smEnd 0 0

def smRule (w : Word) (s : State) : R State :=
  match s.smSlot w [1] with
  | none => s.smEnd 2 0
  | some (n, x) =>
    if !s.myDie.ruleOk (bits w 29 24) then s.smEnd 3 0
    else (s.setMyDie (s.myDie.setSlot n { x with rule := bits w 29 24, prio := bits w 31 30 })).smEnd 0 0

/-- The new slab that a command asks for. -/
def State.smSlab (s : State) (w : Word) (vf : Nat) : Slab :=
  let a := s.myCtx.smarg
  { tier := bits w 33 32, base := (s.cfg.kvArena s.iss.peer vf (bits w 33 32)).1 + bits a 46 12 * 4096,
    lsize := bits w 38 34, stride := (bits a 11 0 + 1) * 16, vf := vf }

/-- Whether a run of a VF's arena is free (R335). -/
def Die.runFree (d : Die) (c : Cfg) (p vf tier a n : Nat) : Bool :=
  let (lo, len) := c.kvArena p vf tier
  lo <= a && a + n <= lo + len && !(d.runs tier).any (fun r => overlaps r.2.1 r.2.2 a n)

def smSlabnew (w : Word) (s : State) : R State :=
  match s.smSlot w [1, 6] with
  | none => s.smEnd 2 0
  | some (n, x) =>
    let d := s.myDie
    let p := s.iss.peer
    let vf := s.myCtx.vf
    let b := s.smSlab w vf
    let idx := bits w 23 16
    if bits s.myCtx.smarg 63 47 != 0 || 20 < b.lsize || 2 ^ 29 < b.bytes || (x.slabs.find idx).isSome ||
        !d.runFree s.cfg p vf b.tier b.base b.bytes then s.smEnd 3 0
    else match d.demand s.cfg p b.tier vf (kvPages b.bytes) s.asker with
    | .beyond => s.smEnd 5 0
    | .few => s.smEnd 6 0
    | .wait =>
      let k : PageClaim := { vf := vf, pages := kvPages b.bytes, since := s.now, asker := s.asker }
      .error (.wait (.pages b.tier) false ((s.setMyDie (d.claim b.tier k)).openClaim p b.tier))
    | .ok =>
      let d := (d.unclaim b.tier s.asker).scrub b.tier b.base b.bytes
      ((s.setMyDie (d.setSlot n { x with slabs := x.slabs.put idx b })).openClaim p b.tier).smEnd 0 0

def smSlabfree (w : Word) (s : State) : R State :=
  match s.smSlot w [1, 6] with
  | none => s.smEnd 2 0
  | some (n, x) =>
    let d := s.myDie
    let idx := bits w 23 16
    match x.slabs.find idx with
    | none => s.smEnd 3 0
    | some b =>
      if d.slabMoves n idx then s.smEnd 4 0
      else if d.slabHeld b then s.smHold
      else (s.setMyDie (d.freeSlab n idx)).smEnd 0 0

/-- A command that a `SETC` writes to SMCMD: ILLOP for a reserved bit, an illegal op or an illegal tier (R330). -/
def smM (w : Word) (s : State) : R State := do
  legal s (bits w 63 39 == 0 && bits w 3 0 <= 4 && bits w 33 32 <= 1)
  let s ← s.smTurn
  match bits w 3 0 with
  | 0 => smAlloc w s
  | 1 => smFree w s
  | 2 => smRule w s
  | 3 => smSlabnew w s
  | _ => smSlabfree w s

/-- A command as the step that performs it: the write that a `SETC` of the issuing stream makes. -/
def smEvent (op : Nat) (w : Word) (s : State) : Out :=
  if !s.powered then .fault .unpowered
  else if bits w 3 0 == op then finish s (smM w s) else .next s

def execAlloc (w : BitVec 64) (s : State) : Out := smEvent 0 w s
def execFree (w : BitVec 64) (s : State) : Out := smEvent 1 w s
def execRule (w : BitVec 64) (s : State) : Out := smEvent 2 w s
def execSlabnew (w : BitVec 64) (s : State) : Out := smEvent 3 w s
def execSlabfree (w : BitVec 64) (s : State) : Out := smEvent 4 w s

/-! ### Moving slabs between tiers (R342, R343) -/

/-- The lowest 4 KiB-aligned run of a VF's arena in a tier that is large enough and free. -/
def Die.findRun (d : Die) (c : Cfg) (p vf tier n : Nat) : Option Nat :=
  let ends := (d.runs tier).map (fun r => (r.2.1 + r.2.2 + 4095) / 4096 * 4096)
  let cand := (c.kvArena p vf tier).1 :: ends
  (cand.filter (fun a => d.runFree c p vf tier a n)).foldl
    (fun o a => match o with | none => some a | some b => some (min a b)) none

/-- The lowest run of free blocks of a VF's swap area (R344). -/
def Die.findBlocks (d : Die) (vf n : Nat) : Option Nat :=
  let area := bits (SMap.get (0 : Word) d.swn vf) 31 0
  let used := d.slots.flatMap (fun s => s.2.slabs.filterMap (fun b => match b.2.demoted with
    | some (false, x) => if b.2.vf == vf then some (x, (b.2.bytes + 4095) / 4096) else none
    | _ => none))
  let ok := fun a => a + n <= area && !used.any (fun u => overlaps u.1 u.2 a n)
  if bits (SMap.get (0 : Word) d.swb vf) 63 56 == 0 then none
  else ((0 :: used.map (fun u => u.1 + u.2)).filter ok).foldl
    (fun o a => match o with | none => some a | some b => some (min a b)) none

/-- Copy bytes between two places of a die's tiers line by line, with poison and margin marks. -/
def Die.moveBytes (d : Die) (t a t' a' n : Nat) : Die :=
  (List.range ((n + 127) / 128)).foldl (fun d k =>
    let o := 128 * k
    let m := min 128 (n - o)
    d.wr t' (a' + o) (leBytes m (Memory.read (d.bytes t) (a + o) m)) (d.badSpan t (a + o) m != 0)) d

/-- Write a slab's bytes to the swap area, and bring them back. -/
def Die.toSwap (d : Die) (t a vf block n : Nat) : Die :=
  (List.range ((n + 127) / 128)).foldl (fun d k =>
    let o := 128 * k
    let m := min 128 (n - o)
    { d with swap := Memory.write d.swap (swapByte vf block + o) m (Memory.read (d.bytes t) (a + o) m),
             swapBad := SMap.set false d.swapBad ((swapByte vf block + o) / 128) (d.badSpan t (a + o) m != 0) }) d
def Die.fromSwap (d : Die) (vf block t a n : Nat) : Die :=
  (List.range ((n + 127) / 128)).foldl (fun d k =>
    let o := 128 * k
    let m := min 128 (n - o)
    d.wr t (a + o) (leBytes m (Memory.read d.swap (swapByte vf block + o) m))
      (SMap.get false d.swapBad ((swapByte vf block + o) / 128))) d

/-- Demote one slab to tier 1 or to the swap area; none where it has no room. A move of the slab ends with it, and what it has
moved is taken from its new place (log 108). -/
def Die.demote (d : Die) (c : Cfg) (p n idx : Nat) (toSwap : Bool) : Option Die :=
  let x := d.slot n
  match x.slabs.find idx with
  | none => none
  | some b =>
    match b.place with
    | none => some d
    | some (t, a) =>
      let (new, done) := match d.moveOf n idx with | some (_, f) => (f.new, f.boundary * b.stride) | none => (a, 0)
      let put := fun (d : Die) (w : Bool × Nat) =>
        let d := match d.moveOf n idx with
          | some (k, _) => { d.scrub t new (2 * b.bytes) with fwd := d.fwd.erase k }
          | none => d
        (d.scrub t a b.bytes).setSlot n { x with slabs := x.slabs.put idx { b with demoted := some w } }
      if toSwap then
        match d.findBlocks b.vf ((b.bytes + 4095) / 4096) with
        | none => none
        | some k => some (put (((d.toSwap t a b.vf k b.bytes).toSwap t new b.vf k done)) (false, k))
      else if t == 1 then some d
      else if d.demand c p 1 b.vf (kvPages b.bytes) managerAsker != .ok then none
      else match d.findRun c p b.vf 1 b.bytes with
        | none => none
        | some k => some (put ((d.moveBytes t a 1 k b.bytes).moveBytes t new 1 k done) (true, k))

/-- Demote every slab of a slot by one rule; none when one of them has no room. -/
def Die.demoteAll (d : Die) (c : Cfg) (p n : Nat) (toSwap : Bool) : Option Die :=
  ((d.slot n).slabs.map (·.1)).foldl (fun (o : Option Die) i => match o with
    | none => none
    | some d => d.demote c p n i toSwap) (some d)

/-- Bring one demoted slab back to its tier; none where no run is free. -/
def Die.promote (d : Die) (c : Cfg) (p n idx : Nat) : Option Die :=
  let x := d.slot n
  match x.slabs.find idx with
  | none => none
  | some b => match b.demoted with
    | none => some d
    | some w => match d.findRun c p b.vf b.tier b.bytes with
      | none => none
      | some a =>
        let d' := if w.1 then (d.moveBytes 1 w.2 b.tier a b.bytes).scrub 1 w.2 b.bytes
          else d.fromSwap b.vf w.2 b.tier a b.bytes
        some (d'.setSlot n { x with slabs := x.slabs.put idx { b with base := a, demoted := none } })

/-- The sequence manager's own pre-emption of a slot (R343): tier-0 slabs to tier 1, else to the swap area; tier-1 slabs
to the swap area; aborted where neither has room; `swap` says whether the VF's queue pair is usable (R346). -/
def Die.preempt (d : Die) (c : Cfg) (p n : Nat) (swap : Bool) : Die :=
  let away := fun (d : Die) (i : Nat) => if swap then d.demote c p n i true else none
  let r := ((d.slot n).slabs).foldl (fun (o : Option Die) e => match o with
    | none => none
    | some d =>
      if e.2.tier == 0 then (match d.demote c p n e.1 false with
        | some d => some d
        | none => away d e.1)
      else away d e.1) (some d)
  match r with
  | some d =>
    let x := d.slot n
    d.setSlot n { x with state := 5, nodes := [], checks := [], path := [], doomed := false }
  | none =>
    let d := ((d.slot n).slabs.map (·.1)).foldl (fun d i => d.freeSlab n i) d
    let x := d.slot n
    { d.setSlot n { x with state := 6, nodes := [], checks := [], path := [], doomed := false } with chrq := bump d.chrq }

/-- Whether an operator or hook of a VF runs on the die (R343). -/
def Die.vfRuns (d : Die) (vf : Nat) : Bool := d.ops.any (fun o => o.2.live && o.2.vf == vf)

/-- The slabs of a slot that a change takes to the swap area. -/
def Die.goneOut (d e : Die) (n : Nat) : List Nat :=
  ((e.slot n).slabs.filter (fun b => (match b.2.demoted with | some (false, _) => true | _ => false) &&
    (match (d.slot n).slabs.find b.1 with | some c => c.place.isSome | none => false))).map (·.1)

/-- Make the manager's own pre-emption, once the transfers that it needs have been made; `now` where it waits for none of them
(R343, R346). A slab with a held tile keeps it waiting (R286, R389, log 121). -/
def State.smPreempt (s : State) (p n : Nat) (now : Bool) : State :=
  let d := s.die p
  let e := d.preempt s.cfg p n (s.pairReady p)
  let out := d.goneOut e n
  if (d.slot n).slabs.any (fun b => d.slabBusy n b.1 b.2) then s
  else if out.isEmpty || d.swapped n out then s.setDie p (e.endSwaps n)
  else
    let s := if d.swaps.any (·.slot == n) then s else s.askSwap p n true out
    if now then s.setDie p ((s.die p).preempt s.cfg p n (s.pairReady p)) else s

/-- R343: a pre-emption takes effect when nothing of the VF runs on the die. -/
def execSmPreemptApply (p n : Nat) (s : State) : Out :=
  let x := (s.die p).slot n
  event s (if x.doomed && !(s.die p).vfRuns x.vf then s.smPreempt p n false else s)

/-- R341: 1 ms after the claim opened, the lender's requests are pre-empted: priority 3 first, youngest first, winnowed
ones skipped, until the claim is covered. -/
def execReclaimTimeout (p tier : Nat) (s : State) : Out :=
  let d := s.die p
  event s (match d.claimsOf tier with
    | [] => s
    | k :: _ => match k.lender with
      | none => s
      | some v =>
        if k.met || s.now < k.since + 1000000 then s
        else
          let inTier := fun (x : Slot) => (x.slabs.map (fun b => match b.2.place with
            | some (t, _) => if t == tier && b.2.vf == v then kvPages b.2.bytes else 0
            | none => 0)).sum
          let cand := d.slots.filter (fun e =>
            e.2.vf == v && e.2.state != 0 && e.2.state != 4 && e.2.state != 5 && !e.2.doomed && inTier e.2 != 0)
          let before := fun (a b : Nat × Slot) => b.2.prio < a.2.prio || (a.2.prio == b.2.prio && b.2.age < a.2.age)
          let order := cand.foldl (fun l e => l.takeWhile (fun x => before x e) ++ [e] ++ l.dropWhile (fun x => before x e)) []
          let have0 := d.freePages s.cfg p tier + ((d.slots.filter (fun e => e.2.doomed)).map (fun e => inTier e.2)).sum
          let r := order.foldl (fun (a : Die × Nat) e =>
            if k.pages <= a.2 then a else (a.1.setSlot e.1 { e.2 with doomed := true }, a.2 + inTier e.2)) (d, have0)
          s.setDie p r.1)

/-! ### The SEQ forms (R239 to R244) -/

/-- The slot that a form names: ILLOP for a bad operand, `PERM_FAULT` for a slot that is free or another partition's. -/
def State.seqSlot (s : State) (a : Word) : R (Nat × Slot) := do
  legal s (bits a 63 12 == 0)
  let n := bits a 11 0
  let x := s.myDie.slot n
  if x.state == 0 || s.cfg.partOf s.iss.peer x.vf != s.myCtx.part then trap s cPERM_FAULT else pure (n, x)

/-- `SEQ_FAULT` unless the condition holds. -/
def seqOk (s : State) (b : Bool) : R Unit := if b then .ok () else trap s cSEQ_FAULT

/-- A scratchpad operand of 128-byte alignment (R239). -/
def State.seqAddr (s : State) (b : Word) (len : Nat) : R (Nat × State) := do
  let ea := BitVec.ofNat 64 (bits b 31 0)
  s.bufLive ea
  aligned s ea 128
  match s.myTile.span ea.toNat len with
  | .error c => trapAt s c ea
  | .ok _ => s.scratch ea

/-- Bytes of scratchpad that the sequence manager reads. -/
def Tile.seqRead (t : Tile) (a n : Nat) : Nat :=
  (List.range ((n + 127) / 128)).foldl (fun v k =>
    v + t.rd (a + 128 * k) (min 128 (n - 128 * k)) * 2 ^ (8 * 128 * k)) 0

/-- The same as the manager reads it: `POISONED` where a line is poisoned or fails its crc, which is then poisoned and counted
(R397). -/
def State.seqRead (s : State) (a n : Nat) (ea : Word) : R Nat :=
  let ks := List.range ((n + 127) / 128)
  match ks.find? (fun k => (s.myTile.checkLine (a / 128 + k)).1) with
  | some k => trapAt (s.setMyTile (ks.foldl (fun t k => (t.checkLine (a / 128 + k)).2) s.myTile)) cPOISONED (ea + BitVec.ofNat 64 (128 * k))
  | none => .ok (s.myTile.seqRead a n)

/-- End a form: the slot and the value of d. -/
def State.seqEnd (s : State) (d : BitVec 8) (n : Nat) (x : Slot) (v : Nat) : R State :=
  .ok ((s.setMyDie (s.myDie.setSlot n x)).yResult d (BitVec.ofNat 64 v) 1)

/-- Depth of a node, from its parent's (R240); parents come first. -/
def nodeDepths (ns : List Node) : List Nat :=
  ns.foldl (fun l nd => l ++ [if nd.parent == 0xFF then 1 else l.getD nd.parent 0 + 1]) []

/-- The limits of R240 on a tree. -/
def treeOk (ns : List Node) (base : Nat) (x : Slot) : Bool :=
  ns.zipIdx.all (fun e => e.1.parent == 0xFF || e.1.parent < e.2) &&
    (nodeDepths ns).all (· <= 16) &&
    (0xFF :: List.range ns.length).all (fun k => (ns.filter (·.parent == k)).length <= 8) &&
    x.slabs.all (fun b => base + 1 + ns.length <= 2 ^ b.2.lsize)

/-- R240. -/
def execSeqTree (f : RegF) (s : State) : Out :=
  let b := s.reg f.b
  issue (.seqTree f) s (do
    legal s (bits (s.reg f.a) 63 12 == 0 && bits b 63 39 == 0 && bits b 38 32 < 64)
    let n := bits b 38 32 + 1
    let (a, s) ← s.seqAddr b (16 * n)
    let s ← s.smTurn
    let (k, x) ← s.seqSlot (s.reg f.a)
    seqOk s (x.state == 1)
    let v ← s.seqRead a (16 * n) (BitVec.ofNat 64 (bits b 31 0))
    let field := fun (i hi lo : Nat) => v / 2 ^ (8 * (16 * i + lo)) % 2 ^ (8 * (hi + 1 - lo))
    let ns := (List.range n).map (fun i => ({ token := BitVec.ofNat 32 (field i 3 0), parent := field i 4 4,
                                              q := BitVec.ofNat 32 (field i 11 8) } : Node))
    seqOk s ((List.range n).all (fun i => field i 7 5 == 0 && field i 15 12 == 0) && treeOk ns x.len x)
    s.seqEnd f.d k { x with state := 2, nodes := ns } x.len)

/-- R241. -/
def execSeqCheck (f : RegF) (s : State) : Out :=
  let b := s.reg f.b
  issue (.seqCheck f) s (do
    legal s (bits (s.reg f.a) 63 12 == 0 && bits b 63 39 == 0)
    let n := bits b 38 32 + 1
    let (a, s) ← s.seqAddr b (16 * (n + 1))
    let s ← s.smTurn
    let (k, x) ← s.seqSlot (s.reg f.a)
    seqOk s (x.state == 2 && n == x.nodes.length)
    let v ← s.seqRead a (16 * (n + 1)) (BitVec.ofNat 64 (bits b 31 0))
    let field := fun (i hi lo : Nat) => v / 2 ^ (8 * (16 * i + lo)) % 2 ^ (8 * (hi + 1 - lo))
    let cs := (List.range (n + 1)).map (fun i => ({ bonus := BitVec.ofNat 32 (field i 3 0),
                                                    p := BitVec.ofNat 32 (field i 7 4), rank := BitVec.ofNat 16 (field i 9 8) } : Check))
    seqOk s (field 0 9 4 == 0 && (List.range (n + 1)).all (fun i => field i 15 10 == 0))
    s.seqEnd f.d k { x with state := 3, checks := cs } n)

/-- Whether a rule accepts node k (R242). -/
def accepts (rule : Word) (seed slot base k : Nat) (q : Nat) (c : Check) : Bool :=
  match bits rule 1 0 with
  | 0 => c.rank == 0
  | 1 => c.rank.toNat < bits rule 15 8
  | _ =>
    let p := c.p.toNat
    bits rule 31 16 * q <= p * 2 ^ 16 ||
      (0 < q && srHash seed slot (base + 1 + k) * q < p * 2 ^ 32) || (q == 0 && 0 < p)

/-- The accepted path from a node down (R242); recursion on the depth. -/
def winnow (x : Slot) (ok : Nat → Bool) : Nat → Nat → List Nat
  | 0, _ => []
  | n + 1, cur =>
    match (List.range x.nodes.length).find? (fun k => (x.nodes.getD k ⟨0, 0, 0⟩).parent == cur && ok k) with
    | none => []
    | some k => k :: winnow x ok n k

/-- R242. -/
def execSeqWinnow (f : RegF) (s : State) : Out :=
  let b := s.reg f.b
  issue (.seqWinnow f) s (do
    legal s (bits (s.reg f.a) 63 12 == 0 && bits b 63 32 == 0)
    let (a, s) ← s.seqAddr b 128
    -- a queue load of the stream still reads bytes of the line (R275, R397)
    if s.scratchClash a 128 then .error (.wait .poll false s)
    let s ← s.smTurn
    let (n, x) ← s.seqSlot (s.reg f.a)
    let rule : Word := SMap.get 0 s.myDie.rules x.rule
    seqOk s (x.state == 3 && bit rule 63)
    let ok := fun k => accepts rule s.myCtx.srseed.toNat n x.len k (x.nodes.getD k ⟨0, 0, 0⟩).q.toNat
      (x.checks.getD (k + 1) ⟨0, 0, 0⟩)
    let path := winnow x ok 16 0xFF
    let bonus := (x.checks.getD (match path.getLast? with | none => 0 | some k => k + 1) ⟨0, 0, 0⟩).bonus
    let toks := path.map (fun k => (x.nodes.getD k ⟨0, 0, 0⟩).token) ++ [bonus]
    let bytes := (List.range 17).flatMap (fun j => leBytes 4 (toks.getD j 0).toNat) ++
      (List.range 16).map (fun j => BitVec.ofNat 8 (path.getD j 0xFF)) ++ List.replicate 44 0
    let s := s.setMyTile (s.myTile.wrLine (coreRank s.iss.ctx s.iss.exe) a bytes 0 false)
    s.seqEnd f.d n { x with state := 4, path := path, bonus := bonus } (path.length + 1))

/-- Where a position of a slab lies now, with a move's forwarding (R219, R338). -/
def Die.kvPos (d : Die) (n idx : Nat) (b : Slab) (pos : Nat) : Nat :=
  match (d.moveOf n idx).map (·.2) with
  | some f => (if pos < f.boundary then f.new else f.old) + pos * b.stride
  | none => (b.place.getD (b.tier, b.base)).2 + pos * b.stride
/-- The tier in which a slab lies. -/
def Slab.tierNow (b : Slab) : Nat := (b.place.getD (b.tier, b.base)).1
/-- The slabs of a slot that lie in a memory tier. -/
def Slot.here (x : Slot) : List (Nat × Slab) := x.slabs.filter (·.2.place.isSome)

/-- Move a position of every slab of a slot, and whether bad data was read. -/
def Die.rollPos (d : Die) (n : Nat) (x : Slot) (src dst : Nat) : Die × Bool :=
  x.here.foldl (fun (a : Die × Bool) e =>
    let f := a.1.kvPos n e.1 e.2 src
    let g := a.1.kvPos n e.1 e.2 dst
    let t := e.2.tierNow
    (a.1.moveBytes t f t g e.2.stride, a.2 || a.1.badSpan t f e.2.stride != 0)) (d, false)

/-- Whether a position's bytes are held (R389). -/
def Die.posHeld (d : Die) (n : Nat) (x : Slot) (pos : Nat) : Bool :=
  x.here.any fun e => d.runHeld e.2.tierNow (d.kvPos n e.1 e.2 pos) e.2.stride

/-- R243, R389, R412. -/
def execSeqRoll (f : RegF) (s : State) : Out :=
  let b := s.reg f.b
  issue (.seqRoll f) s (do
    legal s (bits (s.reg f.a) 63 12 == 0 && (if bit b 63 then bits b 62 32 == 0 else b == 0))
    let s ← s.smTurn
    let (n, x) ← s.seqSlot (s.reg f.a)
    if bit b 63 then
      seqOk s ((x.state == 1 || x.state == 6) && bits b 31 0 <= x.len)
      s.seqEnd f.d n { x with state := 1, len := bits b 31 0, nodes := [], checks := [], path := [] } (bits b 31 0)
    else
      seqOk s (x.state == 4)
      let d := s.myDie
      let moves := x.path.zipIdx.filter (fun e => e.1 != e.2)
      if moves.any (fun e => d.posHeld n x (x.len + 1 + e.2)) then s.smHold
      else
        let r := moves.foldl (fun (a : Die × Bool) e =>
          let q := a.1.rollPos n x (x.len + 1 + e.1) (x.len + 1 + e.2)
          (q.1, a.2 || q.2)) (d, false)
        let s := s.setMyDie r.1
        let len := x.len + 1 + x.path.length
        if r.2 then
          match (s.abortSlot s.iss.peer n).seqEnd f.d n ((s.abortSlot s.iss.peer n).myDie.slot n) x.len with
          | .ok s => pure s
          | e => e
        else s.seqEnd f.d n { x with state := 1, len := len, pending := x.bonus, nodes := [], checks := [], path := [] } len)

/-- R244, R342. -/
def execSeqPreempt (f : RegF) (s : State) : Out :=
  let b := s.reg f.b
  issue (.seqPreempt f) s (do
    legal s (bits (s.reg f.a) 63 12 == 0 && bits b 63 2 == 0 && bits b 1 0 != 3)
    let s ← s.smTurn
    let (n, x) ← s.seqSlot (s.reg f.a)
    seqOk s (1 <= x.state && x.state <= 3)
    let d := s.myDie
    let p := s.iss.peer
    let toSwap := bits b 1 0 == 2
    let moves := fun (e : Nat × Slab) => (toSwap || e.2.place.any (·.1 == 0)) && e.2.place.isSome
    let out := if toSwap then (x.slabs.filter moves).map (·.1) else []
    -- held tiles stay where they are until they are let go (R286, R389)
    if bits b 1 0 != 0 && x.slabs.any (fun e => moves e && d.slabBusy n e.1 e.2) then s.smHold
    else match if bits b 1 0 == 0 then some d
      else if !out.isEmpty && !s.pairReady p then none
      else d.demoteAll s.cfg p n toSwap with
    | none => trap s cSEQ_FAULT
    | some e =>
      -- the transfers to the swap area come first (R346)
      if !d.swapped n out then (if d.swaps.any (·.slot == n) then s else s.askSwap p n true out).smHold
      else
        let e := e.endSwaps n
        (s.setMyDie e).seqEnd f.d n { e.slot n with state := 5, nodes := [], checks := [], path := [] } x.state)

/-- R244, R342: the slabs come back first; a demand within the guarantee waits for its pages (R341). -/
def execSeqResume (f : RegF) (s : State) : Out :=
  let b := s.reg f.b
  issue (.seqResume f) s (do
    legal s (bits (s.reg f.a) 63 12 == 0 && bits b 63 2 == 0)
    let s ← s.smTurn
    let (n, x) ← s.seqSlot (s.reg f.a)
    seqOk s (x.state == 5)
    let d := s.myDie
    let p := s.iss.peer
    let away := (x.slabs.filter (fun e => match e.2.demoted with | some (false, _) => true | _ => false)).map (·.1)
    seqOk s (s.pairReady p || away.isEmpty)
    let back := fun (t : Nat) => x.slabs.filter (fun e => e.2.demoted.isSome && e.2.tier == t)
    let pages := fun (l : List (Nat × Slab)) => (l.map (fun e => kvPages e.2.bytes)).sum
    -- each VF that slabs were made under answers for its own (R340)
    let dems := [0, 1].flatMap (fun t => (dedup ((back t).map (·.2.vf))).map (fun v =>
      let n := pages ((back t).filter (·.2.vf == v))
      (t, v, n, d.demand s.cfg p t v n s.asker (pages (back t)))))
    -- transfers of an earlier demotion are made first
    if d.swaps.any (fun w => w.slot == n && w.out) then s.smHold
    else match dems.find? (fun e => e.2.2.2 == .wait) with
    | some (t, v, _, _) =>
      let k : PageClaim := { vf := v, pages := pages (back t), since := s.now, asker := s.asker }
      .error (.wait (.pages t) false ((s.setMyDie (d.claim t k)).openClaim p t))
    | none =>
      seqOk s (dems.all (fun e => e.2.2.2 == .ok))
      match (x.slabs.map (·.1)).foldl (fun (o : Option Die) i => match o with
        | none => none
        | some d => d.promote s.cfg p n i) (some d) with
      | none => trap s cSEQ_FAULT
      | some e =>
        -- the transfers from the swap area come first (R346)
        if !d.swapped n away then (if d.swaps.any (·.slot == n) then s else s.askSwap p n false away).smHold
        else
          let e := ((e.unclaim 0 s.asker).unclaim 1 s.asker).endSwaps n
          (s.setMyDie e).seqEnd f.d n { e.slot n with state := 1, prio := bits b 1 0 } x.len)

/-- R244. -/
def execSeqStat (f : RegF) (s : State) : Out :=
  let b := s.reg f.b
  issue (.seqStat f) s (do
    legal s (bits (s.reg f.a) 63 12 == 0 && bits b 1 0 != 3)
    let s ← s.smTurn
    let (n, x) ← s.seqSlot (s.reg f.a)
    let v := match bits b 1 0 with
      | 0 => x.state + x.prio * 2 ^ 3 + x.rule * 2 ^ 5 + x.nodes.length * 2 ^ 11 + vfNumber s.iss.peer x.vf * 2 ^ 18
      | 1 => x.len
      | _ => x.pending.toNat
    s.seqEnd f.d n x v)

end Sys2Proof.Machine
end

