-- ==== Sys2Proof/Machine/Bind.lean ====
section
/-! DEFINITION. How contexts start and end (R14, R138, R231, R233, R236, R259): what a start sets, what an end gives back,
and the threads that arriving data starts. -/

namespace Sys2Proof.Machine

/-- A context as it starts (R14): every register at its start value, its binding and its launch values kept. -/
def Ctx.fresh (x : Ctx) : Ctx :=
  { srseed := x.srseed, lparam := x.lparam, sbind := x.sbind, op := x.op, stage := x.stage, vf := x.vf, part := x.part }

/-- A stream that starts at an entry; entry 0 leaves it as never started (R235, R236). -/
def startStream (entry : Addr) : Stream := if entry == 0 then {} else { status := .running, pc := entry, hold := 4 }

/-- Start both streams of a context (R14, R235). -/
def Ctx.start (x : Ctx) (acc exe : Addr) : Ctx :=
  { x.fresh with status := .running, acc := startStream acc, exe := startStream exe }

/-- The registers with which a tiller thread starts (R14). -/
def Ctx.tiller (x : Ctx) (k : Claim) : Ctx :=
  let y := x.start 0 k.entry
  let set := fun (m : SMap Word) (r : Nat) (v : Word) => SMap.set 0 m r v
  { y with exe := { y.exe with x := set (set (set (set [] 1 k.x1) 2 k.x2) 3 k.x3) 4 k.x4 } }

/-- The dormant contexts of the operator bound to a tile, lowest first, of a partition when one is named (R259, R453): one that a
hook has left is not among them. -/
def Tile.dormants (t : Tile) (part : Option Nat) : List Nat :=
  (List.range 8).filter (fun c => (t.ctx c).status == .dormant && t.bound == some (t.ctx c).op &&
    (match part with | none => true | some q => (t.ctx c).part == q))
/-- The lowest-numbered of them (R259, R372). -/
def Tile.dormant (t : Tile) (part : Option Nat) : Option Nat := (t.dormants part).head?

/-- Start a tiller thread in a context (R259). -/
def State.startTiller (s : State) (p t c : Nat) (k : Claim) : State := s.modCtx p t c (·.tiller k)

/-- The oldest waiting claim that a dormant context can take, and the lowest such context. -/
def Tile.claimed (t : Tile) : Option (Claim × Nat) := t.handlers.findSome? (fun k => (t.dormant k.part).map (fun c => (k, c)))

/-- R237, R260, R381: the oldest waiting message takes the lowest dormant context. -/
def execTillerThreadStart (p t : Nat) (s : State) : Out :=
  let tl := s.tile p t
  event s (match tl.claimed with
    | some (k, c) => (s.setTile p t { tl with handlers := tl.handlers.erase k }).startTiller p t c k
    | none => s)

/-! ### Groups (R233, R234) -/

def Die.group (d : Die) (g : Nat) : Group := SMap.get {} d.groups g
def Die.setGroup (d : Die) (g : Nat) (x : Group) : Die := { d with groups := SMap.set {} d.groups g x }

/-- A stream leaves a group; the last one frees it. -/
def Group.leave (x : Group) (i : StreamId) : Group :=
  let m := x.members.filter (· != i)
  if m.isEmpty then {} else { x with members := m, required := x.required.filter (· != i), arrived := x.arrived.filter (· != i) }

/-- A stream leaves every group (R233, R236). -/
def Die.leaveAll (d : Die) (i : StreamId) : Die :=
  (d.groups.map (·.1)).foldl (fun d g => if (d.group g).members.contains i then d.setGroup g ((d.group g).leave i) else d) d

/-- Let a stream try again in the tile cycle in which it has tried (R29, R234). -/
def Tile.untry (t : Tile) (c : Nat) (exe : Bool) : Tile := { t with tried := t.tried.filter (· != c * 2 + b2n exe) }

/-- R234: when every required stream has arrived, each arrived stream goes on in the same tile cycle and the next generation
opens. -/
def execGbarGenerationComplete (p g : Nat) (s : State) : Out :=
  let x := (s.die p).group g
  event s (if x.isOpen && x.required.all x.arrived.contains then
      let s := x.arrived.foldl (fun s i =>
        let y := s.stream p (i / 16) (i / 2 % 8) (i % 2 == 1)
        (s.setStream p (i / 16) (i / 2 % 8) (i % 2 == 1) { y with wait := y.wait.map (fun w => { w with ready := true }) }).modTile p
          (i / 16) (·.untry (i / 2 % 8) (i % 2 == 1))) s
      s.modDie p fun d => d.setGroup g { x with required := [], arrived := [], isOpen := false }
    else s)

/-! ### The end of a context (R236) -/

/-- Give up every sync object that a context holds or waits for, as by `REL` (R138). -/
def State.releaseSync (s : State) (p t c : Nat) : State :=
  let other := fun (h : Holder) => !(h.peer == p && h.tile == t && h.ctx == c)
  s.dies.foldl (fun s e =>
    ((s.die e.1).sync.filter (fun o => o.2.holders.any (fun h => !other h) || o.2.queue.any (fun h => !other h))).foldl
      (fun s o => (s.flushCopies p false).setSync e.1 o.1
        { o.2 with holders := o.2.holders.filter other, queue := o.2.queue.filter other }) s) s

/-- The reservations of other contexts and engines. -/
def Reserve.other (r : Reserve) (t c : Nat) : Bool := !(r.tile == t && (r.eng == 4 || r.eng == 5) && r.id / 2 == c)
/-- Release a context's vector-pipe grant (R245); what its other stream asks for stays. -/
def Die.dropGrant (d : Die) (t c : Nat) : Die := { d with inForce := d.inForce.filter (·.other t c) }
/-- Release a context's grant and what its streams ask for, at its end (R428). -/
def Die.dropPipe (d : Die) (t c : Nat) : Die := { d.dropGrant t c with askCur := d.askCur.filter (·.other t c) }

/-- How a context ends (R236). -/
inductive Ending where
  | dormant | workDone | exit
  deriving DecidableEq, Repr

/-- Whether a context holds or waits for a sync object. -/
def State.usesSync (s : State) (p t c : Nat) : Bool :=
  s.dies.any (fun e => e.2.sync.any (fun o => (o.2.holders ++ o.2.queue).any (fun h => h.peer == p && h.tile == t && h.ctx == c)))

/-- What a stream still has on its way to other dies, as posted writes are remembered. -/
def Stream.sending (x : Stream) : List (Nat × Nat × Nat × Nat) :=
  x.posted ++ [x.gload, x.snapLoad].filterMap (fun g => match g with
    | some g => if g.back then none else g.tag.map (fun t => (t, g.peer, g.addr, g.size))
    | none => none)
/-- The same of a context's queue loads. -/
def Ctx.asking (x : Ctx) : List (Nat × Nat × Nat × Nat) :=
  x.queues.flatMap (fun q => q.2.entries.filterMap (fun e => match e.src with
    | .global p a t (some tag) => some (tag, p, a, width t / 8)
    | _ => none))
/-- What is left of a context that ends: the accesses that are still on their way (R138, R359). -/
def Ctx.rest (x : Ctx) : Ctx :=
  { status := .ending, vf := x.vf, part := x.part
    acc := { posted := x.acc.sending ++ x.asking }, exe := { posted := x.exe.sending } }
/-- Whether nothing of a context is on its way any more, and no dirty copy of its die is held back from a release. -/
def State.atRest (s : State) (p t c : Nat) : Bool :=
  let x := s.ctx p t c
  x.acc.posted.isEmpty && x.exe.posted.isEmpty && !(s.usesSync p t c && s.flushHeld p)

/-- A context that is ending gives up its holds, as by `REL`, and is free, once its accesses have been answered (R138). -/
def State.letGo (s : State) (p t c : Nat) : State :=
  if s.atRest p t c then (s.releaseSync p t c).setCtx p t c {} else s

/-- End a context: it gives up its holds as by `REL`, with its accesses performed (R138). Of a group only the ended streams go, so
that a group of two VFs of a partition lives on with those of the other (R233): DESIGN CHOICE, log 124. -/
def State.endCtx (s : State) (p t c : Nat) (how : Ending) : State :=
  let x := s.ctx p t c
  let s := (s.withdraw p t c false).withdraw p t c true
  let s := s.modDie p fun d =>
    let d := ((d.leaveAll (t * 16 + c * 2)).leaveAll (t * 16 + c * 2 + 1)).dropPipe t c
    if how == .workDone then
      let o : Op := SMap.get {} d.ops x.op
      { d with ops := SMap.set {} d.ops x.op { o with workDone := true } }
    else d
  let s := s.modTile p t fun tl =>
    let tl := (stopPipes tl c).1
    if x.release then { tl with noBind := c :: tl.noBind } else tl
  if how == .dormant then (s.releaseSync p t c).setCtx p t c { x.fresh with status := .dormant }
  else (s.setCtx p t c x.rest).letGo p t c

/-- How the streams of a context end it, once both have ended or never started. -/
def Ctx.ending (x : Ctx) : Option Ending :=
  let ss := [x.acc.status, x.exe.status]
  if ss.contains .running then none
  else if ss.contains .opend then some .workDone
  else if ss.contains .texit then some .exit
  else some .dormant

/-- A stream ends with every access of its own performed (R126, R280, R405), and where its end ends a context, with the
context's queue loads answered and no dirty copy held back from the release of its holds (R138, R359). -/
def State.leaves (s : State) (how : StreamStatus) : R Unit :=
  let x := s.myCtx
  let last := (x.setStream s.iss.exe { s.me with status := how }).ending.isSome
  if !s.prior.sending.isEmpty ||
      (last && (!x.asking.isEmpty || (s.usesSync s.iss.peer s.iss.tile s.iss.ctx && s.flushHeld s.iss.peer)))
  then .error (.wait .poll false s) else .ok ()

/-- End the issuing stream (R236): it leaves its groups, and the context ends with it when it is the last. -/
def State.endStream (s : State) (how : StreamStatus) : State :=
  let i := s.iss.tile * 16 + s.iss.ctx * 2 + b2n s.iss.exe
  let s := s.setMe { s.me with status := how, wait := none }
  let s := s.setMyDie (s.myDie.leaveAll i)
  match s.myCtx.ending with
  | none => s
  | some e => s.endCtx s.iss.peer s.iss.tile s.iss.ctx e

end Sys2Proof.Machine
end

