-- ==== Sys2Proof/Machine/Engine.lean ====
section
/-! DEFINITION. What the array halves and the copy engine share: command queues (R186, R187, R207), current reservations
(R245, R427 to R430), the range checker (R254 to R256), fault records (R270, R271), lines as an engine reads and writes
them (R190, R209), and retirement (R189, R210). Engines are numbered 0 to 3 for the halves A0, A1, B0, B1 and 4 for the
copy engine. -/

namespace Sys2Proof.Machine

/-! ### Checks at issue (R192, R212) -/

/-- A check made at issue: the cause and the address that it names. -/
abbrev Chk (α : Type) := Except (Nat × Nat) α
def chk (b : Bool) (cause addr : Nat) : Chk Unit := if b then .ok () else .error (cause, addr)
/-- An illegal operand. -/
def chkLegal (b : Bool) : Chk Unit := chk b cILLOP 0
/-- ILLOP for an address through a buffer that is not valid, which comes before `MISALIGN` of the bundle (R122, R262). -/
def chkLive (t : Tile) (l : List Nat) : Chk Unit :=
  match l.find? (fun a => match t.resolve a with | .error c => c == cILLOP | .ok _ => false) with
  | some a => .error (cILLOP, a)
  | none => .ok ()
/-- A span of local scratchpad that keeps to R122. -/
def chkSpan (t : Tile) (sp : Nat × Nat) : Chk Unit :=
  if sp.2 == 0 then .ok () else match t.span sp.1 sp.2 with | .ok _ => .ok () | .error c => .error (c, sp.1)

/-- Where a command is issued or accepted. -/
structure Site where
  cfg : Cfg
  peers : Nat
  p : Nat
  t : Nat
  tile : Tile
  part : Nat

/-- An engine's owner is the partition (R192, R212, R453). -/
def Site.owns (e : Site) (q : Nat) : Bool := e.cfg.engineOwner e.p e.t q == e.part

/-- A command as its form makes it: operands, queues and declared spans, once every check has passed. -/
def Site.make (e : Site) (i : Instr) (ctr : BitVec 8) (va vb ve : Word) (queues : List Nat) (rd wr : List (Nat × Nat)) :
    Chk Cmd := do
  rd.forM (chkSpan e.tile)
  wr.forM (chkSpan e.tile)
  chk (queues.all e.owns) cPERM_FAULT 0
  pure { seq := 0, i := i, va := va, vb := vb, ve := ve, ctr := ctr, queues := queues, rd := rd, wr := wr,
         map := (List.range 4).map (fun h => SMap.get false e.tile.pmap h) }

/-! ### Entering a queue -/

/-- Places of a command queue (R187, R207). -/
def queueCap (q : Nat) : Nat := if q == 4 then 32 else 16
/-- Commands that wait in a queue. -/
def Tile.queued (t : Tile) (q : Nat) : List Cmd := t.cmds.filter (fun c => c.st == .queued && c.queues.contains q)
/-- Whether a command finds room in its queues. -/
def Tile.room (t : Tile) (c : Cmd) : Bool := c.queues.all (fun q => (t.queued q).length < queueCap q)

/-- The counter that a command names. -/
def Cmd.counter (c : Cmd) : Option Nat := if c.ctr == 0 then none else some (num c.ctr)

/-- Put a command into its queues (R27, R254, R256). -/
def Tile.enqueue (t : Tile) (c : Cmd) : Tile :=
  let full := 128 <= (t.cmds.filter (·.entered)).length
  let t := { t with cmds := t.cmds ++ [{ c with seq := t.seq, entered := !full }], seq := t.seq + 1 }
  match c.counter with
  | none => t
  | some n =>
    let k : Counter := SMap.get {} t.ctrs n
    let k' : Counter := { k with pending := k.pending + 1 }
    { t with ctrs := SMap.set {} t.ctrs n k' }

/-- A counter that is owed one increment less (R27); a binding has made its sum 0 whatever was still queued (R28). -/
def Counter.paid (k : Counter) : Counter := { k with pending := if k.pending == 0 then 0 else k.pending - 1 }

/-- Change the commands of a tile, or drop them: a counter that one of them names no more is owed its increment no more (R231). -/
def Tile.recmd (t : Tile) (g : Cmd → Option Cmd) : Tile :=
  let freed := t.cmds.filterMap (fun c => match g c with
    | some d => if d.ctr == c.ctr then none else c.counter
    | none => c.counter)
  { t with
    cmds := t.cmds.filterMap g
    ctrs := freed.foldl (fun m n => SMap.set {} m n (SMap.get {} m n : Counter).paid) t.ctrs }

/-- The rail and units of an entry of an operator's current profile (R427), or none. -/
def Op.current (o : Op) (n rail : Nat) : Option (Nat × Nat) :=
  if n == 0 then none
  else match o.profile[n - 1]? with
  | none => none
  | some w => if bits w 31 14 == 0 && bits w 13 12 == rail then some (rail, bits w 11 0) else none

/-- The entry that a command of the issuing stream takes (R245, R427): matrix for M, vector for C. -/
def State.currentFor (s : State) (matrix : Bool) : Option (Nat × Nat) :=
  let o : Op := SMap.get {} s.myDie.ops s.myCtx.op
  let n := if s.me.resv == 0 then (if matrix then o.dm else o.dc) else s.me.resv.toNat
  o.current n (if matrix then 0 else 1)

/-- The site of the issuing stream. -/
def State.site (s : State) : Site :=
  { cfg := s.cfg, peers := s.peers, p := s.iss.peer, t := s.iss.tile, tile := s.myTile, part := s.myCtx.part }

/-- An engine form of the issuing stream: its checks, then a place in its queues, or a wait limited by WAITTO; `after`
is what its issue does besides. -/
def engFormThen (after : State → State) (i : Instr) (s : State) (matrix : Bool) (r : Chk Cmd) : Out :=
  issue i s (match r with
    | .error (c, a) => trapAt s c (BitVec.ofNat 64 a)
    | .ok c =>
      let t := s.myTile
      if t.room c then
        .ok (after (s.setMyTile (t.enqueue { c with
          ctx := s.iss.ctx, exe := s.iss.exe, vf := s.myCtx.vf, part := s.myCtx.part, op := s.myCtx.op, seed := s.myCtx.srseed,
          salt := s.me.salt, current := s.currentFor matrix })))
      else .error (.wait .poll true s))

def engForm (i : Instr) (s : State) (matrix : Bool) (r : Chk Cmd) : Out := engFormThen id i s matrix r

/-- A form that acts on its tile as it issues, once its checks have passed. -/
def State.actTile (s : State) (r : Chk Tile) : R State :=
  match r with
  | .ok t => .ok (s.setMyTile t)
  | .error (c, a) => trapAt s c (BitVec.ofNat 64 a)

/-! ### Commands in progress -/

def Tile.cmd (t : Tile) (n : Nat) : Option Cmd := t.cmds.find? (·.seq == n)
def Tile.setCmd (t : Tile) (c : Cmd) : Tile := { t with cmds := t.cmds.map (fun d => if d.seq == c.seq then c else d) }

/-- The oldest waiting command of a queue. -/
def Tile.head (t : Tile) (q : Nat) : Option Cmd := (t.queued q).head?
/-- Whether a command is at the head of every queue that it occupies (R187). -/
def Tile.atHead (t : Tile) (c : Cmd) : Bool := c.queues.all (fun q => (t.head q).any (·.seq == c.seq))

/-- Whether the range checker clears a command (R255): no unretired earlier command whose ranges meet its own. -/
def Tile.clear (t : Tile) (c : Cmd) : Bool :=
  t.cmds.all fun d =>
    !(d.entered && d.seq < c.seq) ||
      (!meet (c.wrLines t) (d.rdLines t) && !meet (c.wrLines t) (d.wrLines t) && !meet (c.rdLines t) (d.wrLines t))

/-- Whether the checker holds a command or has room for it (R256). -/
def Tile.admits (t : Tile) (c : Cmd) : Bool := c.entered || (t.cmds.filter (·.entered)).length < 128

/-- An engine's number in the order of R431. -/
def grantEngine (q : Nat) : Nat := if q == 4 then 6 else q

/-- Whether the current that a command needs has been granted to each of its engines (R428). -/
def Die.granted (d : Die) (t : Nat) (c : Cmd) : Bool :=
  match c.current with
  | none => true
  | some (_, u) => u == 0 || c.queues.all (fun q =>
      d.inForce.any (fun r => r.tile == t && r.eng == grantEngine q && r.id == c.seq))

/-- Release the current of a command (R428). -/
def Die.release (d : Die) (t seq : Nat) : Die :=
  let keep := fun (r : Reserve) => !(r.tile == t && r.eng != 4 && r.eng != 5 && r.id == seq)
  { d with inForce := d.inForce.filter keep, askCur := d.askCur.filter keep }

/-! ### Faults of a command (R270, R271) -/

/-- The engine address of a local scratchpad address. -/
def localEA (p t a : Nat) : Word := BitVec.ofNat 64 (2 ^ 63 + p * 2 ^ 48 + t * 2 ^ 43 + a % 2 ^ 32)

/-- Write a cause to the record of each half or of the copy engine. -/
def Tile.record (t : Tile) (c : Cmd) (cause : Nat) (addr : Word) : Tile :=
  let opc := (opcode c.i).2
  let put := fun (m : SMap FRec) (q : Nat) =>
    let r : FRec := SMap.get {} m q
    SMap.set {} m q (if r.valid then { r with more := true } else
      { valid := true, more := false, cause := BitVec.ofNat 8 cause, op := BitVec.ofNat 8 opc, ctr := c.ctr,
        ctx := BitVec.ofNat 3 c.ctx, remote := c.remote, mstep := BitVec.ofNat 28 c.prog, addr := addr })
  { t with frec := c.queues.foldl put t.frec }

/-- Record a cause and finish the command with err. -/
def Tile.fault (t : Tile) (c : Cmd) (cause : Nat) (addr : Word) : Tile :=
  (t.record c cause addr).setCmd { c with st := .finished, err := true, stall := .none, buf := [] }

/-- Retire a finished command (R27, R189, R210): its counter rises, its pending sum falls, err is set. -/
def Tile.retire (t : Tile) (c : Cmd) : Tile :=
  let t := { t with cmds := t.cmds.filter (fun d => d.seq != c.seq) }
  match c.counter with
  | none => t
  | some n =>
    let k : Counter := SMap.get {} t.ctrs n
    { t with ctrs := SMap.set {} t.ctrs n { k.paid with val := k.val + 1, err := k.err || c.err } }

/-- Whether a finished command may retire: commands of one queue that name one counter retire in order. -/
def Tile.retirable (t : Tile) (c : Cmd) : Bool :=
  c.st == .finished &&
    !t.cmds.any (fun d => d.seq < c.seq && d.ctr == c.ctr && c.ctr != 0 && d.queues.any c.queues.contains)

def State.retireCmd (s : State) (p t n : Nat) : State :=
  match (s.tile p t).cmd n with
  | none => s
  | some c =>
    if (s.tile p t).retirable c then (s.setTile p t ((s.tile p t).retire c)).modDie p (fun d => d.release t c.seq) else s

/-! ### Lines as an engine reads and writes them (R190, R209) -/

/-- Why a micro-step cannot go on. -/
inductive Halt where
  | stall (s : Stall)
  | fault (cause : Nat) (addr : Word)
  deriving DecidableEq, Repr

abbrev E (α : Type) := Except Halt α

/-- Data with the mark of each byte: 0 good, 1 poisoned, 2 never delivered (R221). -/
abbrev Data := List (Byte × Nat)
def Data.poison (d : Data) : Bool := d.any (·.2 != 0)
def Data.nat (d : Data) : Nat := leNat (d.map (·.1))

/-- Bytes of one line of a tile, with the layout check (R191, R209); `lay` none checks no layout. -/
def Tile.engLine (t : Tile) (a n : Nat) (lay : Option Nat) (ri : Bool) (addr : Word) : E (Data × Tile) :=
  let i := t.lineInfo (a / 128)
  if !i.full then .error (.stall (.empty (a / 128)))
  else if !ri && i.tag != 0 && lay.isSome && lay != some i.tag.toNat then
    .error (.fault cLAYOUT_MISMATCH addr)
  else
    let (bad, t) := t.checkLine (a / 128)
    .ok ((leBytes n (t.rd a n)).map (fun b => (b, b2n bad)), t)

/-- Bytes of consecutive lines of a tile; recursion on the number of lines. -/
def Tile.engSpan (t : Tile) (a n : Nat) (lay : Option Nat) (ri : Bool) (addr : Word) : Nat → E (Data × Tile)
  | 0 => .ok ([], t)
  | k + 1 =>
    if n == 0 then .ok ([], t)
    else do
      let m := min n (128 - a % 128)
      let (d, t) ← t.engLine a m lay ri addr
      let (e, t) ← t.engSpan (a + m) (n - m) lay ri addr k
      pure (d ++ e, t)

/-- The byte that a scratchpad address of a command reaches, through the mapping of its start (R139). -/
def Tile.cmdAddr (t : Tile) (c : Cmd) (ea : Nat) (addr : Word) : E Nat :=
  match ({ t with bufs := c.bufs } : Tile).resolve ea with
  | .ok a => .ok a
  | .error cause => .error (.fault cause addr)

/-- Read `n` bytes of local scratchpad for a command. -/
def Tile.cmdRead (t : Tile) (p tn : Nat) (c : Cmd) (ea n : Nat) (lay : Option Nat) (ri : Bool) : E (Data × Tile) := do
  let addr := localEA p tn ea
  let a ← t.cmdAddr c ea addr
  t.engSpan a n lay ri addr (n / 128 + 2)

end Sys2Proof.Machine
end

