-- ==== Sys2Proof/Machine/Matrix.lean ====
section
/-! DEFINITION. Class M (R186 to R206): what each form checks and queues at issue, and the micro-steps that an array half
makes of it: stationary planes, matrix multiply, loop nests, accumulator access and attention. -/

namespace Sys2Proof.Machine

/-! ### Units, planes and rows (R186, R188, R195) -/

/-- The halves that a unit names. -/
def unitHalves (u : BitVec 3) : List Nat :=
  let a := 2 * b2n (bit u 0)
  match bits u 2 1 with | 0 => [a] | 1 => [a + 1] | _ => [a, a + 1]
def halves (f : EngF) : List Nat := unitHalves f.unit

/-- Whether the two halves of a half's array belong to different partitions (R188). -/
def splitArray (cfg : Cfg) (p t q : Nat) : Bool :=
  cfg.engineOwner p t (q / 2 * 2) != cfg.engineOwner p t (q / 2 * 2 + 1)

/-- The physical plane, by array × 2 + plane, that a half reaches as a logical plane under map bits (R188). -/
def physPlane (cfg : Cfg) (p t : Nat) (map : List Bool) (q l : Nat) : Nat :=
  q / 2 * 2 + (if splitArray cfg p t q then q % 2 else if (map.getD q false) then 1 - l else l)

/-- In split ownership only logical plane 0 may be named (R188). -/
def Site.planeOk (e : Site) (qs : List Nat) (l : Nat) : Chk Unit :=
  chk (l == 0 || !qs.any (splitArray e.cfg e.p e.t)) cPERM_FAULT 0

/-- A row descriptor (R195). -/
structure Rows where
  row0 : Nat
  n : Nat
  stride : Nat
def rowsOf (b : Word) : Rows := { row0 := bits b 6 0, n := bits b 14 8 + 1, stride := bits b 31 16 }
def rowsZero (b : Word) : Bool := bits b 63 32 == 0 && !bit b 15 && !bit b 7

/-- Whether a row range stays in the halves (R192). -/
def rowsIn (qs : List Nat) (row0 n : Nat) : Bool :=
  (if qs.any (· % 2 == 0) then 0 else 64) <= row0 && row0 + n <= (if qs.any (· % 2 == 1) then 128 else 64)

/-- `MISALIGN` unless a scratchpad address is a multiple of 128 (R192). -/
def lineAligned (a : Nat) : Chk Unit := chk (a % 128 == 0) cMISALIGN a

/-- Lines of a streamed row (R195). -/
def rowLines (t : Nat) : Nat := if t == 9 then 2 else 1
/-- Scratchpad bytes from the first to the last of the streamed rows. -/
def streamSpan (a : Nat) (r : Rows) (t : Nat) : Nat × Nat := (a, 128 * r.stride * (r.n - 1) + 128 * rowLines t)

/-! ### Issue -/

/-- The shadow nest table of an engine (R197, R213). -/
def Tile.nest (t : Tile) (q : Nat) : List (Word × Word) := (List.range 8).map (fun k => SMap.get (0, 0) t.nests (q * 8 + k))

/-- Write a slot of the shadow tables (R197). -/
def Tile.setNest (t : Tile) (qs : List Nat) (slot : Nat) (v : Word × Word) : Tile :=
  { t with nests := qs.foldl (fun m q => SMap.set (0, 0) m (q * 8 + slot) v) t.nests }

def mnestTile (f : EngF) (e : Site) (a b : Word) : Chk Tile := do
  let slot := f.m.toNat
  chkLegal (if slot < 6 then bits a 63 48 == 0 && bits b 63 12 == 0 else if slot == 6 then rowsZero b else bits b 63 27 == 0)
  chk (slot < 6 || a.toNat % 128 == 0) cMISALIGN a.toNat
  chk ((halves f).all e.owns) cPERM_FAULT 0
  pure (e.tile.setNest (halves f) slot (a, b))
def execMnest (f : EngF) (s : State) : Out :=
  issue (.mnest f) s (s.actTile (mnestTile f s.site (s.reg f.a) (s.reg f.b)))

/-- `MPLANE` flips, clears or sets the plane map bits of its halves (R188). -/
def mplaneTile (f : EngF) (e : Site) : Chk Tile := do
  let set := fun (m : SMap Bool) (q : Nat) =>
    SMap.set false m q (match f.m.toNat with | 0 => !SMap.get false m q | 1 => false | _ => true)
  chk ((halves f).all e.owns && !(halves f).any (splitArray e.cfg e.p e.t)) cPERM_FAULT 0
  pure { e.tile with pmap := (halves f).foldl set e.tile.pmap }
def execMplane (f : EngF) (s : State) : Out := issue (.mplane f) s (s.actTile (mplaneTile f s.site))

/-- Source lines of an `LDSTAT` (R193). -/
def ldLines (m : BitVec 11) : Nat :=
  match bits m 3 0 with
  | 9 => 256
  | 14 => (match bits m 6 5 with | 0 => 128 | 1 => 64 | _ => 32)
  | _ => 128

def prepLdstat (f : EngF) (e : Site) (va vb ve : Word) : Chk Cmd := do
  let qs := (halves f)
  chkLive e.tile [va.toNat]
  lineAligned va.toNat
  let c ← e.make (.ldstat f) f.d va vb ve qs [(va.toNat, 128 * ldLines f.m)] []
  e.planeOk qs (b2n (bit f.m 4))
  pure c

def prepMma (f : EngF) (e : Site) (va vb ve : Word) : Chk Cmd := do
  let qs := (halves f)
  let r := rowsOf vb
  chkLegal (rowsZero vb && rowsIn qs r.row0 r.n)
  chkLive e.tile [va.toNat]
  lineAligned va.toNat
  let c ← e.make (.mma f) f.d va vb ve qs [streamSpan va.toNat r (bits f.m 3 0)] []
  e.planeOk qs (b2n (bit f.m 4))
  pure c

/-- `ATTN` enters the queues of its half of both arrays, all of which the partition owns (R189, R204). -/
def prepAttn (f : EngF) (e : Site) (va vb ve : Word) : Chk Cmd := do
  let qs := halves f ++ (halves f).map (· + 2)
  let r := rowsOf vb
  chkLegal (rowsZero vb && rowsIn qs r.row0 r.n)
  chkLive e.tile [va.toNat, ve.toNat]
  lineAligned va.toNat
  lineAligned ve.toNat
  let c ← e.make (.attn f) f.d va vb ve qs [streamSpan va.toNat r (bits f.m 3 0), (ve.toNat, 32)] []
  chk ([0, 1, 2, 3].all e.owns) cPERM_FAULT 0
  pure c

def prepAclr (f : EngF) (e : Site) (va vb ve : Word) : Chk Cmd := e.make (.aclr f) f.d va vb ve (halves f) [] []

/-- The rows that operand a of `ARD` and `AWR` names. -/
def drainRows (a : Word) : Rows := { row0 := bits a 38 32, n := bits a 46 40 + 1, stride := 0 }

def prepArd (f : EngF) (e : Site) (va vb ve : Word) : Chk Cmd := do
  let r := drainRows va
  let w := width (bits f.m 5 2)
  chkLegal (!bit va 39 && rowsIn (halves f) r.row0 r.n)
  chkLive e.tile [bits va 31 0]
  lineAligned (bits va 31 0)
  e.make (.ard f) f.d va vb ve (halves f) (if bit va 48 then [(bits va 63 49 * 128, 640)] else [])
    [(bits va 31 0, 16 * w * r.n)]

def prepAwr (f : EngF) (e : Site) (va vb ve : Word) : Chk Cmd := do
  let r := drainRows va
  chkLegal (!bit va 39 && bits va 63 47 == 0 && rowsIn (halves f) r.row0 r.n)
  chkLive e.tile [bits va 31 0]
  lineAligned (bits va 31 0)
  e.make (.awr f) f.d va vb ve (halves f) [(bits va 31 0, 512 * r.n)] []

def prepAscl (f : EngF) (e : Site) (va vb ve : Word) : Chk Cmd := do
  let r := rowsOf vb
  let mode := bits f.m 3 2
  chkLegal (rowsZero vb && r.stride == 0 && rowsIn (halves f) r.row0 r.n)
  if mode != 0 then chkLive e.tile [va.toNat]
  if mode != 0 then lineAligned va.toNat
  e.make (.ascl f) f.d va vb ve (halves f)
    (if mode == 0 then [] else [(va.toNat, if mode == 1 then 4 * r.n else 512)]) []

def prepMsmx (f : EngF) (e : Site) (va vb ve : Word) : Chk Cmd := do
  let r := rowsOf vb
  chkLegal (rowsZero vb && r.stride == 0 && rowsIn (halves f) r.row0 r.n)
  let uses := bit f.m 2 || bit f.m 3
  if uses then chkLive e.tile [va.toNat]
  if uses then lineAligned va.toNat
  e.make (.msmx f) f.d va vb ve (halves f) (if bit f.m 2 then [(va.toNat, 8 * r.n)] else [])
    (if bit f.m 3 then [(va.toNat, 8 * r.n)] else [])

/-! ### Loop nests (R197, R198) -/

/-- A level of a nest table. -/
structure Level where
  cnt : Nat
  ss : Int
  sw : Int
  ar : Int
  at_ : Nat
  tog : Bool
  kz : Bool

def levelOf (x : Word × Word) : Level :=
  { cnt := bits x.1 15 0 + 1, ss := sint (bits x.1 31 16) 16, sw := sint (bits x.1 47 32) 16,
    ar := sint (bits x.2 7 0) 8, at_ := bits x.2 9 8, tog := bit x.2 10, kz := bit x.2 11 }

/-- A nest of `MGO`: its levels, innermost first, and its template. -/
structure Nest where
  levels : List Level
  sbase : Nat
  desc : Word
  wbase : Nat
  tmpl : Word

def nestOf (n : List (Word × Word)) : Nest :=
  { levels := (n.take 6).map levelOf, sbase := (n.getD 6 (0, 0)).1.toNat, desc := (n.getD 6 (0, 0)).2,
    wbase := (n.getD 7 (0, 0)).1.toNat, tmpl := (n.getD 7 (0, 0)).2 }

/-- The least and greatest of Σ i_l × k_l. -/
def extremes (ls : List (Nat × Int)) : Int × Int :=
  ls.foldl (fun a l => let x : Int := (l.1 - 1 : Nat) * l.2; (a.1 + min 0 x, a.2 + max 0 x)) (0, 0)

/-- The iteration numbers of the levels at iteration n, innermost first (R198). -/
def indices : List Nat → Nat → List Nat
  | [], _ => []
  | c :: cs, n => (n % c) :: indices cs (n / c)

def Nest.total (x : Nest) : Nat := x.levels.foldl (fun a l => a * l.cnt) 1

/-- The fields of an `MMA` and an `LDSTAT` that the template makes, for the unit of the `MGO` word (R197). -/
def Nest.mma (x : Nest) (f : EngF) : EngF := { f with m := BitVec.ofNat 11 (bits x.tmpl 10 0), d := 0 }
def Nest.ldstat (x : Nest) (f : EngF) : EngF :=
  { f with m := BitVec.ofNat 11 (bits x.tmpl 21 11), lay := BitVec.ofNat 3 (bits x.tmpl 25 23), ri := bit x.tmpl 26, d := 0 }
def Nest.loads (x : Nest) : Bool := bit x.tmpl 22

/-- One iteration of a nest: streamed and stationary address, first row, accumulator, logical plane, zero. -/
structure Iter where
  s : Nat
  w : Nat
  row0 : Nat
  acc : Nat
  plane : Nat
  zero : Bool
  deriving DecidableEq, Repr

def Nest.iter (x : Nest) (n : Nat) : Iter :=
  let ix := indices (x.levels.map (·.cnt)) n
  let ls := ix.zip x.levels
  let sum := fun (k : Level → Int) => (ls.map (fun e => (e.1 : Int) * k e.2)).sum
  let m := x.tmpl
  { s := ((x.sbase : Int) + 128 * sum (·.ss)).toNat
    w := ((x.wbase : Int) + 128 * sum (·.sw)).toNat
    row0 := (((rowsOf x.desc).row0 : Int) + sum (·.ar)).toNat
    acc := (bits m 6 5 + (sum (fun l => (l.at_ : Int))).toNat) % 4
    plane := (b2n (bit m 4) + (sum (fun l => (b2n l.tog : Int))).toNat) % 2
    zero := bit m 7 && ls.all (fun e => !e.2.kz || e.1 == 0) }

/-- A span of addresses base + 128 × lo .. hi, of `len` bytes at each; an address below 0 is out of range. -/
def nestSpan (base : Nat) (x : Int × Int) (len : Nat) : Chk (Nat × Nat) :=
  let lo := (base : Int) + 128 * x.1
  if lo < 0 then .error (cADDR_RANGE, base) else .ok (lo.toNat, (128 * (x.2 - x.1)).toNat + len)

/-- `MGO` takes the shadow table of its first half (log 15). -/
def prepMgo (f : EngF) (e : Site) (va vb ve : Word) : Chk Cmd := do
  let qs := (halves f)
  let tab := e.tile.nest (qs.headD 0)
  let x := nestOf tab
  let fm := x.mma f
  let fl := x.ldstat f
  let t := bits fm.m 3 0
  let r := rowsOf x.desc
  chkLegal (Nat.testBit 0x3A03 t && !bit fm.m 10 && f.lay.toNat == rowLay t && (!x.loads || ldstatOk fl))
  let er := extremes (x.levels.map (fun l => (l.cnt, l.ar)))
  chkLegal (rowsZero x.desc && 0 <= (r.row0 : Int) + er.1 &&
    rowsIn qs ((r.row0 : Int) + er.1).toNat (r.n + (er.2 - er.1).toNat))
  chkLive e.tile (x.sbase :: (if x.loads then [x.wbase] else []))
  lineAligned x.sbase
  if x.loads then lineAligned x.wbase
  let sp ← nestSpan x.sbase (extremes (x.levels.map (fun l => (l.cnt, l.ss)))) (streamSpan 0 r t).2
  let sw ← nestSpan x.wbase (extremes (x.levels.map (fun l => (l.cnt, l.sw)))) (if x.loads then 128 * ldLines fl.m else 1)
  chkSpan e.tile sw
  let c ← e.make (.mgo f) f.d va vb ve qs (if x.loads then [sp, sw] else [sp]) []
  e.planeOk qs (if bit fm.m 4 || x.levels.any (fun l => l.tog && 1 < l.cnt) then 1 else 0)
  pure { c with nest := tab }

def execLdstat (f : EngF) (s : State) : Out :=
  engForm (.ldstat f) s true (prepLdstat f s.site (s.reg f.a) 0 0)
def execMma (f : EngF) (s : State) : Out :=
  engForm (.mma f) s true (prepMma f s.site (s.reg f.a) (s.reg f.b) 0)
def execAttn (f : EngF) (s : State) : Out :=
  engForm (.attn f) s true (prepAttn f s.site (s.reg f.a) (s.reg f.b) (s.reg f.e))
def execAclr (f : EngF) (s : State) : Out := engForm (.aclr f) s true (prepAclr f s.site 0 0 0)
def execArd (f : EngF) (s : State) : Out := engForm (.ard f) s true (prepArd f s.site (s.reg f.a) 0 0)
def execAwr (f : EngF) (s : State) : Out := engForm (.awr f) s true (prepAwr f s.site (s.reg f.a) 0 0)
def execAscl (f : EngF) (s : State) : Out :=
  engForm (.ascl f) s true (prepAscl f s.site (s.reg f.a) (s.reg f.b) 0)
def execMsmx (f : EngF) (s : State) : Out :=
  engForm (.msmx f) s true (prepMsmx f s.site (s.reg f.a) (s.reg f.b) 0)
def execMgo (f : EngF) (s : State) : Out := engForm (.mgo f) s true (prepMgo f s.site 0 0 0)

/-! ### Accumulators and planes -/

def Tile.acc (t : Tile) (k : Nat) : Acc := SMap.get {} t.accs k
def Tile.setAcc (t : Tile) (k : Nat) (a : Acc) : Tile := { t with accs := t.accs.put k a }
def Tile.plane (t : Tile) (k : Nat) : Plane := SMap.get {} t.planes k
def Acc.row (a : Acc) (i : Nat) : Nat := SMap.get 0 a.e i
def Acc.bad (a : Acc) (i : Nat) : Bool := SMap.get false a.poison i
def Acc.stat (a : Acc) (i : Nat) : RowStat := SMap.get {} a.stats i
/-- A row of 128 elements from its codes. -/
def rowNat (g : Nat → Nat) : Nat := (List.range 128).foldl (fun v c => v + g c % 2 ^ 32 * 2 ^ (32 * c)) 0
def Acc.setRow (a : Acc) (i v : Nat) (bad : Bool) : Acc :=
  { a with e := SMap.set 0 a.e i v, poison := SMap.set false a.poison i bad }
/-- Bits `w × e` of a number. -/
def at_ (w v e : Nat) : Nat := v / 2 ^ (w * e) % 2 ^ w

/-! ### Products (R56, R57) -/

/-- The pairings of R56: exact integers, values through f32, and MX blocks. -/
inductive Pairing where
  | int | fp | mx
  deriving DecidableEq, Repr

def pairing (pt depth t : Nat) : Option Pairing :=
  if pt <= 1 && t <= 1 then some .int
  else if (pt == 11 || pt == 12) && (t == 11 || t == 12) then some .fp
  else if pt == 9 && t == 9 then some .fp
  else if pt == 13 && t == 13 then some .mx
  else if pt == 14 && t == 0 then some .int
  else if pt == 14 && t == 11 then (if depth == 2 || depth == 4 || depth == 8 then some .fp else none)
  else none

/-- The integer that a stationary code stands for; 2v_k for sheaf (R47). -/
def planeInt (pl : Plane) (c : Nat) : Int := if pl.ty == 14 then sheaf2v (c % 256) pl.depth else intVal pl.ty c
/-- The value that a stationary code stands for. -/
def planeVal (pl : Plane) (c : Nat) (fl1 : Bool) : FVal :=
  if pl.ty == 14 then (FVal.ofInt (sheaf2v (c % 256) pl.depth)).shift (-1) else valueOf pl.ty (c % 2 ^ width pl.ty) fl1

/-- The sum of one pass over a column, as a value of f32 (R57). -/
def dotFp (pl : Plane) (t col row : Nat) (fl0 fl1 : Bool) : FVal :=
  let prod := fun k =>
    let v := FVal.mul (planeVal pl (at_ 16 col k) fl1) (valueOf t (at_ (width t) row k) fl1)
    if t == 9 then f32Step fl0 v else v
  (List.range 127).foldl (fun s k => f32Step fl0 (FVal.add s (prod (k + 1)) false)) (prod 0)

/-- The sum of four MX blocks (R57); `row` is a line of blocks with scales at bytes 112 on. -/
def dotMx (col scales row : Nat) (fl0 : Bool) : FVal :=
  let v := fun c => (fmtOf 13).value (c % 16)
  let block := fun b =>
    let q := (List.range 31).foldl (fun s j =>
        FVal.add s (FVal.mul (v (at_ 16 col (32 * b + j + 1))) (v (at_ 4 row (32 * b + j + 1)))) false)
      (FVal.mul (v (at_ 16 col (32 * b))) (v (at_ 4 row (32 * b))))
    f32Step fl0 ((q.scale8 (at_ 8 scales b)).scale8 (at_ 8 row (112 + b)))
  [1, 2, 3].foldl (fun s b => f32Step fl0 (FVal.add s (block b) false)) (block 0)

/-- An accumulator element after one pass (R57). -/
def passElem (k : Pairing) (pl : Plane) (t n row old : Nat) (fl0 fl1 : Bool) : Nat :=
  let col := SMap.get 0 pl.e n
  match k with
  | .int =>
    let s := (List.range 128).foldl (fun (a : Int) i => a + planeInt pl (at_ 16 col i) * intVal t (at_ 8 row i)) 0
    (((old : Int) + s) % (2 ^ 32 : Nat)).toNat
  | .fp => roundV 8 { fl0 := fl0 } (FVal.add (f32 old) (dotFp pl t col row fl0 fl1) false)
  | .mx => roundV 8 { fl0 := fl0 } (FVal.add (f32 old) (dotMx col (SMap.get 0 pl.scale n) row fl0) false)

/-! ### The order of accesses to one row (R189) -/

/-- The accumulator tiles (array × 4 + acc) and rows that an unfinished command has still to reach. -/
def Cmd.rowsLeft (c : Cmd) : List Nat × Nat × Nat :=
  let two := fun (q : Nat) (acc : Nat) => q / 2 * 4 + acc
  let q := c.queues.headD 0
  let span := fun (r : Rows) => (r.row0 + c.prog, r.row0 + r.n)
  match c.i with
  | .mma f => ([two q (bits f.m 6 5)], span (rowsOf c.vb))
  | .attn f => ([4 + bits f.m 7 6], span (rowsOf c.vb))
  | .aclr f => ([two q (bits f.m 1 0)], (if c.queues.any (· % 2 == 0) then 0 else 64) + c.prog,
      if c.queues.any (· % 2 == 1) then 128 else 64)
  | .ard f => ([two q (bits f.m 1 0)], span (drainRows c.va))
  | .awr f => ([two q (bits f.m 1 0)], span (drainRows c.va))
  | .ascl f => ([two q (bits f.m 1 0)], span (rowsOf c.vb))
  | .msmx f => ([two q (bits f.m 1 0)], span (rowsOf c.vb))
  | .mgo _ =>
    let x := nestOf c.nest
    let e := extremes (x.levels.map (fun l => (l.cnt, l.ar)))
    let r := rowsOf x.desc
    ((List.range 4).map (two q), ((r.row0 : Int) + e.1).toNat, ((r.row0 : Int) + e.2).toNat + r.n)
  | _ => ([], 0, 0)

/-- Whether an earlier command of the array has still to reach a row. -/
def Tile.rowBusy (t : Tile) (c : Cmd) (acc row : Nat) : Bool :=
  t.cmds.any fun d => d.seq < c.seq && d.st != .finished &&
    (let (as, lo, hi) := d.rowsLeft; as.contains acc && lo <= row && row < hi)

/-- Whether a command sets the type of its accumulator tile, when its row loop is over (R195, R199, R200, R204, R205). -/
def Cmd.setsType (c : Cmd) : Bool :=
  match c.i with
  | .mma _ | .mgo _ | .attn _ | .aclr _ | .awr _ => true
  | .msmx f => !bit f.m 2
  | _ => false
/-- Whether it reads it (R201, R202). -/
def Cmd.readsType (c : Cmd) : Bool := match c.i with | .ard _ | .ascl _ => true | _ => false

/-- Whether an earlier command of the array, of a kind, has still to reach rows of an accumulator tile. -/
def Tile.tileBusy (t : Tile) (c : Cmd) (acc : Nat) (k : Cmd → Bool) : Bool :=
  t.cmds.any fun d => d.seq < c.seq && d.st != .finished && k d && (let (as, lo, hi) := d.rowsLeft; as.contains acc && lo < hi)
/-- Whether a row may not be read under the tile's type yet: the row, or the type, has an earlier command before it. -/
def Tile.typedBusy (t : Tile) (c : Cmd) (acc row : Nat) : Bool := t.rowBusy c acc row || t.tileBusy c acc Cmd.setsType
/-- Set the type of an accumulator tile, after every earlier command that reads or sets it (R189). -/
def Tile.setType (t : Tile) (acc : Nat) (int : Bool) : Tile := { t with accs := SMap.set {} t.accs acc { (SMap.get {} t.accs acc : Acc) with int := int } }
def Tile.typeBusy (t : Tile) (c : Cmd) (acc : Nat) : Bool := t.tileBusy c acc (fun d => d.setsType || d.readsType)

/-! ### Planes in use (R188) -/

/-- Of a nest's plane toggles, the parities that the iterations after number `n` have, as (even, odd); recursion on the levels,
innermost first. -/
def paritiesAfter : List Level → Nat → Bool × Bool
  | [], _ => (false, false)
  | l :: ls, n =>
    let flip := fun (b : Bool) (x : Bool × Bool) => if b then (x.2, x.1) else x
    let i := n % l.cnt
    let outer := ((indices (ls.map (·.cnt)) (n / l.cnt)).zip ls).foldl (fun b e => b ^^ (e.2.tog && e.1 % 2 == 1)) false
    let left := l.cnt - 1 - i
    let here := if left == 0 then (false, false) else if !l.tog then (true, false) else if 1 < left then (true, true)
      else flip ((i + 1) % 2 == 1) (true, false)
    let here := flip outer here
    let (e, o) := paritiesAfter ls (n / l.cnt)
    let both := l.tog && 1 < l.cnt && (e || o)
    (here.1 || e || both, here.2 || o || both)

/-- The logical planes of the iterations after number `n`. -/
def Nest.planesAfter (x : Nest) (n : Nat) : List Nat :=
  let b := b2n (bit x.tmpl 4)
  let (e, o) := paritiesAfter x.levels n
  (if e then [b] else []) ++ (if o then [1 - b] else [])

/-- Whether an iteration loads its plane first (R198). -/
def Nest.loadsAt (x : Nest) (n : Nat) : Bool :=
  x.loads && (n == 0 || (x.iter n).w != (x.iter (n - 1)).w || (x.iter n).plane != (x.iter (n - 1)).plane)
/-- Whether an iteration after the first may load. -/
def Nest.moves (x : Nest) : Bool := x.loads && x.levels.any (fun l => 1 < l.cnt && (l.sw != 0 || l.tog))

/-- The physical planes that logical planes of a command's halves are. -/
def Cmd.phys (cfg : Cfg) (p t : Nat) (c : Cmd) (ls : List Nat) : List Nat :=
  c.queues.flatMap (fun q => ls.map (physPlane cfg p t c.map q))

/-- The physical planes that rows of a command still select: for a nest those of every iteration that is left. -/
def Cmd.selects (cfg : Cfg) (p t : Nat) (c : Cmd) : List Nat :=
  match c.i with
  | .mma f => c.phys cfg p t [b2n (bit f.m 4)]
  | .attn f => c.queues.map (fun q => physPlane cfg p t c.map q (b2n (if q < 2 then bit f.m 4 else bit f.m 5)))
  | .mgo _ => let x := nestOf c.nest; c.phys cfg p t ((x.iter c.prog).plane :: x.planesAfter c.prog)
  | _ => []

/-- Those of its rows in hand: for a nest the rows of the iteration that streams now. -/
def Cmd.inHand (cfg : Cfg) (p t : Nat) (c : Cmd) : List Nat :=
  match c.i with
  | .mgo _ => if c.aux.getD 0 0 == 1 then c.phys cfg p t [((nestOf c.nest).iter c.prog).plane] else []
  | _ => c.selects cfg p t

/-- The physical planes that a command has still to load. -/
def Cmd.loads (cfg : Cfg) (p t : Nat) (c : Cmd) : List Nat :=
  match c.i with
  | .ldstat f => c.phys cfg p t [b2n (bit f.m 4)]
  | .mgo _ =>
    let x := nestOf c.nest
    c.phys cfg p t ((if c.aux.getD 0 0 == 0 && x.loadsAt c.prog then [(x.iter c.prog).plane] else []) ++
      (if x.moves then x.planesAfter c.prog else []))
  | _ => []

/-- Whether planes may be selected: every earlier load of them has completed. -/
def Tile.loaded (cfg : Cfg) (p t : Nat) (tl : Tile) (c : Cmd) (planes : List Nat) : Bool :=
  !tl.cmds.any (fun d => d.seq < c.seq && d.st != .finished && (d.loads cfg p t).any planes.contains)
/-- Whether planes may be loaded: no row of a started command that has not completed selects them. Of a later command's nest only
the rows in hand count: the others come after this load. -/
def Tile.idle (cfg : Cfg) (p t : Nat) (tl : Tile) (c : Cmd) (planes : List Nat) : Bool :=
  !tl.cmds.any (fun d => d.seq != c.seq && d.st == .running &&
    (if d.seq < c.seq then d.selects cfg p t else d.inHand cfg p t).any planes.contains)

/-- The plane conditions of a command's start (R188); those of the later steps of a nest are met one by one. -/
def Tile.planesOk (cfg : Cfg) (p t : Nat) (tl : Tile) (c : Cmd) : Bool :=
  let load := fun (ps : List Nat) => tl.loaded cfg p t c ps && tl.idle cfg p t c ps
  match c.i with
  | .ldstat _ => load (c.loads cfg p t)
  | .mma _ => tl.loaded cfg p t c (c.selects cfg p t)
  | .attn _ => tl.loaded cfg p t c (c.selects cfg p t)
  | .mgo _ =>
    let x := nestOf c.nest
    if x.loads then load (c.phys cfg p t [(x.iter 0).plane]) else tl.loaded cfg p t c (c.selects cfg p t)
  | _ => true

/-! ### Loading a plane (R193) -/

/-- The layout that line k of an `LDSTAT` source has to state. -/
def ldTag (f : EngF) (k : Nat) : Nat :=
  if bits f.m 3 0 == 14 then (if k < 32 then 4 else if k < 64 then 5 else 6) else f.lay.toNat

/-- The plane that the source bytes make. -/
def planeFrom (f : EngF) (b : Nat) (poison : Bool) : Plane :=
  let t := bits f.m 3 0
  let tr := bit f.m 9
  let pos := fun (k n : Nat) => if tr then 128 * k + n else 128 * n + k
  let code := fun (k n : Nat) =>
    if t == 9 then at_ 16 b (pos k n)
    else if t == 13 then at_ 4 b (256 * n + k)
    else if t == 14 then at_ 2 b (pos k n) * 64 + at_ 2 b (16384 + pos k n) * 16 + at_ 4 b (16384 + pos k n)
    else at_ 8 b (pos k n)
  let col := fun n => (List.range 128).foldl (fun v k => v + code k n * 2 ^ (16 * k)) 0
  let scl := fun n => if t == 13 then at_ 32 b (32 * n + 28) else 0
  let tab := fun (g : Nat → Nat) => (List.range 128).foldl (fun m n => SMap.set 0 m n (g n)) []
  { e := tab col, scale := tab scl, ty := t,
    depth := match bits f.m 6 5 with | 0 => 8 | 1 => 4 | _ => 2,
    axis := match bits f.m 8 7 with | 0 => 0 | 1 => (if tr then 1 else 2) | _ => (if tr then 2 else 1),
    poison := poison }

/-- Read the next line of a plane's source, or put the whole plane in place after the last. -/
def ldStep (p t : Nat) (tl : Tile) (c : Cmd) (f : EngF) (a : Nat) (planes : List Nat) : E (Cmd × Tile × Bool) := do
  let k := c.buf.length / 128
  let (d, tl) ← tl.cmdRead p t c (a + 128 * k) 128 (some (ldTag f k)) f.ri
  let c := { c with buf := c.buf ++ d }
  if k + 1 < ldLines f.m then pure (c, tl, false)
  else
    let pl := planeFrom f (Data.nat c.buf) (Data.poison c.buf)
    pure ({ c with buf := [] }, { tl with planes := planes.foldl (fun m q => m.put q pl) tl.planes }, true)

/-! ### Streaming rows (R195) -/

/-- The halves of an array that rows pass through. -/
def rowHalves (row0 n : Nat) : List Nat := (if row0 < 64 then [0] else []) ++ (if 64 < row0 + n then [1] else [])

/-- What the planes of a command have to hold before any of its rows (R59, R195, R204). -/
def fit (planes : List Plane) (ok : Plane → Bool) : E Unit :=
  if planes.any (·.axis == 1) then .error (.fault cQUANT_AXIS 0)
  else if planes.all ok then .ok () else .error (.fault cILLOP 0)
def Plane.pairs (ty : Nat) (pl : Plane) : Bool := (pairing pl.ty pl.depth ty).isSome
/-- Whether a pairing of a streamed type is the exact one of integers (R56), so that the tile becomes INT32. -/
def streamsInt (ty : Nat) : Bool := ty <= 1

/-- One streamed row into row i of accumulator `acc` (array × 4 + acc). -/
def mmaRow (p t : Nat) (tl : Tile) (c : Cmd) (f : EngF) (pl : Plane) (a acc i : Nat) (zero : Bool) : E Tile := do
  let ty := bits f.m 3 0
  match pairing pl.ty pl.depth ty with
  | none => .error (.fault cILLOP 0)
  | some k =>
    if tl.rowBusy c acc i then .error (.stall .none)
    else
      let (d, tl) ← tl.cmdRead p t c a (128 * rowLines ty) (some f.lay.toNat) f.ri
      let x := tl.acc acc
      let row := Data.nat d
      let old := if zero then 0 else x.row i
      let v := rowNat (fun n => passElem k pl ty n row (at_ 32 old n) (bit f.m 8) (bit f.m 9))
      let bad := (!zero && x.bad i) || Data.poison d || pl.poison
      pure (tl.setAcc acc (x.setRow i v bad))

/-! ### Attention (R61, R204) -/

/-- The attention descriptor of 32 bytes. -/
structure AttnD where
  scale : Nat
  qpos : Nat
  kpos : Nat
  nkeys : Nat
  kind : Nat
  mask : Nat

def attnD (b : Nat) : AttnD :=
  { scale := at_ 32 b 0, qpos := at_ 32 b 1, kpos := at_ 32 b 2, nkeys := at_ 32 b 3, kind := at_ 8 b 16, mask := at_ 32 b 5 }
def attnOk (b : Nat) : Bool :=
  let d := attnD b
  d.kind <= 3 && 1 <= d.nkeys && d.nkeys <= 128 && b / 2 ^ (8 * 17) % 2 ^ 24 == 0 && b / 2 ^ (8 * 24) % 2 ^ 64 == 0

/-- A softmax step of one row (R61): new statistics, alpha, and the probabilities as f32 codes. -/
def softmaxStep (st : RowStat) (ts : List Nat) : RowStat × Nat × List Nat :=
  let m := f32 st.m.toNat
  let mn := ts.foldl (fun a x => FVal.minMax true a (f32 x)) m
  let mc := roundV 8 {} mn
  let (alpha, ps) := if mn == .inf true then (0x3F800000, ts.map (fun _ => 0))
    else
      let e := fun (x : FVal) => exp2Ref (roundV 8 {} (FVal.add x mn.neg false))
      (e m, ts.map (fun x => e (f32 x)))
  let s := match ps with | [] => 0 | q :: qs => qs.foldl (f32Add false) q
  ({ m := BitVec.ofNat 32 mc, l := BitVec.ofNat 32 (f32Add false (f32Mul false st.l.toNat alpha) s) }, alpha, ps)

/-- The planes of K and V that a half of `ATTN` reaches, and the types that they may have (R204). -/
def attnPlanes (cfg : Cfg) (p t : Nat) (tl : Tile) (c : Cmd) (f : EngF) (half : Nat) : Plane × Plane :=
  (tl.plane (physPlane cfg p t c.map half (b2n (bit f.m 4))), tl.plane (physPlane cfg p t c.map (2 + half) (b2n (bit f.m 5))))
def attnTypes (f : EngF) (x : Plane × Plane) : Bool :=
  let bf := fun (ty : Nat) => if ty == 9 then [9] else [11, 12]
  (bf (bits f.m 3 0)).contains x.1.ty && (bf (if bit f.m 8 then 11 else 9)).contains x.2.ty

/-- One row of `ATTN`. The tile keeps type FP32; old patterns of an INT32 tile are read as f32, log 114. -/
def attnRow (cfg : Cfg) (p t : Nat) (tl : Tile) (c : Cmd) (f : EngF) (i : Nat) : E Tile := do
  let ty := bits f.m 3 0
  let r := rowsOf c.vb
  let a := c.va.toNat + 128 * r.stride * (i - r.row0)
  let (pa, pb) := attnPlanes cfg p t tl c f (i / 64)
  let pf := if bit f.m 8 then 11 else 9
  let acc := 4 + bits f.m 7 6
  if tl.rowBusy c acc i then .error (.stall .none)
  else
    let db := c.aux.getD 0 0
    let d := attnD db
    if !attnOk db then .error (.fault cILLOP (localEA p t c.ve.toNat))
    else
      let (mk, tl) ← if 2 <= d.kind then tl.cmdRead p t c (d.mask + 16 * (i - r.row0)) 16 none true else .ok ([], tl)
      let (q, tl) ← tl.cmdRead p t c a (128 * rowLines ty) (some f.lay.toNat) f.ri
      let row := Data.nat q
      let mask := Data.nat mk
      let masked := fun (j : Nat) => d.nkeys <= j ||
        ((d.kind == 1 || d.kind == 3) && d.qpos + (i - r.row0) < d.kpos + j) || (2 <= d.kind && mask.testBit j)
      let score := fun j => passElem .fp pa ty j row 0 false false
      let ts := (List.range 128).map (fun j => if masked j then 0xFF800000 else f32Mul false (score j) d.scale)
      let x := tl.acc acc
      let first := bit f.m 9
      let st := if first then {} else x.stat i
      let (st', alpha, ps) := softmaxStep st ts
      let old := if first then 0 else x.row i
      let prow := ((ps.map (fun v => roundV pf {} (f32 v))).zip (List.range 128)).foldl
        (fun v e => v + e.1 * 2 ^ (width pf * e.2)) 0
      let v := rowNat (fun n => passElem .fp pb pf n prow (f32Mul false (at_ 32 old n) alpha) false false)
      let bad := x.bad i || Data.poison q || Data.poison mk || pa.poison || pb.poison
      let x' := { x.setRow i v bad with stats := SMap.set {} x.stats i st' }
      pure (tl.setAcc acc x')

/-! ### Accumulator access (R199 to R202, R205) -/

/-- Rounding of an accumulator element (R51). -/
def accRnd (c : Cmd) (rc : Nat) (sat fl0 : Bool) (i n : Nat) : Rnd :=
  { rc := rc, sat := sat, fl0 := fl0,
    u := if rc == 4 then srHash c.seed.toNat c.salt.toNat (i * 128 + n) else 0 }

/-- A drained element (R201). The integer 0 is taken as +0: with a negative scale it drains as -0 (log 114). -/
def drain (c : Cmd) (f : EngF) (int : Bool) (code i n scale act : Nat) : Nat :=
  let ty := bits f.m 5 2
  let rc := bits f.m 8 6
  let sat := bit f.m 9
  let fl0 := bit f.m 10
  let hv : Int := b2n (bit c.va 47)
  let x := if int then FVal.ofInt (sint code 32) else f32 code
  let k := accRnd c rc sat fl0 i n
  if bit c.va 48 then
    let y := f32Step fl0 ((FVal.mul x (f32 scale)).shift (-hv))
    roundV ty k (FVal.mul y (f32 act))
  else if int && ty <= 7 then intFit ty sat (sint (roundV 6 { rc := rc, u := k.u } (x.shift (-hv))) 64)
  else roundV ty k (x.shift (-hv))

def ardRow (p t : Nat) (tl : Tile) (c : Cmd) (f : EngF) (acc i : Nat) : E Tile := do
  let w := width (bits f.m 5 2)
  let r := drainRows c.va
  if tl.typedBusy c acc i then .error (.stall .none)
  else
    let sl := bits c.va 63 49 * 128
    let (sc, tl) ← if bit c.va 48 then tl.cmdRead p t c sl 512 none true else .ok ([], tl)
    let (ac, tl) ← if bit c.va 48 then tl.cmdRead p t c (sl + 512) 128 none true else .ok ([], tl)
    let x := tl.acc acc
    let row := x.row i
    let scn := Data.nat sc
    let codes := fun n => drain c f x.int (at_ 32 row n) i n (at_ 32 scn n) (Data.nat ac % 2 ^ 32)
    let bytes := (List.range 128).flatMap (fun n => leBytes (w / 8) (codes n))
    let ea := bits c.va 31 0 + 16 * w * (i - r.row0)
    let a ← tl.cmdAddr c ea (localEA p t ea)
    let per := 1024 / w
    pure ((List.range (w / 8)).foldl (fun tl q =>
      let bad := x.bad i || Data.poison ac || Data.poison ((sc.drop (4 * per * q)).take (4 * per))
      tl.wrLine (arrayRank (c.queues.headD 0)) (a + 128 * q) ((bytes.drop (128 * q)).take 128) f.lay bad) tl)

/-- One row of `AWR`: the row's poison becomes that of its source lines (R200, log 114). -/
def awrRow (p t : Nat) (tl : Tile) (c : Cmd) (f : EngF) (acc i : Nat) : E Tile := do
  let r := drainRows c.va
  if tl.rowBusy c acc i then .error (.stall .none)
  else
    let (d, tl) ← tl.cmdRead p t c (bits c.va 31 0 + 512 * (i - r.row0)) 512 (some f.lay.toNat) f.ri
    pure (tl.setAcc acc ((tl.acc acc).setRow i (Data.nat d) (Data.poison d)))

def asclRow (p t : Nat) (tl : Tile) (c : Cmd) (f : EngF) (acc i : Nat) : E Tile := do
  let r := rowsOf c.vb
  let mode := bits f.m 3 2
  if tl.typedBusy c acc i then .error (.stall .none)
  else
    -- a line of factors states layout 000 (R191)
    let (d, tl) ← match mode with
      | 0 => .ok ([], tl)
      | 1 => tl.cmdRead p t c (c.va.toNat + 4 * (i - r.row0)) 4 (some 0) false
      | _ => tl.cmdRead p t c c.va.toNat 512 (some 0) false
    let x := tl.acc acc
    -- the line of factors that the row used last (R270)
    let used : Word := match mode with
      | 0 => 0
      | 1 => localEA p t (c.va.toNat + 128 * ((i - r.row0) / 32))
      | _ => localEA p t (c.va.toNat + 384)
    if x.int then .error (.fault cILLOP used)
    let fac := fun n => match mode with
      | 0 => bits c.va 31 0
      | 1 => Data.nat d
      | _ => at_ 32 (Data.nat d) n
    let v := rowNat (fun n => roundV 8 (accRnd c (bits f.m 6 4) false (bit f.m 7) i n)
      (FVal.mul (f32 (at_ 32 (x.row i) n)) (f32 (fac n))))
    pure (tl.setAcc acc (x.setRow i v (x.bad i || Data.poison d)))

/-- The statistics of a row are stored as a full-line write that keeps the line's other bytes (R190, R205, log 16). `fin` reads the
patterns of an INT32 tile as f32, and writes f32 (log 114). -/
def msmxRow (p t : Nat) (tl : Tile) (c : Cmd) (f : EngF) (acc i : Nat) : E Tile := do
  let k := i - (rowsOf c.vb).row0
  let ea := c.va.toNat + 8 * k
  if tl.rowBusy c acc i then .error (.stall .none)
  else if bit f.m 2 then do
    let (d, tl) ← tl.cmdRead p t c ea 8 (some 0) false
    let x := tl.acc acc
    let st : RowStat := { m := BitVec.ofNat 32 (at_ 32 (Data.nat d) 0), l := BitVec.ofNat 32 (at_ 32 (Data.nat d) 1) }
    pure (tl.setAcc acc { x with stats := SMap.set {} x.stats i st, poison := SMap.set false x.poison i (x.bad i || Data.poison d) })
  else do
    let x := tl.acc acc
    let st := x.stat i
    let v := rowNat (fun n => divRef (at_ 32 (x.row i) n) st.l.toNat)
    let tl := tl.setAcc acc (x.setRow i v (x.bad i))
    if !bit f.m 3 then pure tl
    else do
      let a ← tl.cmdAddr c ea (localEA p t ea)
      let line := a / 128
      let w : LineWrite := { rank := 0, full := false, off := a % 128, tag := 0, poison := false,
                             bytes := leBytes 8 (st.m.toNat + st.l.toNat * 2 ^ 32) }
      let data := overlay (Memory.read tl.scr (128 * line) 128) w
      let bad := x.bad i || (tl.lineNow line).poison && (k % 16 != 0 || (rowsOf c.vb).n < k + 16)
      pure (tl.wrLine (arrayRank (c.queues.headD 0)) (128 * line) (leBytes 128 data) 0 bad)

def aclrRow (tl : Tile) (c : Cmd) (acc i : Nat) : E Tile :=
  if tl.rowBusy c acc i then .error (.stall .none)
  else
    let x := tl.acc acc
    .ok (tl.setAcc acc { x.setRow i 0 false with stats := SMap.set {} x.stats i {} })

/-! ### Micro-steps -/

/-- A row of an accumulator tile: with the last one of a row loop the tile takes the type that the loop leaves (R195). -/
def rowOf (tl : Tile) (c : Cmd) (acc : Nat) (type : Option Bool) (last : Bool) (row : E Tile) : E Tile :=
  match if last then type else none with
  | none => row
  | some b => if tl.typeBusy c acc then .error (.stall .none) else do let tl ← row; pure (tl.setType acc b)

/-- A form that goes row by row: the next row, and the end after the last. -/
def rowStep (tl : Tile) (c : Cmd) (row0 n acc : Nat) (type : Option Bool) (g : Nat → E Tile) : E Tile := do
  let last := n <= c.prog + 1
  let tl ← rowOf tl c acc type last (g (row0 + c.prog))
  pure (tl.setCmd { c with prog := c.prog + 1, stall := .none, st := if last then .finished else .running })

/-- A micro-step of `MGO` (R198): phase 0 loads the iteration's plane when it must, phase 1 streams its rows. -/
def mgoStep (cfg : Cfg) (p t : Nat) (tl : Tile) (c : Cmd) (f : EngF) : E Tile := do
  let x := nestOf c.nest
  let it := x.iter c.prog
  let fm := x.mma f
  let fl := x.ldstat f
  let r := rowsOf x.desc
  let phase := c.aux.getD 0 0
  let k := c.aux.getD 1 0
  let planes := c.phys cfg p t [it.plane]
  if phase == 0 then
    if x.loadsAt c.prog then
      if !tl.loaded cfg p t c planes || !tl.idle cfg p t c planes then .error (.stall .none)
      else do
        let (c, tl, done) ← ldStep p t tl c fl it.w planes
        pure (tl.setCmd { c with stall := .none, aux := if done then [1, 0] else [0, 0] })
    else pure (tl.setCmd { c with aux := [1, 0] })
  else if !tl.loaded cfg p t c planes then .error (.stall .none)
  else do
    let i := it.row0 + k
    let q := c.queues.headD 0
    let pl := fun (h : Nat) => tl.plane (physPlane cfg p t c.map (q / 2 * 2 + h) it.plane)
    if k == 0 then fit ((rowHalves it.row0 r.n).map pl) (Plane.pairs (bits fm.m 3 0))
    let acc := q / 2 * 4 + it.acc
    let tl ← rowOf tl c acc (some (streamsInt (bits fm.m 3 0))) (r.n <= k + 1)
      (mmaRow p t tl c fm (pl (i / 64)) (it.s + 128 * r.stride * k) acc i it.zero)
    if k + 1 < r.n then pure (tl.setCmd { c with aux := [1, k + 1], stall := .none })
    else pure (tl.setCmd { c with aux := [0, 0], prog := c.prog + 1, stall := .none,
                                  st := if c.prog + 1 < x.total then .running else .finished })

/-- One micro-step of a running M command. -/
def matrixStep (cfg : Cfg) (p t : Nat) (tl : Tile) (c : Cmd) : E Tile :=
  let q := c.queues.headD 0
  let acc := fun n => q / 2 * 4 + n
  match c.i with
  | .ldstat f => do
    let (c', tl, done) ← ldStep p t tl c f c.va.toNat (c.loads cfg p t)
    pure (tl.setCmd { c' with prog := c.prog + 1, stall := .none, st := if done then .finished else .running })
  | .mma f => do
    let r := rowsOf c.vb
    let pl := fun (h : Nat) => tl.plane (physPlane cfg p t c.map (q / 2 * 2 + h) (b2n (bit f.m 4)))
    if c.prog == 0 then fit ((rowHalves r.row0 r.n).map pl) (Plane.pairs (bits f.m 3 0))
    rowStep tl c r.row0 r.n (acc (bits f.m 6 5)) (some (streamsInt (bits f.m 3 0))) fun i =>
      mmaRow p t tl c f (pl (i / 64))
        (c.va.toNat + 128 * r.stride * (i - r.row0)) (acc (bits f.m 6 5)) i (bit f.m 7)
  | .attn f => do
    let r := rowsOf c.vb
    let hs := (rowHalves r.row0 r.n).map (attnPlanes cfg p t tl c f)
    if c.prog == 0 then fit (hs.flatMap (fun x => [x.1, x.2])) (fun _ => hs.all (attnTypes f))
    let (d, tl) ← if c.prog == 0 then tl.cmdRead p t c c.ve.toNat 32 none true else .ok ([], tl)
    let c := if c.prog == 0 then { c with aux := [Data.nat d] } else c
    rowStep tl c r.row0 r.n (4 + bits f.m 7 6) (some false) (attnRow cfg p t tl c f)
  | .aclr f =>
    let lo := if c.queues.any (· % 2 == 0) then 0 else 64
    let k := acc (bits f.m 1 0)
    rowStep tl c lo ((if c.queues.any (· % 2 == 1) then 128 else 64) - lo) k (some (bit f.m 2)) (aclrRow tl c k)
  | .ard f => let r := drainRows c.va; let k := acc (bits f.m 1 0); rowStep tl c r.row0 r.n k none (ardRow p t tl c f k)
  | .awr f =>
    let r := drainRows c.va
    let k := acc (bits f.m 1 0)
    rowStep tl c r.row0 r.n k (some (bits f.m 5 2 == 4)) (awrRow p t tl c f k)
  | .ascl f => let r := rowsOf c.vb; let k := acc (bits f.m 1 0); rowStep tl c r.row0 r.n k none (asclRow p t tl c f k)
  | .msmx f =>
    let r := rowsOf c.vb
    let k := acc (bits f.m 1 0)
    rowStep tl c r.row0 r.n k (if bit f.m 2 then none else some false) (msmxRow p t tl c f k)
  | .mgo f => mgoStep cfg p t tl c f
  | _ => .ok tl

end Sys2Proof.Machine
end

