-- ==== Sys2Proof/Machine/Job.lean ====
section
/-! DEFINITION. How a command of the copy engine runs: engine addresses (R208), reads and writes of a line's part at any
of them (R209, R210, R389), and the piece of data in hand. -/

namespace Sys2Proof.Machine

/-- A step of a command: it may change the state even where it cannot go on. -/
abbrev EM (α : Type) := ExceptT Halt (StateM State) α

/-- A command in progress: peer, tile, number; and the address that its causes name, where that is another than the one at
fault (R304). -/
structure Job where
  p : Nat
  t : Nat
  seq : Nat
  names : Option Word := none

/-- Replace a command of a tile. -/
def State.modCmd (s : State) (p t n : Nat) (g : Cmd → Cmd) : State :=
  s.modTile p t fun tl => { tl with cmds := tl.cmds.map (fun c => if c.seq == n then g c else c) }

def Job.of (j : Job) (s : State) : Cmd :=
  match (s.tile j.p j.t).cmd j.seq with | some c => c | none => { seq := j.seq, i := .texit default_, st := .finished }
where
  default_ : RegF := ⟨true, 0, 0, 0, 0, 0, 0, 0⟩

/-- The command as it stands. -/
def Job.cmd (j : Job) : EM Cmd := do pure (j.of (← get))
/-- Change the command. -/
def Job.upd (j : Job) (g : Cmd → Cmd) : EM Unit := modify (fun s => s.modCmd j.p j.t j.seq g)
/-- Stop for now. -/
def halt (x : Stall) : EM α := throw (.stall x)
/-- End with a cause (R212). -/
def fail (cause : Nat) (addr : Word) : EM α := throw (.fault cause addr)
/-- End the command well. -/
def Job.done (j : Job) : EM Unit := j.upd (fun c => { c with st := .finished, stall := .none, buf := [] })

/-- Record a cause without ending the command: the record keeps the first cause (R218, R221, R271). -/
def Job.note (j : Job) (cause : Nat) (addr : Word) : EM Unit := do
  let c ← j.cmd
  modify (fun s => s.modTile j.p j.t (fun tl => tl.record c cause (j.names.getD addr)))
  j.upd (fun c => { c with err := true })

/-! ### Engine addresses (R208) -/

/-- The byte that an engine address names; a scratchpad address at or beyond 2^32 breaks R122. -/
inductive EAddr where
  | glob (va : Nat)
  | scr (p t a : Nat)
  deriving DecidableEq, Repr

/-- Read an engine address: bits that must be 0 in a scratchpad address put it out of range. -/
def eaddr (w : Word) : EAddr :=
  if bit w 63 then .scr (bits w 56 48) (bits w 47 43) (bits w 42 0 + bits w 62 57 * 2 ^ 43) else .glob w.toNat

/-- Whether the bits that R208 requires to be 0 are. -/
def eaddrOk (w : Word) : Bool := bits w 62 57 == 0 && (!bit w 63 || bits w 42 32 == 0)
/-- A scratchpad address of a peer that does not exist (R452). -/
def eaddrLost (w : Word) (peers : Nat) : Bool := bit w 63 && peers <= bits w 56 48

/-- An address some bytes on: a global one modulo 2^64. -/
def EAddr.plus (x : EAddr) (o : Int) : EAddr :=
  match x with
  | .glob va => .glob (((va : Int) + o) % (2 ^ 64 : Nat)).toNat
  | .scr p t a => let n := (a : Int) + o; .scr p t (if n < 0 then 2 ^ 32 else n.toNat)

def EAddr.word (x : EAddr) : Word :=
  match x with
  | .glob va => BitVec.ofNat 64 va
  | .scr p t a => localEA p t a

/-- Bytes up to the end of its line. -/
def EAddr.toLineEnd (x : EAddr) : Nat :=
  match x with
  | .glob va => 128 - va % 128
  | .scr _ _ a => 128 - a % 128

/-- The local scratchpad address of an operand, if it is one. -/
def EAddr.here (x : EAddr) (p t : Nat) : Option Nat :=
  match x with
  | .scr p' t' a => if p' == p && t' == t then some a else none
  | .glob _ => none

/-- The checks of an engine address at issue (R212, R452). -/
def Site.chkEA (e : Site) (w : Word) : Chk Unit := chkLegal (eaddrOk w && !eaddrLost w e.peers)
/-- The span of local scratchpad that an operand's extent covers. -/
def Site.localSpan (e : Site) (w : Word) (len : Nat) : List (Nat × Nat) :=
  match (eaddr w).here e.p e.t with | some a => [(a, len)] | none => []

/-! ### Reaching a tile or a frame (R208, R368) -/

/-- Whether the target tile's operator belongs to a partition of the issuer's realm. -/
def State.tileOk (s : State) (p part p' t' : Nat) : Bool :=
  match (s.tile p' t').bound with
  | none => false
  | some o =>
    let x : Op := SMap.get {} (s.die p').ops o
    s.cfg.realmOf p' x.part == s.cfg.realmOf p part

/-- Resolve a scratchpad address on another tile. -/
def Job.reach (j : Job) (c : Cmd) (p' t' a : Nat) (w : Word) : EM Nat := do
  let s ← get
  if s.peers <= p' then fail cILLOP w
  else if s.gone j.p p' then fail cPEER_LOST w
  else if !s.tileOk j.p c.part p' t' then fail cPERM_FAULT w
  else match (s.tile p' t').resolve a with
    | .ok x => pure x
    | .error k => fail k w

/-- Bytes that a broken stub never delivered (R221). -/
def lost (n : Nat) : Data := List.replicate n (0, 2)

/-- Translate a global address of a command; none for a tile of a stub that can no longer be pulled, whose `PULL_LOST` is
recorded once (R221, R387, R392). -/
def Job.xlate (j : Job) (c : Cmd) (va : Nat) (acc : Access) : EM (Option Loc) := do
  let s ← get
  let w := BitVec.ofNat 64 va
  let (x, s) := translate s j.p j.t c.part c.vf va acc
  set s
  match x with
  | .fault k => fail k w
  | .touch n tile =>
    if (s.die j.p).tileLost n tile then
      if !c.err then j.note cPULL_LOST w
      pure none
    else
      set (s.askPull j.p n tile 0)
      halt .none
  | .ok l => pure (some l)

/-- The die that an access of a location needs. -/
def State.locPeer (s : State) (p : Nat) (l : Loc) : Nat :=
  match l with
  | .mem q _ _ _ => q
  | .copy q a => if ((s.die p).copies.find (copyKey q a)).isSome then p else q
  | .window q _ _ => q

/-- Read bytes of one line at an engine address. -/
def Job.read (j : Job) (c : Cmd) (x : EAddr) (n : Nat) (lay : Option Nat) (ri : Bool) : EM Data := do
  let w := x.word
  match x with
  | .scr p' t' a =>
    let here := p' == j.p && t' == j.t
    let a ← if here then (match (← get).tile j.p j.t |>.cmdAddr c a w with
        | .ok a => pure a
        | .error e => throw e)
      else j.reach c p' t' a w
    -- only the read of a whole line checks its layout (R209)
    match ((← get).tile p' t').engLine a n (if n == 128 then lay else none) ri w with
    | .ok (d, tl) => modify (fun s => s.setTile p' t' tl); pure d
    | .error (.stall e) => halt (if here then e else .none)
    | .error e => throw e
  | .glob va =>
    match ← j.xlate c va .eread with
    | none => pure (lost n)
    | some l =>
      let s ← get
      if s.gone j.p (s.locPeer j.p l) then fail cPEER_LOST w
      else
        let bad := s.badLoc j.p l n
        set ((s.touchLoc j.p l).kvRead j.p va bad)
        pure ((leBytes n (s.readLoc j.p l n)).map (fun b => (b, b2n (bad != 0))))

/-- Write bytes of one line at an engine address; bytes that were never delivered make zeros with poison (R221). -/
def Job.write (j : Job) (c : Cmd) (x : EAddr) (d : Data) (lay : BitVec 3) (bp : Bool) : EM Unit := do
  let w := x.word
  let gone := d.any (·.2 == 2)
  let bs : List Byte := if gone then d.map (fun _ => 0) else d.map (·.1)
  let bad := gone || Data.poison d
  match x with
  | .scr p' t' a =>
    let here := p' == j.p && t' == j.t
    let a ← if here then (match (← get).tile j.p j.t |>.cmdAddr c a w with
        | .ok a => pure a
        | .error e => throw e)
      else j.reach c p' t' a w
    let tl := (← get).tile p' t'
    if bp && tl.backed (a / 128) then halt (if here then .back (a / 128) else .none)
    else modify (fun s => s.setTile p' t' (tl.wrLine (if here then copyRank else fabricRank) a bs lay bad))
  | .glob va =>
    match ← j.xlate c va .ewrite with
    | none => fail cPERM_FAULT w
    | some l =>
      let s ← get
      if s.gone j.p (s.locPeer j.p l) then fail cPEER_LOST w
      else if s.heldLoc l then halt .none
      else set (s.writeLoc j.p l bs bad)

/-! ### The piece in hand -/

/-- How many of `n` bytes are reached at once: those of one line and, of a KV address, of one place (R336, R338). -/
def EAddr.reach (x : EAddr) (s : State) (p n : Nat) : Nat :=
  let m := min n x.toLineEnd
  match x with
  | .glob va => if isKv va then min m (s.kvLeft p va) else m
  | .scr _ _ _ => m

/-- Read on until `n` bytes are in hand; recursion on the chunks. -/
def Job.fill (j : Job) (x : EAddr) (n : Nat) (lay : Option Nat) (ri : Bool) : Nat → EM Unit
  | 0 => pure ()
  | k + 1 => do
    let c ← j.cmd
    let h := c.buf.length
    if n <= h then pure ()
    else
      let y := x.plus h
      let d ← j.read c y (y.reach (← get) j.p (n - h)) lay ri
      j.upd (fun c => { c with buf := c.buf ++ d })
      j.fill x n lay ri k

/-- Write on until the bytes in hand are written; `aux` holds first how many have been. -/
def Job.drain (j : Job) (x : EAddr) (lay : BitVec 3) (bp : Bool) : Nat → EM Unit
  | 0 => pure ()
  | k + 1 => do
    let c ← j.cmd
    let h := c.aux.getD 0 0
    if c.buf.length <= h then pure ()
    else
      let y := x.plus h
      let m := y.reach (← get) j.p (c.buf.length - h)
      j.write c y ((c.buf.drop h).take m) lay bp
      j.upd (fun c => { c with aux := (h + m) :: c.aux.drop 1 })
      j.drain x lay bp k

/-- Let go of the data in hand. -/
def Job.clear (j : Job) : EM Unit := j.upd (fun c => { c with buf := [], aux := 0 :: c.aux.drop 1 })

/-- Copy `n` bytes, all read before any is written (R215). -/
def Job.copy (j : Job) (src dst : EAddr) (n : Nat) (f : EngF) (bp : Bool) : EM Unit := do
  j.fill src n (some f.lay.toNat) f.ri (n / 128 + 3)
  j.drain dst f.lay bp (n / 128 + 3)
  j.clear

/-- Run steps whose causes name one address (R304). -/
def Job.naming (j : Job) (w : Word) (m : Job → EM α) : EM α :=
  tryCatch (m { j with names := some w }) fun h => match h with | .fault k _ => fail k w | .stall x => halt x

/-- Count a micro-step, and end after the last, or after the piece in which the command's operator was aborted (R228). -/
def Job.next (j : Job) (last : Bool) : EM Unit :=
  j.upd (fun c => { c with prog := c.prog + 1, stall := .none, st := if last || c.stop then .finished else .running })

end Sys2Proof.Machine
end

