-- ==== Sys2Proof/Machine/Stub.lean ====
section
/-! DEFINITION. Deferred tensors (R220 to R222, R383 to R394): the hold table of an owner, the stub table of a holder, the
slots that pass between them, and the commands that send, pull, drop and forward a stub. -/

namespace Sys2Proof.Machine

/-- Control slots by what they carry (R389 to R391, R421), kept first in `args`. -/
abbrev ctlAccept : Nat := 1
abbrev ctlRefuse : Nat := 2
abbrev ctlPullAck : Nat := 3
abbrev ctlRepoint : Nat := 4
abbrev ctlRelease : Nat := 5
abbrev ctlRenew : Nat := 6
abbrev ctlRenewAck : Nat := 7
abbrev ctlReleaseAck : Nat := 8
abbrev ctlKeep : Nat := 9
/-- a group edit (R374) -/
abbrev ctlEdit : Nat := 10
/-- a heartbeat (R421) -/
abbrev ctlBeat : Nat := 11

/-- The oldest slot of a kind that the station of a die has taken (R364). -/
def State.taken (s : State) (p kind : Nat) (ok : Packet → Bool) : Option Packet :=
  s.net.find? (fun k => k.taken && k.dst == p && k.kind == kind && ok k)
/-- A control slot of a sort. -/
def State.control (s : State) (p sort : Nat) : Option Packet := s.taken p 0x12 (fun k => k.args.head? == some sort)
def State.consume (s : State) (k : Packet) : State := { s with net := s.net.erase k }
def Packet.arg (k : Packet) (n : Nat) : Nat := k.args.getD n 0

/-- Send a control slot of a partition (R363, R366: tier 0). -/
def State.sendCtl (s : State) (src dst part : Nat) (args : List Nat) : State :=
  s.send { kind := 0x12, src := src, dst := dst, tier := 0, part := part, args := args }
/-- The id of the partition of a VF. -/
def State.idOf (s : State) (p vf : Nat) : Nat := partId p (s.cfg.partOf p vf)

/-! ### The owner (R383, R384, R388) -/

def Die.hold (d : Die) (n : Nat) : Hold := SMap.get {} d.holds n
def Die.setHold (d : Die) (n : Nat) (h : Hold) : Die := { d with holds := SMap.set {} d.holds n h }

/-- Lower a frame's hold count. -/
def Die.unholdFrame (d : Die) (f : Nat) : Die :=
  { d with holdCnt := SMap.set 0 d.holdCnt f ((SMap.get 0 d.holdCnt f) - 1) }

/-- Release one tile of an entry; the entry is free once none is left. -/
def Die.releaseTile (d : Die) (n tile : Nat) : Die :=
  let h := d.hold n
  match SMap.get none h.held tile with
  | none => d
  | some f =>
    let left := h.held.erase tile
    let h' : Hold := { h with held := left, valid := !left.isEmpty }
    (d.unholdFrame f).setHold n h'

/-- Release every tile of an entry. -/
def Die.releaseAll (d : Die) (n : Nat) : Die := ((d.hold n).held.map (·.1)).foldl (fun d t => d.releaseTile n t) d

/-- The local frame of each page of a range that may be held (R383), or the cause: every page an ordinary one, or every page of
one slab, as `slab` says. -/
def holdFrames (s : State) (p t part vf : Nat) (slab : Option Nat) (va : Nat) : Nat → Except Nat (List Nat)
  | 0 => .ok []
  | n + 1 =>
    let rest := fun (f : Nat) => match holdFrames s p t part vf slab (va + 4096) n with
      | .ok l => Except.ok (f :: l)
      | .error c => .error c
    if (if isKv va then some (va / 2 ^ 32) else none) != slab then .error cPERM_FAULT
    else if isKv va then
      match kvLoc s p part va with
      | .error c => .error c
      | .ok l => match kvLoc s p part (va + 4095), l.holdFrame with
        | .ok _, some (_, f) => rest f
        | .error c, _ => .error c
        | .ok _, none => .error cPERM_FAULT
    else match (lookup s p t vf va).1 with
      | none => .error cXLATE_FAULT
      | some e =>
        let l := e.leaf
        let frame := leafFrame l + (va - e.va) / 4096
        if leafAm l != 0 || !bit l 9 || bit l 63 || devFrame <= leafFrame l || !homeOk s p frame (bits l 57 50) p vf
        then .error cPERM_FAULT else rest frame

/-- The lowest free hold entry (R384). -/
def Die.freeHold (d : Die) : Option Nat := (List.range 1024).find? (fun n => !(d.hold n).valid)

/-- The hold point (R220, R383): an entry that holds every frame. -/
def Die.takeHold (d : Die) (n vf va holder hva now : Nat) (frames : List Nat) : Die :=
  let d := { d with holdCnt := frames.foldl (fun m f => SMap.set 0 m f ((SMap.get 0 m f) + 1)) d.holdCnt }
  d.setHold n { valid := true, gen := (d.hold n).gen + 1, vf := vf, ova := va / 4096, tiles := frames.length,
                held := (frames.zipIdx).foldl (fun m e => SMap.set none m e.2 (some e.1)) [], holder := holder, hva := hva,
                renew := now }

/-! ### The holder (R386, R387, R390) -/

def Die.stub (d : Die) (n : Nat) : Stub := SMap.get {} d.stubs n
def Die.setStub (d : Die) (n : Nat) (b : Stub) : Die := { d with stubs := SMap.set {} d.stubs n b }
def Stub.tile (b : Stub) (k : Nat) : Pull := SMap.get .unpulled b.state k
def Stub.setTile (b : Stub) (k : Nat) (x : Pull) : Stub := { b with state := SMap.set .unpulled b.state k x }
/-- Tiles neither pulled nor lost. -/
def Stub.unpulled (b : Stub) : List Nat := (List.range b.tiles).filter (fun k => b.tile k == .unpulled || b.tile k == .asked)
/-- Tiles not pulled. -/
def Stub.waiting (b : Stub) : List Nat := (List.range b.tiles).filter (fun k => b.tile k != .pulled && b.tile k != .gone)
def Stub.inFlight (b : Stub) : Bool := b.state.any (fun e => e.2 == .asked)

/-- The pulls of `SPULL` commands that wait for a tile which never comes have failed (R221, R388): step 2. -/
def State.pullRefused (s : State) (p n gen k : Nat) : State :=
  (s.die p).tiles.foldl (fun s t => s.modTile p t.1 fun x => { x with cmds := x.cmds.map fun c =>
    match c.i with
    | .spull _ => if c.st == .running && c.step == 1 && c.arg 0 == n && c.arg 1 == gen && c.arg 2 <= k &&
        k < c.arg 2 + c.vb.toNat / 4096 then { c with aux := c.aux.set 1 2, stall := .none } else c
    | _ => c }) s

/-- Write the leaves of tiles as not valid, and drop their pages (R221, R390). -/
def State.unmapTiles (s : State) (p n : Nat) (tiles : List Nat) : State :=
  let b := (s.die p).stub n
  tiles.foldl (fun s k =>
    let va := (b.hva + k) * 4096
    match walk s p b.vf va with
    | some l => if l.leaf == SMap.get 0 b.leaves k then (s.setPte p l.addr (l.leaf - 1)).dropPage p b.vf va else s
    | none => s) s

/-- Send a release or a re-pointing until the owner acknowledges it (R221, R222, R391). -/
def State.resend (s : State) (p : Nat) (r : Resend) : State :=
  s.sendCtl p r.owner r.part (if r.repoint then [ctlRepoint, r.hold, r.gen.toNat, r.newHolder, r.hva, r.key]
    else [ctlRelease, r.hold, r.gen.toNat, r.key] ++ r.tiles)
def State.addResend (s : State) (p : Nat) (r : Resend) : State :=
  let key := (s.die p).nextTag
  let s := s.modDie p fun d => { d with nextTag := key + 1, resends := d.resends ++ [{ r with key := key }] }
  s.resend p { r with key := key }
/-- The release of tiles that a stub gives up. -/
def State.giveUp (s : State) (p n : Nat) (tiles : List Nat) : State :=
  let b := (s.die p).stub n
  if tiles.isEmpty then s
  else s.addResend p { repoint := false, part := s.idOf p b.vf, owner := b.owner, hold := b.hold, gen := b.gen, tiles := tiles, since := s.now, last := s.now }

/-- A stub becomes broken (R392, R393, R411): its bound request is aborted, and its tiles are released. -/
def State.breakStub (s : State) (p n : Nat) : State :=
  let b := (s.die p).stub n
  if !b.valid || b.broken then s
  else
    let tiles := b.unpulled
    let b' : Stub := { b with broken := true, moving := false, state := tiles.foldl (fun m k => SMap.set .unpulled m k .lost) b.state }
    let s := s.modDie p fun d => { d.setStub n b' with chst := bump d.chst }
    let s := match b.req with | some r => s.abortSlot p r | none => s
    s.giveUp p n tiles

/-- Free a stub entry whose unpulled tiles go: an `SPULL` that waits for one of them never gets it. -/
def State.freeStub (s : State) (p n : Nat) : State :=
  let b := (s.die p).stub n
  (b.waiting.foldl (fun s k => s.pullRefused p n b.gen.toNat k) s).modDie p fun d => d.setStub n {}

/-- Free a stub entry whose tiles have all been pulled (R388). -/
def Die.stubDone (d : Die) (n : Nat) : Die := if (d.stub n).unpulled.isEmpty && !(d.stub n).broken then d.setStub n {} else d

/-! ### Acceptance (R385, R386) -/

/-- The leaves of the holder's pages in a VF's space, if every one of them may land a tile. -/
def landing (s : State) (p vf hva : Nat) : Nat → Option (List Word)
  | 0 => some []
  | n + 1 =>
    match walk s p vf (hva * 4096) with
    | none => none
    | some l =>
      if l.size == 4096 && bit l.leaf 63 && leafAm l.leaf == 0 && bit l.leaf 9 && s.cfg.inRange p vf (leafFrame l.leaf)
      then (match landing s p vf (hva + 1) n with | some r => some (l.leaf :: r) | none => none) else none

/-- The 64 bytes of a stub (R385): hold, owner, gen, address of tile 0, tiles, tenant, the operand that names the holder's
address, the hold point, and their crc. -/
def stubBytes (hold owner gen ova tiles tenant hva hp : Nat) : List Byte :=
  let bs := leBytes 2 hold ++ leBytes 2 owner ++ leBytes 4 gen ++ leBytes 8 ova ++ leBytes 4 tiles ++ leBytes 1 tenant ++
    List.replicate 3 0 ++ leBytes 8 hva ++ leBytes 8 hp ++ List.replicate 20 0
  bs ++ leBytes 4 (crc32c bs)
/-- A field of a stub. -/
def Packet.stubField (k : Packet) (hi lo : Nat) : Nat := leNat ((k.bytes.drop lo).take (hi + 1 - lo))
/-- Whether a stub's crc and its zero fields check (R386). -/
def Packet.stubOk (k : Packet) : Bool :=
  k.bytes.length == 64 && k.stubField 63 60 == crc32c (k.bytes.take 60) && k.stubField 3 2 < 512 && k.stubField 23 21 == 0 &&
    k.stubField 59 40 == 0

/-- Take a stub in, if R386 lets it. -/
def State.acceptStub (s : State) (p : Nat) (k : Packet) : Option State :=
  let owner := k.stubField 3 2
  let hva := k.stubField 31 24 / 4096 % 2 ^ 45
  let tiles := k.stubField 19 16
  let vf? := (List.range 24).find? (fun v => s.cfg.tenantOf p v == k.stubField 20 20 && (landing s p v hva tiles).isSome)
  let n? := (List.range 1024).find? (fun n => !((s.die p).stub n).valid)
  match vf?, n? with
  | some vf, some n =>
    if owner == p || !k.stubOk then none
    else
      let ls := (landing s p vf hva tiles).getD []
      let b : Stub :=
        { valid := true, hold := k.stubField 1 0, gen := BitVec.ofNat 32 (k.stubField 7 4), owner := owner, tiles := tiles,
          vf := vf, hva := hva, ova := k.stubField 15 8, hp := k.stubField 39 32, leaves := ls.zipIdx.foldl (fun m e => SMap.set 0 m e.2 e.1) [], ack := s.now, sent := s.now }
      some (s.modDie p fun d => d.setStub n b)
  | _, _ => none

/-- R385, R386: a stub arrives. -/
def execStub (p : Nat) (s : State) : Out :=
  event s (match s.taken p 0x0C (fun _ => true) with
    | none => s
    | some k =>
      let s := s.consume k
      match s.acceptStub p k with
      | some s => s.sendCtl p k.src k.part [ctlAccept, k.tag]
      | none => s.sendCtl p k.src k.part [ctlRefuse, k.tag])

/-! ### Touch and pull (R387, R388) -/

/-- R387: a touch asks for its tile. -/
def execStubTouch (p v : Nat) (va : BitVec 64) (s : State) : Out :=
  event s (match translate s p 0 (s.cfg.partOf p v) v va.toNat .load with
    | (.touch n k, s) => if (s.die p).tileLost n k then s else s.askPull p n k 0
    | _ => s)

/-- Data of a held frame: 4 KiB, and a bit for each poisoned line. -/
def Die.frameData (d : Die) (f : Nat) : List Byte × Nat :=
  let tier := if f < 2 ^ 29 then 1 else 0
  let a := f % 2 ^ 29 * 4096
  (leBytes 4096 (Memory.read (d.bytes tier) a 4096),
   (List.range 32).foldl (fun v k => v + b2n ((d.metaOf tier (a / 128 + k)).bad != 0) * 2 ^ k) 0)

/-- R388: the owner answers a pull, or refuses it with a nack of reason 1, or of reason 2 where the teardown of its VF has let the
tile go (R392, R451). -/
def execPullRequest (p : Nat) (s : State) : Out :=
  event s (match s.taken p 0x0D (fun _ => true) with
    | none => s
    | some k =>
      let s := s.consume k
      let h := (s.die p).hold (k.arg 0)
      let answer : Packet := { kind := 0x0E, src := p, dst := k.src, tier := k.tier, tag := k.tag, part := k.part, args := [k.arg 3, k.arg 2, k.arg 1] }
      let why := if h.torn && h.gen.toNat == k.arg 1 then 2 else 1
      let nack : Packet := { answer with kind := 0x07, tier := 0, reason := why, args := [0x0D, k.arg 3, k.arg 2] }
      match SMap.get none h.held (k.arg 2) with
      | none => s.send nack
      | some f =>
        if !h.valid || h.gen.toNat != k.arg 1 then s.send nack
        else
          let (bs, bad) := (s.die p).frameData f
          s.send { answer with bytes := bs, poison := bad })

/-- A tile's data reaches its landing frame, and its leaf becomes an ordinary one (R387). -/
def State.land (s : State) (p n k : Nat) (l : LeafAt) (bs : List Byte) (bad : Nat) : State :=
  let b := (s.die p).stub n
  let a := leafFrame l.leaf * 4096
  let s := s.modDie p fun d => (List.range 32).foldl (fun d i =>
    d.wr 1 (a + 128 * i) ((bs.drop (128 * i)).take 128) (bad.testBit i)) d
  let s := (s.setPte p l.addr (BitVec.ofNat 64 (l.leaf.toNat % 2 ^ 63))).dropPage p b.vf ((b.hva + k) * 4096)
  let s := s.modDie p fun d => (d.setStub n (b.setTile k .pulled)).stubDone n
  s.sendCtl p b.owner (s.idOf p b.vf) [ctlPullAck, b.hold, b.gen.toNat, k]

/-- R387: a pull response. A leaf that software has changed gives up its tile. -/
def execPullResponse (p : Nat) (s : State) : Out :=
  event s (match s.taken p 0x0E (fun _ => true) with
    | none => s
    | some q =>
      let s := (s.consume q).dropReq p q.tag
      let n := q.arg 0
      let k := q.arg 1
      let b := (s.die p).stub n
      if !b.valid || b.gen.toNat != q.arg 2 || b.tile k != .asked then s
      else match walk s p b.vf ((b.hva + k) * 4096) with
      | some l =>
        if l.leaf == SMap.get 0 b.leaves k then s.land p n k l q.bytes q.poison else changed s n k b
      | none => changed s n k b)
where
  /-- The tile is not written, and goes back to the owner; the waiting accesses walk the leaf as it now stands. -/
  changed (s : State) (n k : Nat) (b : Stub) : State :=
    ((s.giveUp p n [k]).dropPage p b.vf ((b.hva + k) * 4096)).modDie p fun d => (d.setStub n (b.setTile k .pulled)).stubDone n

/-- A pull's nack at the holder: reason 1 unmaps the tile (R388), any other breaks the stub (R392). -/
def State.pullNack (s : State) (p n k reason : Nat) : State :=
  let b := (s.die p).stub n
  if !b.valid || b.tile k != .asked then s
  else if reason == 1 then
    ((s.unmapTiles p n [k]).pullRefused p n b.gen.toNat k).modDie p fun d => (d.setStub n (b.setTile k .gone)).stubDone n
  else s.breakStub p n

/-- R388: the acknowledgement of a tile releases it. -/
def execPullAck (p : Nat) (s : State) : Out :=
  event s (match s.control p ctlPullAck with
    | none => s
    | some k =>
      let s := s.consume k
      if ((s.die p).hold (k.arg 1)).gen.toNat == k.arg 2 then s.modDie p fun d => d.releaseTile (k.arg 1) (k.arg 3) else s)

/-- R390: the owner re-points its entry to the new holder. -/
def execRepointSlot (p : Nat) (s : State) : Out :=
  event s (match s.control p ctlRepoint with
    | none => s
    | some k =>
      let s := s.consume k
      let h := (s.die p).hold (k.arg 1)
      let s := if h.valid && h.gen.toNat == k.arg 2
        then s.modDie p fun d => d.setHold (k.arg 1) { h with holder := k.arg 3, hva := k.arg 4 } else s
      s.sendCtl p k.src k.part [ctlReleaseAck, k.arg 5])

/-- R221, R391: the owner releases the tiles that a holder gives up. -/
def execStubReleaseSlot (p : Nat) (s : State) : Out :=
  event s (match s.control p ctlRelease with
    | none => s
    | some k =>
      let s := s.consume k
      let s := if ((s.die p).hold (k.arg 1)).gen.toNat == k.arg 2
        then s.modDie p fun d => (k.args.drop 4).foldl (fun d t => d.releaseTile (k.arg 1) t) d else s
      s.sendCtl p k.src k.part [ctlReleaseAck, k.arg 3])

/-- R391: the holder stops sending what has been acknowledged. -/
def execReleaseAcknowledgement (p : Nat) (s : State) : Out :=
  event s (match s.control p ctlReleaseAck with
    | none => s
    | some k => (s.consume k).modDie p fun d => { d with resends := d.resends.filter (fun r => r.key != k.arg 1) })

/-- R391: release number k is sent again every 100 ms, for at most 1,000 ms. -/
def execReleaseResend (p k : Nat) (s : State) : Out :=
  event s (match (s.die p).resends[k]? with
    | none => s
    | some r =>
      if s.now < r.last + 100000000 then s
      else if r.since + 1000000000 < s.now then s.modDie p fun d => { d with resends := d.resends.eraseIdx k }
      else (s.modDie p fun d => { d with resends := d.resends.set k { r with last := s.now } }).resend p r)

/-! ### The lifetime link (R391) -/

/-- A live stub renews its link every 100 ms. -/
def execStubRenewal (p k : Nat) (s : State) : Out :=
  let b := (s.die p).stub k
  event s (if b.valid && !b.broken && b.sent + 100000000 <= s.now then
      (s.modDie p fun d => d.setStub k { b with sent := b.sent + 100000000 }).sendCtl p b.owner (s.idOf p b.vf)
        [ctlRenew, b.hold, b.gen.toNat, k]
    else s)

/-- The owner records the renewal and acknowledges it, also where the entry is gone (R400), but not for a hold that the teardown
of its VF has let go: the lease tells the holder (R392). -/
def execRenewalReceive (p : Nat) (s : State) : Out :=
  event s (match s.control p ctlRenew with
    | none => s
    | some k =>
      let s := s.consume k
      let h := (s.die p).hold (k.arg 1)
      let s := if h.valid && h.gen.toNat == k.arg 2 then s.modDie p fun d => d.setHold (k.arg 1) { h with renew := s.now } else s
      if h.torn && h.gen.toNat == k.arg 2 then s else s.sendCtl p k.src k.part [ctlRenewAck, k.arg 3, k.arg 2])

def execRenewalAcknowledgement (p : Nat) (s : State) : Out :=
  event s (match s.control p ctlRenewAck with
    | none => s
    | some k =>
      let s := s.consume k
      let b := (s.die p).stub (k.arg 1)
      if b.valid && b.gen.toNat == k.arg 2 then s.modDie p fun d => d.setStub (k.arg 1) { b with ack := s.now } else s)

/-- The holder's stub breaks after 500 ms without an acknowledgement. -/
def execHolderLeaseExpiry (p k : Nat) (s : State) : Out :=
  let b := (s.die p).stub k
  event s (if b.valid && !b.broken && b.ack + 500000000 <= s.now then s.breakStub p k else s)

/-- The owner releases an entry whose renewal is 1,000 ms old. -/
def execOwnerLeaseExpiry (p k : Nat) (s : State) : Out :=
  let h := (s.die p).hold k
  event s (if h.valid && h.renew + 1000000000 <= s.now then s.modDie p fun d => d.releaseAll k else s)

/-! ### Writes that meet a hold (R389) -/

/-- A store or atomic that has waited on a held tile for `WAITTO` raises `HOLD_STALL`. -/
def execHoldStall (p t c : Nat) (x : Bool) (s : State) : Out :=
  let limit := (s.ctx p t c).waitto.toNat
  event s (match (s.stream p t c x).wait with
    | some w => match w.kind with
      | .hold ea => if limit != 0 && w.since + limit <= s.now
          then s.takeTrap p t c x cHOLD_STALL ea 0 false false (s.stream p t c x).pc else s
      | _ => s
    | none => s)

/-- Where a write or atomic from another die goes. -/
def Packet.loc (k : Packet) : Loc := .mem k.dst 1 k.addr k.key
/-- Requests that wait at a die's memory for a held frame. -/
def State.heldReqs (s : State) (p : Nat) : List Packet :=
  s.net.filter (fun k => k.taken && k.dst == p && (k.kind == 0x03 || k.kind == 0x05) && s.heldLoc k.loc)

/-- The owner restarts the timers of the writes that it holds, every 50 µs. -/
def execHoldKeepalive (p : Nat) (s : State) : Out :=
  event s (if (s.heldReqs p).isEmpty || s.now < (s.die p).keepAt + 50000 then s
    else (s.heldReqs p).foldl (fun s k => s.sendCtl p k.src k.part [ctlKeep, k.tag])
      (s.modDie p fun d => { d with keepAt := s.now }))

def execHoldKeepaliveArrival (p : Nat) (s : State) : Out :=
  event s (match s.control p ctlKeep with
    | none => s
    | some k => (s.consume k).modDie p fun d =>
        { d with reqs := d.reqs.map (fun r => if r.tag == k.arg 1 then { r with since := s.now } else r) })

/-! ### Binding to a request (R393), DTSTAT (R394) -/

/-- A write to STBIND. -/
def stbindM (w : Word) (s : State) : R State := do
  legal s (bits w 62 57 == 0)
  let c := s.myCtx
  let d := s.myDie
  match d.stubs.find? (fun e => e.2.valid && e.2.vf == c.vf && e.2.hva <= bits w 56 12 && bits w 56 12 < e.2.hva + e.2.tiles) with
  | none => trap s cPERM_FAULT
  | some (n, b) =>
    let x := d.slot (bits w 11 0)
    if !bit w 63 then pure (s.setMyDie (d.setStub n { b with req := none }))
    else if x.state == 0 || s.cfg.partOf s.iss.peer x.vf != c.part then trap s cPERM_FAULT
    else pure (s.setMyDie (d.setStub n { b with req := some (bits w 11 0) }))

/-- The write as the step that performs it. -/
def stbindEvent (bind : Bool) (w : Word) (s : State) : Out :=
  if !s.powered then .fault .unpowered
  else if bit w 63 == bind then finish s (stbindM w s) else .next s
def execStubBind (w : BitVec 64) (s : State) : Out := stbindEvent true w s
def execStubUnbind (w : BitVec 64) (s : State) : Out := stbindEvent false w s

/-- The partition's hold entries, stub entries and broken stub entries. -/
def State.dtstat (s : State) (p part : Nat) : Word :=
  let d := s.die p
  let mine := fun (vf : Nat) => s.cfg.partOf p vf == part
  let hs := (d.holds.filter (fun e => e.2.valid && mine e.2.vf)).length
  let ss := d.stubs.filter (fun e => e.2.valid && mine e.2.vf)
  BitVec.ofNat 64 (hs + ss.length * 2 ^ 11 + (ss.filter (fun e => e.2.broken)).length * 2 ^ 22)

/-! ### The commands (R220 to R222) -/

/-- A peer-address operand: holder and page; the bits that must be 0 are. -/
def peerAddrOk (e : Site) (b : Word) : Bool := bits b 11 9 == 0 && bits b 63 57 == 0 && bits b 8 0 < e.peers

def prepDsend (f : EngF) (e : Site) (va vb ve : Word) : Chk Cmd := do
  chkLegal (peerAddrOk e vb && bits ve 63 30 == 0 && bits ve 29 0 != 0 && bits ve 11 0 == 0 && ve.toNat <= 2 ^ 29)
  chk (bits va 11 0 == 0) cMISALIGN va.toNat
  e.make (.dsend f) f.d va vb ve [4] [] []
def prepSpull (f : EngF) (e : Site) (va vb ve : Word) : Chk Cmd := do
  chkLegal (vb != 0 && bits vb 11 0 == 0)
  chk (bits va 11 0 == 0) cMISALIGN va.toNat
  e.make (.spull f) f.d va vb ve [4] [] []
def prepSdrop (f : EngF) (e : Site) (va vb ve : Word) : Chk Cmd := do
  e.make (.sdrop f) f.d va vb ve [4] [] []
def prepSfwd (f : EngF) (e : Site) (va vb ve : Word) : Chk Cmd := do
  chkLegal (peerAddrOk e vb)
  e.make (.sfwd f) f.d va vb ve [4] [] []

/-- Wait for the holder's answer: `aux` holds the step, then what the step needs. -/
def Job.setAux (j : Job) (l : List Nat) : EM Unit := j.upd (fun c => { c with aux := 0 :: l })

/-- The stub slot of a hold entry (R385). -/
def stubPacket (j : Job) (c : Cmd) (holder hold gen tiles tenant owner : Nat) (ova : Nat) (hp : Nat) : Packet :=
  { kind := 0x0C, src := j.p, srcTile := j.t, dst := holder, tier := 1, part := partId j.p c.part, tenant := tenant,
    bytes := stubBytes hold owner gen ova tiles tenant c.vb.toNat hp }

/-- A step of DSEND. Step 1 waits for the answer, which step 2 or 3 records: accepted or refused. -/
def dsendStep (j : Job) (c : Cmd) : EM Unit := do
  let s ← get
  let holder := bits c.vb 8 0
  let undo := fun (d : Die) => if (d.hold (c.arg 0)).gen.toNat == c.arg 1 then d.releaseAll (c.arg 0) else d
  match c.step with
  | 0 =>
    if s.gone j.p holder then fail cPEER_LOST c.va
    let slab := if isKv c.va.toNat then some (c.va.toNat / 2 ^ 32) else none
    match holdFrames s j.p j.t c.part c.vf slab c.va.toNat (c.ve.toNat / 4096) with
    | .error k => fail k c.va
    | .ok fs =>
      let d := s.die j.p
      match d.freeHold with
      | none => fail cHOLD_FULL c.va
      | some n =>
        if fs.any (fun f => 15 < (SMap.get 0 d.holdCnt f).toNat + (fs.filter (· == f)).length) then fail cHOLD_FULL c.va
        else
          -- the die's own dirty bytes are part of the contents that it holds (R286)
          let s := (d.copies.filter (fun e => e.1 / 2 ^ 34 == j.p && fs.contains (e.1 % 2 ^ 34 / 32))).foldl
            (fun s e => s.flushCopy j.p e.1 false) s
          let d := (s.die j.p).takeHold n c.vf c.va.toNat holder (bits c.vb 56 12) s.now fs
          let gen := (d.hold n).gen.toNat
          set ((s.setDie j.p d).request (stubPacket j c holder n gen fs.length (s.cfg.tenantOf j.p c.vf) j.p c.va.toNat s.now)
            none j.seq).2
          j.setAux [1, n, gen]
          halt .remote
  | 2 => j.done
  | 3 => do
    modify (fun s => s.modDie j.p undo)
    fail cSTUB_REFUSED c.va
  | 4 => do
    modify (fun s => s.modDie j.p undo)
    fail cPEER_LOST c.va
  | _ => halt .remote

/-- A step of SPULL: ask for every tile of the range that has not been asked for, and end when all have come. -/
def spullStep (j : Job) (c : Cmd) : EM Unit := do
  let s ← get
  let d := s.die j.p
  match c.step with
  | 0 =>
    match d.stubOf c.vf c.va.toNat with
    | none => fail cXLATE_FAULT c.va
    | some (n, k) =>
      let b := d.stub n
      if b.tiles < k + c.vb.toNat / 4096 then fail cXLATE_FAULT c.va
      else j.setAux [1, n, b.gen.toNat, k, b.hold]; halt .none
  | 2 => fail cXLATE_FAULT c.va
  | _ =>
    let b := d.stub (c.arg 0)
    let tiles := (List.range (c.vb.toNat / 4096)).map (· + c.arg 2)
    if !b.valid || b.gen.toNat != c.arg 1 || b.hold != c.arg 3 then j.done
    else if tiles.any (fun k => d.tileLost (c.arg 0) k && b.tile k != .pulled) then fail cPULL_LOST c.va
    else if tiles.any (fun k => b.tile k == .gone) then fail cXLATE_FAULT c.va
    else
      set (tiles.foldl (fun s k => s.askPull j.p (c.arg 0) k 1) s)
      if tiles.all (fun k => b.tile k == .pulled) then j.done else halt .none

/-- A step of SDROP. -/
def sdropStep (j : Job) (c : Cmd) : EM Unit := do
  let s ← get
  match (s.die j.p).stubOf c.vf c.va.toNat with
  | none => if c.step == 0 then fail cXLATE_FAULT c.va else j.done
  | some (n, _) =>
    let b := (s.die j.p).stub n
    j.setAux [1]
    if b.inFlight || b.moving then halt .none
    else
      let s ← get
      set (((s.unmapTiles j.p n b.waiting).giveUp j.p n b.waiting).freeStub j.p n)
      j.done

/-- A step of SFWD. Step 5 waits for the pulls in flight; when the last of them frees the entry, no tile is left to move. Step 2 or
3 records the new holder's answer. -/
def sfwdStep (j : Job) (c : Cmd) : EM Unit := do
  let s ← get
  let d := s.die j.p
  let n := c.arg 0
  let b := d.stub n
  let still := fun (d : Die) => d.setStub n { b with moving := false }
  match c.step with
  | 0 =>
    match d.stubOf c.vf c.va.toNat with
    | none => fail cXLATE_FAULT c.va
    | some (n, _) => j.setAux [5, n, (d.stub n).gen.toNat, (d.stub n).hold]; halt .none
  | 5 =>
    if !b.valid || b.gen.toNat != c.arg 1 || b.hold != c.arg 2 then j.done
    else if b.broken then fail cPULL_LOST c.va
    else if b.inFlight || b.moving then halt .none
    else if b.unpulled.isEmpty then j.done
    else if s.gone j.p (bits c.vb 8 0) then fail cPEER_LOST c.va
    else
      let s := s.modDie j.p fun d => d.setStub n { b with moving := true }
      set (s.request (stubPacket j c (bits c.vb 8 0) b.hold b.gen.toNat b.tiles (s.cfg.tenantOf j.p b.vf) b.owner b.ova b.hp)
        none j.seq).2
      j.setAux [1, n]
      halt .remote
  | 2 =>
    let s := (s.unmapTiles j.p n b.waiting).freeStub j.p n
    set (s.addResend j.p { repoint := true, part := s.idOf j.p b.vf, owner := b.owner, hold := b.hold, gen := b.gen, tiles := [],
                           newHolder := bits c.vb 8 0, hva := bits c.vb 56 12, since := s.now, last := s.now })
    j.done
  | 3 => do
    modify (fun s => s.modDie j.p still)
    fail cSTUB_REFUSED c.va
  | 4 => do
    modify (fun s => s.modDie j.p still)
    fail cPEER_LOST c.va
  | _ => halt .remote

/-- The answer to a stub reaches the command that sent it: step 2 accepted, 3 refused, 4 lost. -/
def State.stubAnswer (s : State) (p t seq step : Nat) : State :=
  s.modCmd p t seq (fun c => if c.step == 1 then { c with aux := c.aux.set 1 step, stall := .none } else c)

/-- R363, R374: a control slot that answers a stub, or a group edit, which the station has applied once the slot is gone:
the command completes after the last. -/
def execControl (p : Nat) (s : State) : Out :=
  event s (match s.taken p 0x12 (fun k => [some ctlAccept, some ctlRefuse, some ctlEdit].contains k.args.head?) with
    | none => s
    | some k =>
      if k.arg 0 == ctlEdit then s.consume k
      else match (s.die p).reqs.find? (·.tag == k.arg 1) with
        | some r => ((s.consume k).dropReq p r.tag).stubAnswer p r.tile r.seq (if k.arg 0 == ctlAccept then 2 else 3)
        | none => s.consume k)

/-! ### Fences and teardowns (R392) -/

/-- Every stub whose owner is a fenced peer breaks; every hold whose holder is one is released. -/
def State.fenceStubs (s : State) (dead : Nat) : State :=
  s.dies.foldl (fun s e =>
    let p := e.1
    let s := ((s.die p).stubs.filter (fun b => b.2.valid && b.2.owner == dead)).foldl (fun s b => s.breakStub p b.1) s
    ((s.die p).holds.filter (fun h => h.2.valid && h.2.holder == dead)).foldl (fun s h => s.modDie p fun d => d.releaseAll h.1) s) s

/-- A VF's holds are released; its stubs are freed, and their tiles given up. -/
def State.dropStubs (s : State) (p vf : Nat) : State :=
  let s := ((s.die p).holds.filter (fun h => h.2.valid && h.2.vf == vf)).foldl (fun s h => s.modDie p fun d =>
    let d := d.releaseAll h.1
    d.setHold h.1 { d.hold h.1 with torn := true }) s
  ((s.die p).stubs.filter (fun b => b.2.valid && b.2.vf == vf)).foldl (fun s b =>
    (s.giveUp p b.1 b.2.unpulled).freeStub p b.1) s

end Sys2Proof.Machine
end

