-- ==== Sys2Proof/Machine/Group.lean ====
section
/-! DEFINITION. Multicast groups (R372 to R374), multicast stores (R223, R375) and reductions (R224, R376, R377). -/

namespace Sys2Proof.Machine

/-- The realm of a partition id (R363, R368). -/
def Cfg.realmOfId (c : Cfg) (id : Nat) : Nat := c.realmOf (id / 32 * 8 + id % 32 / 4) (id % 4)
/-- Whether a die has a partition of a realm (R373). -/
def Cfg.dieInRealm (c : Cfg) (p realm : Nat) : Bool := (List.range 4).any (fun q => c.realmOf p q == realm)
/-- The members of a group in ascending order. -/
def MGroup.peers (g : MGroup) : List Nat := (List.range 512).filter (fun p => bit g.members p)

/-! ### MGCMD (R373, R374) -/

def mgRes (status count : Nat) (member : Bool) (group : Nat) : Word :=
  BitVec.ofNat 64 (status * 2 ^ 56 + count * 2 ^ 13 + b2n member * 2 ^ 12 + group)
/-- The issuing stream as an edit's. -/
def State.editor (s : State) : Nat × StreamId := (s.iss.peer, s.iss.tile * 16 + s.iss.ctx * 2 + b2n s.iss.exe)
/-- A command ends with its result; an edit of the stream is no longer on its way. -/
def State.mgEnd (s : State) (status count : Nat) (member : Bool) (group : Nat) : R State :=
  .ok ({ s with edits := s.edits.filter (·.2 != s.editor) }.setMyCtx { s.myCtx with mgres := mgRes status count member group })
def State.setMG (s : State) (n : Nat) (g : MGroup) : State := { s with mgroups := s.mgroups.put n g }

/-- Whether a multicast or a reduction of a group that has been injected has still to retire (R374). -/
def State.mgBusy (s : State) (g : Nat) : Bool :=
  s.dies.any fun d => d.2.tiles.any fun t => t.2.cmds.any fun c => c.st == .running && c.aux.getD 1 0 != 0 &&
    (match c.i with
     | .mcst _ => bits c.va 43 32 == g
     | .fred _ => c.ve.toNat == g
     | _ => false)

/-- The number of members of a group. -/
def MGroup.count (g : MGroup) : Nat := g.peers.length

/-- Whether a slot carries a group edit of the issuing stream. -/
def State.myEdit (s : State) (k : Packet) : Bool :=
  k.kind == 0x12 && k.args.head? == some ctlEdit && k.src == s.iss.peer && k.srcTile == s.iss.tile && k.srcCtx == s.iss.ctx &&
    k.srcExe == s.iss.exe

/-- Carry an edit of group `n` to every other station, and make it once each has applied it, every edit of the group before it has
been made, and what was injected on the group has retired (R374). -/
def State.spread (s : State) (n : Nat) (edit : State → R State) : R State :=
  let others := (List.range s.peers).filter (fun q => q != s.iss.peer && !s.gone s.iss.peer q)
  if !s.edits.any (·.2 == s.editor) then
    let s := { s with edits := s.edits ++ [(n, s.editor)] }
    if others.isEmpty then turn s
    else .error (.wait .edit false (others.foldl (fun s q => s.send { s.header 0x12 q 0 with args := [ctlEdit, n] }) s))
  else if s.net.any s.myEdit then .error (.wait .edit false s)
  else turn s
where
  /-- The edit, once it is its turn. -/
  turn (s : State) : R State :=
    match s.edits.find? (·.1 == n) with
    | some e => if e.2 != s.editor || s.mgBusy n then .error (.wait .edit false s) else edit s
    | none => edit s

def mgCreate (s : State) : R State :=
  s.spread 4096 fun s => match (List.range 4096).find? (fun n => (s.mgroups.find n).isNone) with
  | none => s.mgEnd 1 0 false 0
  | some n => (s.setMG n { owner := partId s.iss.peer s.myCtx.part, members := 0 }).mgEnd 0 0 false n

/-- A command of the owning partition on a live group. -/
def mgOwned (w : Word) (s : State) (k : State → Nat → MGroup → R State) : R State :=
  let n := bits w 15 4
  match s.mgroups.find n with
  | none => s.mgEnd 2 0 false 0
  | some g =>
    if g.owner != partId s.iss.peer s.myCtx.part then s.mgEnd 2 0 false 0
    else s.spread n fun s => k s n g

def mgFree (w : Word) (s : State) : R State :=
  mgOwned w s fun s n _ =>
    ({ s with
      mgroups := s.mgroups.erase n
      dies := s.dies.map (fun (d : Nat × Die) => (d.1, { d.2 with
        mch := d.2.mch.erase n, fredN := d.2.fredN.erase n, freds := d.2.freds.filter (fun c => c.group != n) })) }
      : State).mgEnd 0 0 false 0

def mgAdd (w : Word) (s : State) : R State :=
  mgOwned w s fun s n g =>
    let p := bits w 24 16
    if s.peers <= p || !s.cfg.dieInRealm p (s.cfg.realmOfId g.owner) then s.mgEnd 3 g.count false 0
    else
      let g : MGroup := { g with members := g.members ||| BitVec.ofNat 512 (2 ^ p) }
      (s.setMG n g).mgEnd 0 g.count false 0

def mgDel (w : Word) (s : State) : R State :=
  mgOwned w s fun s n g =>
    let p := bits w 24 16
    if s.peers <= p then s.mgEnd 3 g.count false 0 else
    let g : MGroup := { g with members := g.members &&& ~~~(BitVec.ofNat 512 (2 ^ p)) }
    (s.setMG n g).mgEnd 0 g.count false 0

/-- A command of any partition of the owner's realm. -/
def mgRealm (w : Word) (s : State) (k : Nat → MGroup → R State) : R State :=
  let n := bits w 15 4
  match s.mgroups.find n with
  | none => s.mgEnd 2 0 false 0
  | some g =>
    if s.cfg.realmOfId g.owner != s.cfg.realmOf s.iss.peer s.myCtx.part then s.mgEnd 2 0 false 0 else k n g

def mgHandler (w : Word) (s : State) : R State := do
  let a := s.myCtx.mgarg
  legal s (bits a 63 57 == 0 && !bit a 0)
  mgRealm w s fun n g =>
    let v := bits w 34 30
    if 24 <= v || s.cfg.partOf s.iss.peer v != s.myCtx.part then s.mgEnd 4 g.count false 0
    else
      let d := s.myDie
      (s.setMyDie { d with mch := if a == 0 then d.mch.erase n else d.mch.put n (bits w 29 25, v, a.toNat) }).mgEnd 0 g.count false 0

def mgQuery (w : Word) (s : State) : R State :=
  mgRealm w s fun _ g =>
    let p := bits w 24 16
    if s.peers <= p || !s.cfg.dieInRealm p (s.cfg.realmOfId g.owner) then s.mgEnd 3 g.count false 0
    else s.mgEnd 0 g.count (bit g.members p) 0

/-- A write to MGCMD. -/
def mgM (w : Word) (s : State) : R State := do
  legal s (bits w 63 35 == 0 && bits w 3 0 <= 5)
  match bits w 3 0 with
  | 0 => mgCreate s
  | 1 => mgFree w s
  | 2 => mgAdd w s
  | 3 => mgDel w s
  | 4 => mgHandler w s
  | _ => mgQuery w s

/-- A command as the step that performs it. -/
def mgEvent (op : Nat) (w : Word) (s : State) : Out :=
  if !s.powered then .fault .unpowered
  else if bits w 3 0 == op then finish s (mgM w s) else .next s

def execCreate (w : BitVec 64) (s : State) : Out := mgEvent 0 w s
def execMgFree (w : BitVec 64) (s : State) : Out := mgEvent 1 w s
def execAddMember (w : BitVec 64) (s : State) : Out := mgEvent 2 w s
def execDel (w : BitVec 64) (s : State) : Out := mgEvent 3 w s
def execHandler (w : BitVec 64) (s : State) : Out := mgEvent 4 w s
def execQuery (w : BitVec 64) (s : State) : Out := mgEvent 5 w s

/-! ### MCST (R223) -/

def prepMcst (f : EngF) (e : Site) (va vb ve : Word) : Chk Cmd := do
  let n := bits f.m 5 0 + 1
  let a := bits va 31 0
  chkLegal (bits va 63 44 == 0)
  chkLive e.tile [a]
  chk (a % 128 == 0) cMISALIGN a
  chk (vb.toNat % 128 == 0) cMISALIGN vb.toNat
  e.make (.mcst f) f.d va vb ve [4] [(a, 128 * n)] [(a + 128 * n, 128)]

/-- The group of a command, checked when it starts (R223, R224). -/
def Job.group (j : Job) (c : Cmd) (n : Nat) (addr : Word) : EM MGroup := do
  let s ← get
  match s.mgroups.find n with
  | none => fail cILLOP addr
  | some g =>
    -- an edit of the group is being applied (R374)
    if s.edits.any (·.1 == n) then halt .none
    else if s.cfg.realmOfId g.owner != s.cfg.realmOf j.p c.part then fail cPERM_FAULT addr else pure g

/-- The acknowledgement line. -/
def ackLine (pos neg first reason : Nat) : List Byte :=
  leBytes 2 pos ++ leBytes 2 neg ++ leBytes 2 first ++ leBytes 1 reason ++ List.replicate 121 0

/-- The remote stores and atomics of a stream that have not been answered, by tag. -/
def Stream.requests (x : Stream) : List Nat :=
  x.posted.map (·.1) ++ (match x.gload with | some g => if g.op == .load then [] else g.tag.toList | none => [])

/-- Whether one of the remote requests that a command's stream had out at its issue is not answered yet. -/
def State.posting (s : State) (p t : Nat) (c : Cmd) : Bool := (s.stream p t c.ctx c.exe).requests.any c.tags.contains

/-- A step of MCST. A group with no member has nobody to send to: pos 0, neg 0, no error, the model's choice (log 122). Step 1
waits for the members, each of which is asked under a tag of its own: `aux` holds pos, neg, first, reason and how many are
awaited. Step 2 writes the acknowledgement. -/
def mcstStep (j : Job) (c : Cmd) (f : EngF) : EM Unit := do
  let a := bits c.va 31 0
  let n := 128 * (bits f.m 5 0 + 1)
  match c.step with
  | 0 =>
    let g ← j.group c (bits c.va 43 32) (localEA j.p j.t a)
    -- a thread that it starts sees the sender's earlier writes (R280)
    if (← get).posting j.p j.t c then halt .none
    j.fill (.scr j.p j.t a) n (some 0) false (n / 128 + 3)
    let c ← j.cmd
    let members := g.peers
    if members.isEmpty then j.setAux [2, 0, 0, 0xFFFF, 0]; halt .none
    else if Data.poison c.buf then j.setAux [2, 0, members.length, members.headD 0, 3]; halt .none
    else
      let k : Packet := { kind := 0x08, src := j.p, srcTile := j.t, dst := 0, tier := 1, part := partId j.p c.part,
                          bytes := c.buf.map (·.1), args := [bits c.va 43 32, c.vb.toNat, b2n (bit f.m 6)] }
      j.setAux [1, 0, 0, 0xFFFF, 0, members.length]
      modify (fun s => members.foldl (fun s p => (s.request { k with dst := p } none j.seq).2) s)
      halt .remote
  | 2 =>
    let l := ackLine (c.arg 0) (c.arg 1) (c.arg 2) (c.arg 3)
    j.upd (fun c => { c with err := c.err || c.arg 1 != 0 })
    j.write c (.scr j.p j.t (a + n)) (l.map (fun b => (b, 0))) 0 false
    j.done
  | _ => halt .remote

/-- A member's answer reaches the command (R375): sums, and the reason of the lower first peer. -/
def State.mcstAnswer (s : State) (p t seq peer reason : Nat) : State :=
  s.modCmd p t seq fun c =>
    if c.step != 1 then c
    else
      let first := c.arg 2
      let lower := reason != 0 && (first == 0xFFFF || peer < first)
      let pos := c.arg 0 + (if reason == 0 then 1 else 0)
      let neg := c.arg 1 + (if reason == 0 then 0 else 1)
      let all := pos + neg == c.arg 4
      { c with aux := [0, if all then 2 else 1, pos, neg, if lower then peer else first, if lower then reason else c.arg 3, c.arg 4],
               stall := if all then .none else c.stall }

/-- Where the bytes of a multicast from peer `src` go at a member, piece by piece in one line and of a KV address in one place, and
the state after (R223, R288, R336, R338); or the reason that it fails. A KV address names slots of the sender's die, so at another
die it has no translation: DEDUCED, log 122. Recursion on the pieces. -/
def mcstLocs (s : State) (p t vf src va m : Nat) : Nat → Except Nat (List (Loc × Nat) × State)
  | 0 => .ok ([], s)
  | n + 1 =>
    if m == 0 then .ok ([], s)
    else if isKv va && src != p then .error 1
    else
      let k := (EAddr.glob va).reach s p m
      match translate s p t (s.cfg.partOf p vf) vf va .ewrite with
      | (.fault c, _) => .error (if c == cXLATE_FAULT then 1 else 2)
      | (.touch _ _, _) => .error 2
      | (.ok l, s) => match mcstLocs s p t vf src (va + k) (m - k) n with
        | .ok (r, s) => .ok ((l, k) :: r, s)
        | .error e => .error e

/-- Write bytes piece by piece. -/
def State.writePieces (s : State) (p : Nat) : List (Loc × Nat) → List Byte → State
  | [], _ => s
  | (l, k) :: r, bs => (s.writeLoc p l (bs.take k) false).writePieces p r (bs.drop k)

/-- R223, R287, R372: a member writes the lines of a multicast, starts the thread, and answers. -/
def execMulticastWrite (p : Nat) (s : State) : Out :=
  event s (match s.taken p 0x08 (fun _ => true) with
    | none => s
    | some k =>
      let answer := fun (s : State) (reason : Nat) =>
        (s.consume k).send { kind := 0x09, src := p, dst := k.src, tile := k.srcTile, tag := k.tag, part := k.part, reason := reason }
      -- a line fails its crc (R223)
      if k.poison != 0 then answer s 3
      else match (s.die p).mch.find (k.arg 0) with
      | none => answer s 1
      | some (t, vf, entry) =>
        let n := k.bytes.length / 128
        -- the handler entry's partition is of another realm than the sender's (R368)
        if s.cfg.realmOf p (s.cfg.partOf p vf) != s.cfg.realmOfId k.part then answer s 2
        else match mcstLocs s p t vf k.src (k.arg 1) (128 * n) (3 * n) with
        | .error e => answer s e
        | .ok (ls, u) =>
          if ls.any (fun e => u.heldLoc e.1) then s
          else
            let s := u.writePieces p ls k.bytes
            if k.arg 2 == 0 then answer s 0
            else match (s.tile p t).dormant (some (s.cfg.partOf p vf)) with
              | none => answer s 5
              | some c => answer (s.startTiller p t c
                  { entry := BitVec.ofNat 57 entry, x1 := BitVec.ofNat 64 (k.arg 1), x2 := BitVec.ofNat 64 (128 * n),
                    x3 := BitVec.ofNat 64 k.src }) 0)

/-- R375. -/
def execMulticastAck (p : Nat) (s : State) : Out :=
  event s (match s.taken p 0x09 (fun _ => true) with
    | none => s
    | some k => match (s.die p).reqs.find? (·.tag == k.tag) with
      | some r => ((s.consume k).dropReq p r.tag).mcstAnswer p r.tile r.seq k.src k.reason
      | none => s.consume k)

/-! ### FRED (R224) -/

def prepFred (f : EngF) (e : Site) (va vb ve : Word) : Chk Cmd := do
  let n := bits f.m 8 3 + 1
  chkLegal (bits ve 63 12 == 0)
  chkLive e.tile [va.toNat, vb.toNat]
  chk (va.toNat % 128 == 0) cMISALIGN va.toNat
  chk (vb.toNat % 128 == 0) cMISALIGN vb.toNat
  e.make (.fred f) f.d va vb ve [4] [(va.toNat, 4 * n)] [(vb.toNat, 4 * n)]

/-- Number the newest command of a tile among the die's reductions of its group (R224: in order of issue). -/
def State.numberFred (s : State) (p t : Nat) : State :=
  match (s.tile p t).cmds.getLast? with
  | none => s
  | some c => match c.i with
    | .fred _ =>
      let g := c.ve.toNat
      let k := SMap.get 0 (s.die p).fredN g
      (s.modCmd p t c.seq (fun c => { c with aux := [0, 0, k] })).modDie p fun d => { d with fredN := SMap.set 0 d.fredN g (k + 1) }
    | _ => s

/-- What entering the queue of the copy engine notes: reductions are numbered by group (R224), storage commands by queue pair
(R226), and a multicast that starts threads remembers what its stream had posted (R280). -/
def State.numbered (s : State) (p t : Nat) : State :=
  let s := s.numberFred p t
  match (s.tile p t).cmds.getLast? with
  | none => s
  | some c => match c.i with
    | .mcst f => if bit f.m 6 && !c.remote then s.modCmd p t c.seq (fun x => { x with tags := (s.stream p t c.ctx c.exe).requests }) else s
    | _ => if c.storage then { s with nvOrder := s.nvOrder ++ [(p / 8 * 64 + nvPair c.va, p, t, c.seq)] } else s

/-- An exact partial sum of f32 values (R377): a fixed-point value in units of 2^−149, and what kinds of values were met. -/
structure Partial where
  sum : BitVec 312 := 0
  nan : Bool := false
  pinf : Bool := false
  ninf : Bool := false
  /-- every value summed so far was −0 -/
  zeros : Bool := true
  deriving DecidableEq, Repr

/-- The partial of one f32 code. -/
def Partial.ofCode (c : Nat) : Partial :=
  let e := c / 2 ^ 23 % 2 ^ 8
  let m := c % 2 ^ 23
  let neg := c.testBit 31
  let v := BitVec.ofNat 312 (if e == 0 then m else (2 ^ 23 + m) * 2 ^ (e - 1))
  if e == 255 then { nan := m != 0, pinf := m == 0 && !neg, ninf := m == 0 && neg, zeros := false }
  else { sum := if neg then -v else v, zeros := c == 0x80000000 }

/-- Partials combine by exact addition of the values and OR of the flags; all were −0 where all of both were. -/
def Partial.add (a b : Partial) : Partial :=
  { sum := a.sum + b.sum, nan := a.nan || b.nan, pinf := a.pinf || b.pinf, ninf := a.ninf || b.ninf, zeros := a.zeros && b.zeros }

/-- The one rounding of the final sum (R224). -/
def Partial.round (a : Partial) : Nat :=
  if a.nan || (a.pinf && a.ninf) then 0x7FC00000
  else if a.pinf then 0x7F800000
  else if a.ninf then 0xFF800000
  else if a.zeros then 0x80000000
  else roundV 8 {} (.fin (decide (a.sum.toInt < 0)) a.sum.toInt.natAbs (-149))

/-- The partial of a package, of the contributions by peer (R376). -/
def packagePartial (vs : List (Nat × Nat)) (k : Nat) : Partial :=
  ((vs.filter (fun v => v.1 / 8 == k)).map (fun v => Partial.ofCode v.2)).foldl Partial.add {}

/-- The result of a reduction of one element, from the contributions by peer (R224, R376). -/
def fredElem (op : Nat) (cs : List (Nat × Nat)) : Nat :=
  match cs.map (·.2) with
  | [] => 0
  | v :: rest =>
    match op with
    | 0 => (((List.range 64).map (packagePartial cs)).foldl Partial.add {}).round
    -- of one member's value a NaN becomes canonical too (R41)
    | 1 => rest.foldl (atomfNew 2 8) (roundV 8 {} (f32 v))
    | 2 => rest.foldl (atomfNew 1 8) (roundV 8 {} (f32 v))
    | 3 => rest.foldl (fun a x => (a + x) % 2 ^ 32) v
    | 4 => rest.foldl (fun a x => if sint a 32 < sint x 32 then x else a) v
    | _ => rest.foldl (fun a x => if sint x 32 < sint a 32 then x else a) v

/-- A step of FRED: send the contribution, wait for every member's, write the result. -/
def fredStep (j : Job) (c : Cmd) (f : EngF) : EM Unit := do
  let n := bits f.m 8 3 + 1
  let op := bits f.m 2 0
  let gn := c.ve.toNat
  let k := c.arg 0
  let here := localEA j.p j.t c.va.toNat
  match c.step with
  | 0 =>
    let g ← j.group c gn here
    if !bit g.members j.p then fail cILLOP here
    j.fill (.scr j.p j.t c.va.toNat) (4 * n) (some 0) false (n / 32 + 3)
    let c ← j.cmd
    let pk : Packet := { kind := 0x0A, src := j.p, srcTile := j.t, dst := 0, tier := 0, tag := j.seq, part := partId j.p c.part,
                         bytes := c.buf.map (·.1), poison := b2n (Data.poison c.buf), args := [gn, k, op, n] }
    modify (fun s => g.peers.foldl (fun s p => s.send { pk with dst := p }) s)
    j.upd (fun c => { c with aux := [0, 1, k], buf := [] })
    halt .none
  | 1 =>
    -- the group stays as it is until the reduction retires (R374)
    let g := ((← get).mgroups.find gn).getD { owner := 0, members := 0 }
    let got := ((← get).die j.p).freds.filter (fun x => x.group == gn && x.k == k)
    let mine := g.peers.filterMap (fun p => got.find? (·.peer == p))
    if mine.length < g.peers.length then halt .none
    else
      modify (fun s => s.modDie j.p fun d => { d with freds := d.freds.filter (fun x => !(x.group == gn && x.k == k)) })
      if mine.any (fun x => x.op != op || x.n != n) then fail cILLOP here
      else
        let r := (List.range n).map (fun i => fredElem op (mine.map (fun x => (x.peer, leNat ((x.data.drop (4 * i)).take 4)))))
        let bad := mine.any (·.poison)
        j.upd (fun c => { c with aux := [0, 2, k], buf := (r.flatMap (leBytes 4)).map (fun b => (b, b2n bad)) })
        halt .none
  | 2 =>
    j.drain (.scr j.p j.t c.vb.toNat) 0 false (n / 32 + 3)
    j.done
  | _ => fail cPEER_LOST here

/-- R224, R376: a member's contribution arrives. -/
def execReductionContribution (p : Nat) (s : State) : Out :=
  event s (match s.taken p 0x0A (fun _ => true) with
    | none => s
    | some k => (s.consume k).modDie p fun d => { d with freds := d.freds ++ [{
        group := k.arg 0, k := k.arg 1, peer := k.src, op := k.arg 2, n := k.arg 3, data := k.bytes, poison := k.poison != 0 }] })

end Sys2Proof.Machine
end

