-- ==== Sys2Proof/Machine/Net.lean ====
section
/-! DEFINITION. The network engine (R227, R378 to R382): work requests, what their sender learns, and what a receiver
places. Packets on the wire are the outside's: they come in as events. -/

namespace Sys2Proof.Machine

/-! ### The tables (R379, R382, R447) -/

/-- A field of a partition's network window. -/
def Die.netField (d : Die) (q off n : Nat) : Nat := Memory.read (SMap.get [] d.netwin q) off n
def Die.nrxBase (d : Die) (q : Nat) : Word := BitVec.ofNat 64 (d.netField q 0xA000 8)
def Die.nrxSize (d : Die) (q : Nat) : Nat := d.netField q 0xA008 8 % 2 ^ 24 * 4096
def Die.nrxHdl (d : Die) (q : Nat) : Word := BitVec.ofNat 64 (d.netField q 0xA010 8)
/-- The job identifier of an endpoint (R378, R447). -/
def Die.epJob (d : Die) (q ep : Nat) : Nat := d.netField q (32 * ep + 16) 4

/-- A registered region (R447): base, length, VF, writable. -/
def Die.region (d : Die) (q rkey : Nat) : Option (Nat × Nat × Nat × Bool) :=
  ((List.range 256).find? (fun i => d.netField q (0x8000 + 32 * i + 16) 4 == rkey && d.netField q (0x8000 + 32 * i + 8) 8 != 0)).map
    fun i => let a := 0x8000 + 32 * i
      (d.netField q a 8, d.netField q (a + 8) 8, d.netField q (a + 20) 1, (d.netField q (a + 21) 1).testBit 0)

/-! ### The sender (R227, R379, R380) -/

/-- A work request of 64 bytes. -/
structure WorkReq where
  op : Nat
  flags : Nat
  len : Nat
  loc : Word
  raddr : Nat
  rkey : Nat
  ep : Nat
  imm : Word
  zero : Bool
  deriving DecidableEq, Repr

def workReq (v : Nat) : WorkReq :=
  let g := fun (hi lo : Nat) => v / 2 ^ (8 * lo) % 2 ^ (8 * (hi + 1 - lo))
  { op := g 0 0, flags := g 1 1, len := g 7 4, loc := BitVec.ofNat 64 (g 15 8), raddr := g 23 16, rkey := g 27 24, ep := g 29 28,
    imm := BitVec.ofNat 64 (g 39 32), zero := g 3 2 == 0 && g 31 30 == 0 && g 63 40 == 0 }

/-- R379: what the engine refuses as ILLOP. -/
def WorkReq.ok (w : WorkReq) (peers : Nat) : Bool :=
  w.op <= 2 && w.flags <= 1 && w.zero && 1 <= w.len && w.len <= 2 ^ 30 && w.ep < 1024 && eaddrOk w.loc &&
    !eaddrLost w.loc peers && (w.op != 0 || w.raddr == 0)

def prepNetq (f : EngF) (e : Site) (va vb ve : Word) (owner : Nat → Nat) : Chk Cmd := do
  chkLegal (bits vb 63 6 == 0)
  chk (va.toNat % 64 == 0) cMISALIGN va.toNat
  let c ← e.make (.netq f) f.d va vb ve [4] [(va.toNat, 64)] []
  chk (owner (bits vb 5 0) == e.part) cPERM_FAULT 0
  pure c

/-- Bytes of a request, of `len`, that ranges cover, as first and count pairs. -/
def coveredTo (rs : List (Nat × Nat)) : Nat → Nat → Nat
  | 0, a => a
  | n + 1, a => match rs.find? (fun r => r.1 <= a && a < r.1 + r.2) with
    | some r => coveredTo rs n (r.1 + r.2)
    | none => a
def covered (rs : List (Nat × Nat)) (len : Nat) : Bool := len <= coveredTo rs rs.length 0

/-- The ranges of a request's command that have been acknowledged or placed; `tags` holds them in pairs. -/
def pairs : List Nat → List (Nat × Nat)
  | a :: b :: l => (a, b) :: pairs l
  | _ => []
def Cmd.ranges (c : Cmd) : List (Nat × Nat) := pairs c.tags

/-- A step of NETQ: step 1 sends the data piece by piece, each line checked before it is sent (R380); step 2 waits. `aux`
holds the request, the bytes sent, since when it has been refused for want of space (0 for not at all), and the retransmissions of
each packet. -/
def netqStep (j : Job) (c : Cmd) : EM Unit := do
  let here := localEA j.p j.t c.va.toNat
  match c.step with
  | 0 =>
    j.fill (.scr j.p j.t c.va.toNat) 64 (some 0) false 2
    let c ← j.cmd
    let v := Data.nat c.buf
    if !(workReq v).ok (← get).peers then fail cILLOP here
    else if Data.poison c.buf then fail cNET_ERROR here
    else
      j.upd (fun c => { c with buf := [], aux := [0, if (workReq v).op == 2 then 2 else 1, v, 0, 0, 0] })
      halt .none
  | 1 =>
    let w := workReq (c.arg 0)
    let sent := c.arg 1
    let m := min 4096 (w.len - sent)
    j.fill ((eaddr w.loc).plus sent) m (some 0) false (m / 128 + 3)
    let c ← j.cmd
    if Data.poison c.buf then fail cNET_ERROR w.loc
    else
      j.upd (fun c => { c with buf := [], aux := [0, if sent + m < w.len then 1 else 2, c.arg 0, sent + m, 0, c.arg 3] ++ c.aux.drop 6 })
      halt .none
  | _ => halt .remote

/-- Change a request's command. -/
def netCmd (s : State) (p t q : Nat) (g : Cmd → State) : State :=
  match (s.tile p t).cmd q with
  | some c => (match c.i with
    | .netq _ => if c.st == .running && c.step != 0 then g c else s
    | _ => s)
  | none => s

/-- A request's failure (R380). -/
def State.netFail (s : State) (p t : Nat) (c : Cmd) : State :=
  s.modTile p t (fun tl => tl.fault c cNET_ERROR (workReq (c.arg 0)).loc)

/-- R380, R382: bytes of a request are acknowledged; or refused for want of space; or, where a nack names no bytes, the request is
refused for good. -/
def execNetAcknowledgement (p t q first count : Nat) (ready : Bool) (s : State) : Out :=
  event s (netCmd s p t q fun c =>
    if ready then s.modCmd p t q (fun c => { c with tags := c.tags ++ [first, count], aux := c.aux.set 5 0 })
    else if count == 0 then s.netFail p t c
    else s.modCmd p t q (fun c => { c with aux := c.aux.set 5 (if c.arg 3 == 0 then s.now + 1 else c.arg 3) }))

/-- Whether a packet of a request, the `k`-th 4096 bytes, has been sent and is not acknowledged. A read asks for all of its bytes at
once. -/
def Cmd.packetOut (c : Cmd) (k : Nat) : Bool :=
  let w := workReq (c.arg 0)
  let hi := min w.len (4096 * (k + 1))
  4096 * k < (if w.op == 2 then w.len else c.arg 1) && coveredTo (c.ranges.filter (fun r => r.1 < hi)) c.ranges.length (4096 * k) < hi

/-- R380: a packet that is not acknowledged is sent again; after 8 times the request fails. A refusal for space does not count. The
event names packet k of a command as command × 2^20 + k. -/
def execNetRetransmitTimeout (p t q : Nat) (s : State) : Out :=
  let k := q % 2 ^ 20
  event s (netCmd s p t (q / 2 ^ 20) fun c =>
    if !c.packetOut k || c.arg 3 != 0 then s
    else if c.arg (4 + k) < 8 then
      s.modCmd p t (q / 2 ^ 20) (fun c => { c with aux := (c.aux ++ List.replicate (k + 7 - c.aux.length) 0).set (6 + k) (c.arg (4 + k) + 1) })
    else s.netFail p t c)

/-- R382: a request refused for space for 1 s fails. -/
def execNetSpaceTimeout (p t q : Nat) (s : State) : Out :=
  event s (netCmd s p t q fun c => if c.arg 3 != 0 && c.arg 3 + 1000000000 <= s.now + 1 then s.netFail p t c else s)

/-- R380: a request retires when every byte has been acknowledged, or, for a read, placed. -/
def execNetRequestComplete (p t q : Nat) (s : State) : Out :=
  event s (netCmd s p t q fun c =>
    if c.step == 2 && covered c.ranges (workReq (c.arg 0)).len then s.modCmd p t q (fun c => { c with st := .finished, stall := .none })
    else s)

/-! ### The receiver (R380 to R382) -/

/-- What becomes of bytes that a packet places: placed, no writable translation, or to be offered again. -/
inductive Placed where
  | ok (s : State)
  | none
  | wait (s : State)
  deriving DecidableEq, Repr

/-- Write bytes in a VF's space line by line, or with `w` false only look whether each line has a writable translation; a held frame,
or a stub's page that has not come, makes the packet wait (R387, R389). -/
def State.placeBytes (s : State) (w : Bool) (p vf va : Nat) (bs : List Byte) : Nat → Placed
  | 0 => .ok s
  | n + 1 =>
    if bs.isEmpty then .ok s
    else
      let m := 128 - va % 128
      match translate s p 0 (s.cfg.partOf p vf) vf va .ewrite with
      | (.ok l, s) =>
        if s.heldLoc l then .wait s
        else (if w then s.writeLoc p l (bs.take m) false else s).placeBytes w p vf (va + m) (bs.drop m) n
      | (.touch k tile, s) => .wait (s.askPull p k tile 0)
      | _ => .none

/-- All of the bytes, or none of them. -/
def State.place (s : State) (p vf va : Nat) (bs : List Byte) : Placed :=
  match s.placeBytes false p vf va bs (bs.length / 128 + 2) with
  | .ok s => s.placeBytes true p vf va bs (bs.length / 128 + 2)
  | x => x

/-- The bytes of a record: its header and data, padded (R382). -/
def recordSize (kind len : Nat) : Nat := (64 + (if kind == 0 then len else 0) + 127) / 128 * 128

/-- Where a record of a size starts in the ring, if it fits: never so that the tail would meet the head (R382). -/
def ringFit (size head tail n : Nat) : Option Nat :=
  let at_ := if tail + n <= size then tail else 0
  let used := (tail + size - head) % size
  let skip := if at_ == tail then 0 else size - tail
  if used + skip + n < size then some at_ else none

/-- What becomes of a packet that needs a record: refused at once, not ready, to be offered again, or the record. -/
inductive Reserved where
  | refused | notReady
  | wait (s : State)
  | ok (r : Rx) (s : State)
  deriving DecidableEq, Repr

def rxHeader (k : NetPacket) (kind : Nat) : List Byte :=
  leBytes 4 k.len ++ leBytes 2 k.ep ++ leBytes 1 kind ++ leBytes 1 0 ++ leBytes 8 k.imm.toNat ++
    leBytes 8 (if kind == 1 then k.raddr else 0) ++ List.replicate 40 0

/-- The kind of the request that a packet belongs to: a send, a write with notify, a write without. -/
def packetKind (k : NetPacket) : Nat := if k.op == 0 then 0 else if k.notify then 1 else 2

/-- Find the request of a packet or begin it; a send and a write with notify reserve their record (R382). That `NRXBASE` names a VF
of the partition is not checked: DESIGN CHOICE, log 111. -/
def State.reserve (s : State) (p q : Nat) (k : NetPacket) (data : Nat) : Reserved :=
  let d := s.die p
  match d.rx.find? (fun r => r.part == q && r.ep == k.ep && r.req == k.req && r.kind == (packetKind k)) with
  | some r => .ok r s
  | none =>
    let r : Rx := { part := q, ep := k.ep, req := k.req, kind := (packetKind k), len := k.len, at_ := 0, imm := k.imm, raddr := k.raddr,
                    data := data, after := k.after }
    if (packetKind k) == 2 then .ok r (s.modDie p fun d => { d with rx := d.rx ++ [r] })
    else
      let base := d.nrxBase q
      let size := d.nrxSize q
      let n := recordSize (packetKind k) k.len
      let pt : Part := SMap.get {} d.parts q
      if !bit base 63 || size < n then .refused
      else match ringFit size pt.nrxHead pt.nrxTail n with
        | none => .notReady
        | some at_ =>
          let va := bits base 56 12 * 4096 + at_
          match s.place p (bits base 7 0) va (rxHeader k (packetKind k) ++ List.replicate (n - 64) 0) with
          | .none => .refused
          | .wait s => .wait s
          | .ok s =>
            let r : Rx := { r with at_ := at_, data := if (packetKind k) == 0 then va + 64 else data }
            .ok r (s.modDie p fun d => { d with
              rx := d.rx ++ [r]
              parts := d.parts.put q { pt with nrxTail := (at_ + n) % size } })

/-- The key under which a request is remembered once it has been delivered (R378). -/
def Rx.key (r : Rx) : Nat × Nat × Nat × Nat := (r.part, r.ep, r.req, r.kind)

/-- Note a piece of a request as placed. A write without notify is delivered with its last piece; the others when their thread
starts. -/
def Die.gotPiece (d : Die) (r : Rx) (off n : Nat) : Die :=
  let d := { d with rx := d.rx.map (fun (x : Rx) => if x.key == r.key then { x with got := x.got ++ [(off, n)] } else x) }
  match d.rx.find? (fun x => x.key == r.key && x.kind == 2 && covered x.got x.len) with
  | some x => { d with rx := d.rx.erase x, rxDone := d.rxDone ++ [x.key] }
  | none => d

/-- The answer to a packet. -/
def State.reply (s : State) (r : NetReply) : State := { s with netOut := some r }

/-- A packet that is dropped and counted (R378). -/
def State.dropPacket (s : State) (p : Nat) (r : NetReply) : State := (s.modDie p fun d => { d with chfd := bump d.chfd }).reply r

/-- A read's data at its requester (R380): `req` names the command as tile × 2^32 + number. What has been placed already is not
placed again. -/
def State.readPlaced (s : State) (p q : Nat) (k : NetPacket) : State :=
  let t := k.req / 2 ^ 32
  let seq := k.req % 2 ^ 32
  netCmd s p t seq fun c =>
    let w := workReq (c.arg 0)
    if c.part != q || w.ep != k.ep then s.dropPacket p .wrongJob
    else if w.op != 2 || w.len < k.off + k.data.length then s
    else if k.off + k.data.length <= coveredTo c.ranges c.ranges.length k.off then s.reply .ack
    else
      let j : Job := { p := p, t := t, seq := seq }
      let step : EM Unit := do
        j.upd (fun c => { c with buf := k.data.map (fun b => (b, 0)) })
        j.drain ((eaddr w.loc).plus k.off) 0 false (k.data.length / 128 + 3)
        j.upd (fun c => { c with buf := [], aux := 0 :: c.aux.drop 1, tags := c.tags ++ [k.off, k.data.length] })
      match step s with
      | (.ok _, s) => s.reply .ack
      | (.error (.stall _), _) => s
      | (.error (.fault cause a), u) => u.modTile p t (fun tl => tl.fault c cause a)

/-- The bytes that a packet of a read asks for, each line checked before it is sent (R380). -/
def State.readOut (s : State) (p vf va n : Nat) : Nat → Option (List Byte) × State
  | 0 => (some [], s)
  | f + 1 =>
    if n == 0 then (some [], s)
    else
      let m := min n (128 - va % 128)
      match translate s p 0 (s.cfg.partOf p vf) vf va .eread with
      | (.ok l, s) =>
        let c := s.badLoc p l m
        let b := leBytes m (s.readLoc p l m)
        let s := s.touchLoc p l
        if c != 0 then (none, s) else match s.readOut p vf (va + m) (n - m) f with
          | (some bs, s) => (some (b ++ bs), s)
          | x => x
      | (.touch k tile, s) => (some [], s.askPull p k tile 0)
      | (_, s) => (none, s)

/-- A read asked for by a peer (R379, R380): the packet's 4096 bytes go back, unless a line of them fails its check. -/
def State.readAsked (s : State) (p : Nat) (k : NetPacket) (base len vf : Nat) : State :=
  let m := min 4096 (k.len - k.off)
  if len < k.raddr + k.off + m then s.dropPacket p .refused
  else match s.readOut p vf (base + k.raddr + k.off) m (m / 128 + 2) with
    | (some bs, u) => if bs.length == m then u.reply (.data bs) else u
    | (none, u) => u.reply .refused

/-- A packet of a send or of a write: placed at its offset, once; a request that has been delivered is acknowledged again. -/
def State.receive (s : State) (p q : Nat) (k : NetPacket) (vf data : Nat) : State :=
  if (s.die p).rxDone.contains (q, k.ep, k.req, (packetKind k)) then s.reply .ack
  else match s.reserve p q k data with
    | .refused => s.reply .refused
    | .notReady => s.reply .notReady
    | .wait s => s
    | .ok r u =>
      if r.len < k.off + k.data.length then s
      else if k.off + k.data.length <= coveredTo r.got r.got.length k.off then s.reply .ack
      else match u.place p vf (r.data + k.off) k.data with
        | .ok v => (v.modDie p fun d => d.gotPiece r k.off k.data.length).reply .ack
        | .wait s => s
        | .none => s

/-- R378, R380 to R382: one packet arrives for a partition. What the receiver answers stands in `netOut`; nothing, where the packet
is to be offered again. -/
def execNetPacketReceive (p q : Nat) (k : NetPacket) (s : State) : Out :=
  let d := s.die p
  let s := { s with netOut := none }
  event s (
    if d.epJob q k.ep != k.job || 1024 <= k.ep then s.dropPacket p .wrongJob
    else if k.op == 2 then s.readPlaced p q k
    else if k.op == 0 then s.receive p q k (bits (d.nrxBase q) 7 0) 0
    else match d.region q k.rkey with
      | none => s.dropPacket p .refused
      | some (base, len, vf, w) =>
        if 24 <= vf || s.cfg.partOf p vf != q then s.dropPacket p .refused
        else if k.op == 3 then s.readAsked p k base len vf
        else if !w || len < k.raddr + k.off + k.data.length then s.dropPacket p .refused
        else s.receive p q k vf (base + k.raddr))

/-- The first record whose bytes are all placed; a send waits for the one of its queue and endpoint that it must follow (R378, R381). -/
def Die.nextRecord (d : Die) (q : Nat) : Option Rx :=
  d.rx.find? fun r => r.part == q && r.kind != 2 && covered r.got r.len &&
    (match r.after with | some x => d.rxDone.contains (q, r.ep, x, 0) | none => true)

/-- R381: once every byte of a record is placed, a tiller thread starts at the partition's receive handler, as for a message
that arrives (R260). -/
def execNetRecordComplete (p q : Nat) (s : State) : Out :=
  let d := s.die p
  event s (match d.nextRecord q with
    | none => s
    | some r =>
      let h := d.nrxHdl q
      let t := bits h 61 57
      let k : Claim := { entry := BitVec.ofNat 57 (bits h 56 1 * 2), x1 := BitVec.ofNat 64 r.data, x2 := BitVec.ofNat 64 r.len,
                         x3 := BitVec.ofNat 64 (512 + r.ep), x4 := BitVec.ofNat 64 (bits (d.nrxBase q) 56 12 * 4096 + r.at_), part := some q }
      if 16 <= (s.tile p t).handlers.length then s
      else (s.setDie p { d with rx := d.rx.erase r, rxDone := d.rxDone ++ [r.key] }).modTile p t fun tl =>
        { tl with handlers := tl.handlers ++ [k] })

/-- A write to NRXHEAD (R382). -/
def nrxheadM (v : Word) (s : State) : R State := do
  let d := s.myDie
  let q := s.myCtx.part
  let size := d.nrxSize q
  let pt : Part := SMap.get {} d.parts q
  let far := fun (x : Nat) => (x + size - pt.nrxHead) % size
  -- bits 63:40 are reserved (R9, R382)
  let h := bits v 39 0
  legal s (h % 128 == 0 && (h < size || h == pt.nrxHead) && far h <= far pt.nrxTail)
  pure (s.setMyDie { d with parts := d.parts.put q { pt with nrxHead := h } })

/-- The write as the step that performs it: the register that a `SETC` names. -/
def execNrxheadWrite (a : BitVec 8) (s : State) : Out :=
  if s.powered then finish s (nrxheadM (s.reg a) s) else .fault .unpowered

end Sys2Proof.Machine
end

