-- ==== Sys2Proof/Machine/Copy.lean ====
section
/-! DEFINITION. Class C (R207 to R228): what each form checks and queues at issue, and the micro-steps of the copy engine:
nests, copies, gather and scatter, decompression, slab moves, tier prefetch and storage. -/

namespace Sys2Proof.Machine

/-! ### Loop nests (R213, R214) -/

def cnestTile (f : EngF) (e : Site) (a b : Word) : Chk Tile := do
  let slot := f.m.toNat
  chkLegal (if slot < 6 then b == 0 else if slot == 6 then eaddrOk a && eaddrOk b else bits a 63 14 == 0 && bits b 63 40 == 0)
  chk (e.owns 4) cPERM_FAULT 0
  pure { e.tile with nests := SMap.set (0, 0) e.tile.nests (4 * 8 + slot) (a, b) }
def execCnest (f : EngF) (s : State) : Out :=
  issue (.cnest f) s (s.actTile (cnestTile f s.site (s.reg f.a) (s.reg f.b)))

/-- A nest of `CGO`: levels as count, source and destination stride, innermost first; bases; length; elements. -/
structure CNest where
  levels : List (Nat × Int × Int)
  sbase : Word
  dbase : Word
  len : Nat
  elems : Nat

def cnestOf (n : List (Word × Word)) : CNest :=
  let at_ := fun k => n.getD k (0, 0)
  { levels := (n.take 6).map (fun x => (bits x.1 15 0 + 1, sint (bits x.1 39 16) 24, sint (bits x.1 63 40) 24)),
    sbase := (at_ 6).1, dbase := (at_ 6).2, len := bits (at_ 7).1 13 0 + 1, elems := bits (at_ 7).2 39 0 }

/-- Extremes of Σ i_l × k_l. -/
def spread (ls : List (Nat × Int)) : Int × Int :=
  ls.foldl (fun a l => let x : Int := (l.1 - 1 : Nat) * l.2; (a.1 + min 0 x, a.2 + max 0 x)) (0, 0)

/-- Offset and divisor of a plane (R214). -/
def CNest.plane (x : CNest) (psel : Nat) : Nat × Nat :=
  match psel with | 0 => (0, 1) | 1 => (0, 4) | 2 => (x.elems / 4, 4) | _ => (x.elems / 2, 2)

/-- The span of local scratchpad from the least to the greatest address of an operand. -/
def Site.nestSpan (e : Site) (w : Word) (off : Nat) (x : Int × Int) (len : Nat) : Chk (List (Nat × Nat)) :=
  match (eaddr w).here e.p e.t with
  | none => pure []
  | some a =>
    let lo := (a : Int) + off + x.1
    if lo < 0 then .error (cADDR_RANGE, a) else pure [(lo.toNat, (x.2 - x.1).toNat + len)]

def prepCgo (f : EngF) (e : Site) (va vb ve : Word) : Chk Cmd := do
  let tab := (List.range 8).map (fun k => SMap.get (0, 0) e.tile.nests (4 * 8 + k))
  let x := cnestOf tab
  let psel := bits f.m 2 1
  let (off, b) := x.plane psel
  chkLegal (if psel == 0 then x.len <= 4096 && x.elems == 0
    else x.elems != 0 && x.elems % 512 == 0 && x.len % 8 == 0 && x.len / b <= 4096 && x.levels.all (fun l => l.2.1 % 8 == 0))
  let ss := spread (x.levels.map (fun l => (l.1, l.2.1)))
  let sr ← e.nestSpan x.sbase off (ss.1 / (b : Int), ss.2 / (b : Int)) (x.len / b)
  let sw ← e.nestSpan x.dbase 0 (spread (x.levels.map (fun l => (l.1, l.2.2)))) (x.len / b)
  let c ← e.make (.cgo f) f.d va vb ve [4] sr sw
  pure { c with nest := tab }

/-- The iteration numbers of a nest, innermost first. -/
def nestIndex : List Nat → Nat → List Nat
  | [], _ => []
  | c :: cs, n => (n % c) :: nestIndex cs (n / c)

/-- A step of CGO: one iteration (R214, R358). -/
def cgoStep (j : Job) (c : Cmd) (f : EngF) : EM Unit := do
  let x := cnestOf c.nest
  let (off, b) := x.plane (bits f.m 2 1)
  let ix := (nestIndex (x.levels.map (·.1)) c.prog).zip x.levels
  let so : Int := (ix.map (fun e => (e.1 : Int) * e.2.2.1)).sum
  let do_ : Int := (ix.map (fun e => (e.1 : Int) * e.2.2.2)).sum
  let peers := (← get).peers
  if eaddrLost x.sbase peers then fail cILLOP x.sbase
  if eaddrLost x.dbase peers then fail cILLOP x.dbase
  j.copy ((eaddr x.sbase).plus (off + so / (b : Int))) ((eaddr x.dbase).plus do_) (x.len / b) f (bit f.m 0)
  j.next (c.prog + 1 == x.levels.foldl (fun n l => n * l.1) 1)

/-! ### CPY (R215) -/

def prepCpy (f : EngF) (e : Site) (va vb ve : Word) : Chk Cmd := do
  chkLegal (bits ve 63 32 == 0 && ve != 0)
  e.chkEA va
  e.chkEA vb
  e.make (.cpy f) f.d va vb ve [4] (e.localSpan va ve.toNat) (e.localSpan vb ve.toNat)

/-- A step of CPY: one piece of at most 4,096 bytes. -/
def cpyStep (j : Job) (c : Cmd) (f : EngF) : EM Unit := do
  let o := 4096 * c.prog
  let m := min 4096 (c.ve.toNat - o)
  j.copy ((eaddr c.va).plus o) ((eaddr c.vb).plus o) m f (bit f.m 0)
  j.next (c.ve.toNat <= o + m)

/-! ### GATH and SCAT (R216) -/

/-- Index count and list address of operand b. -/
def idxCount (b : Word) : Nat := bits b 47 32 + 1
def idxBase (b : Word) : Nat := bits b 31 0

/-- The checks that both forms make. -/
def Site.chkIndexed (e : Site) (va vb ve : Word) (r : Nat) : Chk Unit := do
  chkLegal (bits vb 63 48 == 0)
  e.chkEA va
  e.chkEA ve
  chkLive e.tile (idxBase vb :: (e.localSpan va r ++ e.localSpan ve r).map (·.1))
  chk (va.toNat % r == 0) cMISALIGN va.toNat
  chk (idxBase vb % 4 == 0) cMISALIGN (idxBase vb)
  chk (ve.toNat % r == 0) cMISALIGN ve.toNat

/-- The rest of the region of a table in local scratchpad: what a scatter may write. -/
def Site.tableSpan (e : Site) (va : Word) : List (Nat × Nat) :=
  match (eaddr va).here e.p e.t with
  | none => []
  | some a =>
    if a / 2 ^ 22 == 0 then [(a, 2 ^ 22 - a)]
    else
      let b : Buffer := SMap.get {} e.tile.bufs (a / 2 ^ 22 % 256)
      [(a, (b.lenM1.toNat + 1) * 128 - a % 2 ^ 22)]

def prepGath (f : EngF) (e : Site) (va vb ve : Word) : Chk Cmd := do
  let r := 2 ^ bits f.m 3 0
  let n := idxCount vb
  e.chkIndexed va vb ve r
  (e.localSpan va r).forM (chkSpan e.tile)
  e.make (.gath f) f.d va vb ve [4] [(idxBase vb, 4 * n)] (e.localSpan ve (n * r))

def prepScat (f : EngF) (e : Site) (va vb ve : Word) : Chk Cmd := do
  let r := 2 ^ bits f.m 3 0
  let n := idxCount vb
  e.chkIndexed va vb ve r
  (e.localSpan va r).forM (chkSpan e.tile)
  e.make (.scat f) f.d va vb ve [4] ((idxBase vb, 4 * n) :: e.localSpan ve (n * r)) (e.tableSpan va)

/-- A step of GATH or SCAT: one index. Step 0 reads it, step 1 moves its record. -/
def indexedStep (j : Job) (c : Cmd) (f : EngF) (gath : Bool) : EM Unit := do
  let r := 2 ^ bits f.m 3 0
  let k := c.prog
  let fin := k + 1 == idxCount c.vb
  if c.step == 0 then
    let d ← j.read c (.scr j.p j.t (idxBase c.vb + 4 * k)) 4 none true
    let x := Data.nat d
    if x == 0xFFFFFFFF && !gath then j.next fin
    else
      let pad : Data := if x == 0xFFFFFFFF then List.replicate r (0, 0) else []
      j.upd (fun c => { c with aux := [0, 1, x], buf := pad })
  let c ← j.cmd
  if c.step == 1 then
    let x := c.arg 0
    let table := (eaddr c.va).plus (x * r)
    let packed := (eaddr c.ve).plus (k * r)
    j.fill (if gath then table else packed) r (some f.lay.toNat) f.ri (r / 128 + 3)
    j.drain (if gath then packed else table) f.lay (gath && bit f.m 4) (r / 128 + 3)
    j.upd (fun c => { c with aux := [0, 0], buf := [] })
    j.next fin

/-! ### DECOMP (R217, R218) -/

/-- Codes of a slot: for each length 1 to 15, its symbols in ascending order. -/
def Tile.codeSyms (t : Tile) (slot : Nat) : List (List Nat) :=
  (List.range 15).map fun l => (List.range 256).filter (fun s => SMap.get 0 t.dtab (slot * 256 + s) == l + 1)

/-- Whether a slot is loaded and its Kraft sum does not exceed 1. -/
def Tile.tableOk (t : Tile) (slot : Nat) : Bool :=
  slot < 16 && SMap.get false t.dtabOk slot &&
    ((t.codeSyms slot).zipIdx.foldl (fun n e => n + e.1.length * 2 ^ (14 - e.2)) 0) <= 2 ^ 15

/-- One symbol: its value and the bits left; none when no code matches. -/
def nextSym : List (List Nat) → Nat → Nat → List Bool → Option (Nat × List Bool)
  | [], _, _, _ => none
  | _, _, _, [] => none
  | ss :: rest, first, code, b :: bs =>
    let code := 2 * code + b2n b
    if code < first + ss.length then (if first <= code then some (ss.getD (code - first) 0, bs) else none)
    else nextSym rest (2 * (first + ss.length)) code bs

/-- Decode `n` symbols; the bytes, and the bits left. -/
def decodeSyms (t : List (List Nat)) : Nat → List Bool → Option (List Byte × List Bool)
  | 0, bs => some ([], bs)
  | n + 1, bs =>
    match nextSym t 0 0 bs with
    | none => none
    | some (s, bs) => match decodeSyms t n bs with
      | none => none
      | some (r, bs) => some (BitVec.ofNat 8 s :: r, bs)

/-- Bits of bytes, each from bit 7 down. -/
def bitsOf (d : List Byte) : List Bool := d.flatMap (fun b => (List.range 8).map (fun i => bit b (7 - i)))

/-- A block's header. -/
structure BlockHead where
  coded : Nat
  table : Nat
  raw : Nat
  stored : Bool
  last : Bool
  zero : Bool
  crc : Nat
  seq : Nat

def blockHead (v : Nat) : BlockHead :=
  let g := fun (hi lo : Nat) => v / 2 ^ (8 * lo) % 2 ^ (8 * (hi + 1 - lo))
  { coded := g 2 0, table := g 3 3, raw := g 6 4, stored := (g 7 7).testBit 0, last := (g 7 7).testBit 1,
    zero := g 7 7 < 4, crc := g 11 8, seq := g 15 12 }

/-- The decoded bytes of a block's payload: exactly as many as the header says, from every payload byte. -/
def BlockHead.decode (h : BlockHead) (t : Tile) (payload : List Byte) : Option (List Byte) :=
  if h.stored then (if h.coded == h.raw then some payload else none)
  else match decodeSyms (t.codeSyms h.table) h.raw (bitsOf payload) with
    | some (r, rest) => if rest.length < 8 then some r else none
    | none => none

/-- Region that operand b of `DECOMP` addresses: bytes from b to its end. -/
def Site.regionLeft (e : Site) (b : Nat) : Nat :=
  if b / 2 ^ 22 == 0 then 2 ^ 22 - b
  else
    let x : Buffer := SMap.get {} e.tile.bufs (b / 2 ^ 22 % 256)
    (x.lenM1.toNat + 1) * 128 - b % 2 ^ 22

def prepDecomp (f : EngF) (e : Site) (va vb ve : Word) : Chk Cmd := do
  let ring := bits ve 46 32
  let count := bits ve 62 47 + 1
  chkLegal (!bit ve 63)
  e.chkEA va
  chkLive e.tile (vb.toNat :: (e.localSpan va 16).map (·.1))
  chk (va.toNat % 16 == 0) cMISALIGN va.toNat
  chk (vb.toNat % 128 == 0) cMISALIGN vb.toNat
  chkSpan e.tile (vb.toNat, 128 * max 1 ring)
  let n := min (128 * (if ring == 0 then 512 * count else ring)) (e.regionLeft vb.toNat)
  (e.localSpan va 16).forM (chkSpan e.tile)
  e.make (.decomp f) f.d va vb ve [4] (e.tableSpan va) [(vb.toNat, n)]

/-- The address of line `k` of a command's destination: out of range where the offset leaves the buffer's window. -/
def decompLine (b k : Nat) : Nat :=
  let o := b % 2 ^ 22 + 128 * k
  if b / 2 ^ 22 != 0 && 2 ^ 22 <= o then 2 ^ 32 else b + 128 * k

/-- A part of a block of DECOMP: its header; its payload; its lines. `aux` holds the block's offset in the stream, the lines
before it, its header, and whether it is good, with 2 where the header's line is poisoned, which the block's lines then are too.
`prog` counts blocks. Each read by itself is of a whole line or of a part (R209; log 16). What it gives is where the command stops after it, if it
does. -/
def decompBlock (j : Job) (c : Cmd) (f : EngF) : EM (Option Word) := do
  let pos := c.arg 0
  let line := c.arg 1
  let src := (eaddr c.va).plus pos
  let tl := (← get).tile j.p j.t
  match c.step with
  | 0 =>
    j.fill src 16 (some f.lay.toNat) false 3
    let c ← j.cmd
    let v := Data.nat c.buf
    let h := blockHead v
    if h.raw == 0 || 65536 < h.raw || !h.zero then fail cDECODE_ERROR src.word
    else
      let ok := h.seq == (bits c.ve 31 0 + c.prog) % 2 ^ 32 && (h.stored || tl.tableOk h.table)
      j.upd (fun c => { c with aux := [0, 1, pos, line, v, b2n ok + 2 * b2n (Data.poison c.buf)], buf := [] })
      pure none
  | 1 =>
    let h := blockHead (c.arg 2)
    let ok := c.arg 3 % 2 == 1
    if ok then j.fill (src.plus 16) h.coded (some f.lay.toNat) false (h.coded / 128 + 3)
    let c ← j.cmd
    let raw := if ok then h.decode tl (c.buf.map (·.1)) else none
    let lines := (h.raw + 127) / 128
    let gone := c.buf.any (·.2 == 2)
    let bad := Data.poison c.buf || 2 <= c.arg 3
    let data : Option (List Byte) := match raw with
      | some r => if crc32c r == h.crc then some r else none
      | none => none
    match raw with
    | some r => if crc32c r != h.crc then j.note cCRC_MISMATCH src.word
    | none => j.note cDECODE_ERROR src.word
    if data.isNone then modify (fun s => s.modTile j.p j.t fun t => { t with chaffc := bump t.chaffc })
    let out : Data := match data with
      | some r => if gone then List.replicate (128 * lines) (0, 2)
        else (r ++ List.replicate (128 * lines - r.length) 0).map (fun b => (b, b2n bad))
      | none => List.replicate (128 * lines) (0, 2)
    j.upd (fun c => { c with aux := [0, 2, pos, line, c.arg 2, 0], buf := out })
    pure none
  | _ =>
    let h := blockHead (c.arg 2)
    let ring := bits c.ve 46 32
    let lines := c.buf.length / 128
    writeLines j f ring line lines (lines + 1)
    let pos' := pos + 16 + (h.coded + 15) / 16 * 16
    let fin := c.prog + 1 == bits c.ve 62 47 + 1
    j.upd (fun c => { c with aux := [0, 0, pos', line + lines], buf := [] })
    j.next fin
    pure (if h.last && !fin && !c.stop then some ((eaddr c.va).plus pos').word else none)
where
  /-- Write the lines of a block one by one; recursion on their number. -/
  writeLines (j : Job) (f : EngF) (ring line lines : Nat) : Nat → EM Unit
    | 0 => pure ()
    | n + 1 => do
      let c ← j.cmd
      let q := c.aux.getD 0 0
      if lines <= q then pure ()
      else
        let k := if ring == 0 then line + q else (line + q) % ring
        j.write c (.scr j.p j.t (decompLine c.vb.toNat k)) ((c.buf.drop (128 * q)).take 128) f.lay (bit f.m 0)
        j.upd (fun c => { c with aux := (q + 1) :: c.aux.drop 1 })
        writeLines j f ring line lines n

/-- A step of DECOMP: every cause of a block names its header (R304); a block flagged last before the count is reached stops
the command at the next one (R218). -/
def decompStep (j : Job) (c : Cmd) (f : EngF) : EM Unit := do
  match ← j.naming ((eaddr c.va).plus (c.arg 0)).word (fun j => decompBlock j c f) with
  | some a => fail cDECODE_ERROR a
  | none => pure ()

/-! ### SLABMV (R219, R337, R338) -/

def prepSlabmv (f : EngF) (e : Site) (va vb ve : Word) : Chk Cmd := do
  chkLegal (bits va 15 12 == 0 && bits va 63 24 == 0 && bits vb 11 2 == 0 && bits vb 63 47 == 0)
  e.make (.slabmv f) f.d va vb ve [4] [] []

/-- A copy command as an asker for pages (R341). -/
def Job.asker (j : Job) : Nat := 2 ^ 20 + j.t * 2 ^ 32 + j.seq

/-- The start of a move: its checks, the quota, a forwarding pair. Which cause a run outside the arena or over another slab, a tier
that is not the slab's, a demoted slab and another partition's slot record is the model's choice (log 70). -/
def slabStart (j : Job) (c : Cmd) : EM Unit := do
  let s ← get
  let d := s.die j.p
  let n := bits c.va 11 0
  let idx := bits c.va 23 16
  let tier := bits c.vb 1 0
  let x := d.slot n
  if 2 <= tier then fail cILLOP 0
  if x.state == 0 then fail cILLOP 0
  if s.cfg.partOf j.p x.vf != c.part then fail cPERM_FAULT 0
  match x.slabs.find idx with
  | none => fail cILLOP 0
  | some b =>
    let base := (s.cfg.kvArena j.p b.vf tier).1 + bits c.vb 46 12 * 4096
    if d.slabMoves n idx || b.tier != tier || b.demoted.isSome || 2 ^ 29 < 2 * b.bytes ||
        !d.runFree s.cfg j.p b.vf tier base (2 * b.bytes) then fail cILLOP 0
    if d.slabHeld b then fail cPERM_FAULT 0
    match (List.range 16).find? (fun k => !(SMap.get ({} : Fwd) d.fwd k).busy) with
    | none => halt .none
    | some k =>
      match d.demand s.cfg j.p tier b.vf (kvPages (2 * b.bytes)) j.asker with
      | .beyond => fail cPERM_FAULT 0
      | .few => fail cPERM_FAULT 0
      | .wait =>
        let k : PageClaim := { vf := b.vf, pages := kvPages (2 * b.bytes), since := s.now, asker := j.asker }
        set ((s.setDie j.p (d.claim tier k)).openClaim j.p tier)
        halt .none
      | .ok =>
        let w : Fwd := { busy := true, slot := n, slab := idx, tier := tier, old := b.base, new := base }
        let d := (d.unclaim tier j.asker).scrub tier base (2 * b.bytes)
        set (s.setDie j.p { d with fwd := SMap.set {} d.fwd k w })
        j.setAux [1, k]

/-- One piece of a move, and its end after the last. -/
def slabPiece (j : Job) (c : Cmd) : EM Unit := do
  let s ← get
  let d := s.die j.p
  let k := c.arg 0
  let w : Fwd := SMap.get {} d.fwd k
  let x := d.slot w.slot
  -- a move that a demotion or the end of its slot has ended has nothing more to do (log 108)
  let mine := w.busy && w.slot == bits c.va 11 0 && w.slab == bits c.va 23 16
  match if mine then x.slabs.find w.slab else none with
  | none =>
    set (if mine then s.setDie j.p { d with fwd := SMap.set {} d.fwd k {} } else s)
    j.done
  | some b =>
    let total := 2 ^ b.lsize
    let m := min (max 1 (4096 / b.stride)) (total - w.boundary)
    let o := w.boundary * b.stride
    -- a hold taken since the move began keeps its frames where they are: the move waits (R286, R389, log 121)
    if d.slabBusy w.slot w.slab b then halt .none
    let d := d.moveBytes w.tier (w.old + o) w.tier (w.new + o) (m * b.stride)
    if w.boundary + m < total then
      let w' : Fwd := { w with boundary := w.boundary + m }
      set (s.setDie j.p { d with fwd := SMap.set {} d.fwd k w' })
      j.next false
    else
      let d := d.scrub w.tier w.old b.bytes
      let d := d.setSlot w.slot { x with slabs := x.slabs.put w.slab { b with base := w.new, lsize := b.lsize + 1 } }
      set (s.setDie j.p { d with fwd := SMap.set {} d.fwd k {} })
      j.next true

def slabmvStep (j : Job) (c : Cmd) : EM Unit := if c.step == 0 then slabStart j c else slabPiece j c

/-! ### TIERPF (R225) -/

def prepTierpf (f : EngF) (e : Site) (va vb ve : Word) : Chk Cmd := do
  chkLegal (bits vb 11 0 == 0)
  chk (bits va 11 0 == 0) cMISALIGN va.toNat
  e.make (.tierpf f) f.d va vb ve [4] [] []

/-- Fill the copies of a page of access mode 10 that the die does not hold yet (R288). -/
def State.fillCopies (s : State) (p home a : Nat) : State :=
  (List.range 32).foldl (fun s k => s.touchLoc p (.copy home (a + 128 * k))) s

/-- A step of TIERPF: one page. A page that may not move is skipped; a page of a stub is pulled (R387). -/
def tierpfStep (j : Job) (c : Cmd) (f : EngF) : EM Unit := do
  let n := c.vb.toNat / 4096
  let va := c.va.toNat + 4096 * c.prog
  if n <= c.prog then j.done
  else
    let s ← get
    let (x, s) := translate s j.p j.t c.part c.vf va .hint
    match x with
    | .fault _ => set s
    | .touch k tile =>
      if (s.die j.p).tileLost k tile then j.note cPULL_LOST (BitVec.ofNat 64 va)
      else do
        set (s.askPull j.p k tile 0)
        halt .none
    | .ok (.copy home a) => set (if bit f.m 0 || s.gone j.p home then s else s.fillCopies j.p home a)
    | .ok _ =>
      if bit f.m 0 && s.migrateHeld j.p c.vf then halt .none
      set (if bit f.m 0 then s.migrate j.p c.vf va else s)
    j.next (n <= c.prog + 1)

/-! ### Storage (R226, R345, R346) -/

def Site.chkPair (e : Site) (va : Word) : Chk Unit :=
  chk (e.cfg.pairOwner e.p (nvPair va) == e.p % 8 * 4 + e.part) cPERM_FAULT 0

def prepNvrd (f : EngF) (e : Site) (va vb ve : Word) : Chk Cmd := do
  let n := 4096 * (bits ve 7 0 + 1)
  chkLegal (bits va 55 54 == 0 && bits va 63 56 != 0 && bits ve 63 8 == 0)
  e.chkEA vb
  chk (vb.toNat % 4096 == 0) cMISALIGN vb.toNat
  let c ← e.make (.nvrd f) f.d va vb ve [4] [] (e.localSpan vb n)
  e.chkPair va
  pure c

def prepNvwr (f : EngF) (e : Site) (va vb ve : Word) : Chk Cmd := do
  let flush := bit f.m 1
  let n := 4096 * (bits ve 7 0 + 1)
  chkLegal (bits va 55 54 == 0 && bits va 63 56 != 0 && bits ve 63 8 == 0 &&
    (!flush || (vb == 0 && ve == 0 && bits va 47 0 == 0 && !bit f.m 0)))
  e.chkEA vb
  chk (vb.toNat % 4096 == 0) cMISALIGN vb.toNat
  let c ← e.make (.nvwr f) f.d va vb ve [4] (if flush then [] else e.localSpan vb n) []
  e.chkPair va
  pure c

/-- Submit a command, or wait while the pair is full or a command issued before it waits (R226): step 1 since a time. -/
def nvSubmit (j : Job) (c : Cmd) : EM Unit := do
  let s ← get
  if !s.pairReady j.p then fail cNVME_STATUS c.vb
  else if s.pairFull j.p (nvPair c.va) ||
      (s.unsubmitted j.p (nvPair c.va)).head?.any (fun e => e.2 != (j.p, j.t, j.seq)) then halt .none
  else
    j.setAux [1, s.now]
    halt .remote

def nvrdStep (j : Job) (c : Cmd) (f : EngF) : EM Unit := do
  match c.step with
  | 0 => nvSubmit j c
  | 2 =>
    j.drain (eaddr c.vb) f.lay (bit f.m 0) (c.buf.length / 128 + 3)
    j.done
  | _ => halt .remote

def nvwrStep (j : Job) (c : Cmd) (f : EngF) : EM Unit := do
  if c.step == 0 then
    if !bit f.m 1 then
      let n := 4096 * (bits c.ve 7 0 + 1)
      j.fill (eaddr c.vb) n (some f.lay.toNat) f.ri (n / 128 + 3)
      let c ← j.cmd
      if Data.poison c.buf then fail cNVME_STATUS c.vb
    nvSubmit j c
  else halt .remote

/-- A completion entry: data for a read, or a failure, after which a read's lines are zeros with poison. -/
def State.nvDone (s : State) (p t q status : Nat) (data : List Byte) : State :=
  match (s.tile p t).cmd q with
  | none => s
  | some c =>
    let n := 4096 * (bits c.ve 7 0 + 1)
    let failed := fun (s : State) => (s.modTile p t (fun tl => tl.record c cNVME_STATUS c.vb)).modCmd p t q (fun c => { c with err := true })
    if c.st != .running || c.step != 1 then s
    else match c.i with
    | .nvrd _ =>
      let d : Data := if status == 0 then ((data ++ List.replicate n 0).take n).map (fun b => (b, 0)) else lost n
      (if status == 0 then s else failed s).modCmd p t q (fun c => { c with aux := [0, 2], buf := d, stall := .none })
    | .nvwr _ =>
      if status == 0 then s.modCmd p t q (fun c => { c with st := .finished, stall := .none, buf := [] })
      else s.modTile p t (fun tl => tl.fault c cNVME_STATUS c.vb)
    | _ => s

/-- R226, R346: the controller's completion entry for command q of a tile, or for transfer q of the sequence manager. -/
def execNvmeCompletion (p t q status : Nat) (data : List (BitVec 8)) (s : State) : Out :=
  event s (if t == managerTile then s.swapDone p q status else s.nvDone p t q status data)

/-- R346: firmware aborts a command that has been outstanding for 1 s. -/
def execNvmeCommandTimeout (p t q : Nat) (s : State) : Out :=
  event s (if t == managerTile then
      (if (s.die p).swaps.any (fun w => w.id == q && w.since.any (· + 1000000000 <= s.now)) then s.swapDone p q 1 else s)
    else match (s.tile p t).cmd q with
    | none => s
    | some c => if c.step == 1 && c.arg 0 + 1000000000 <= s.now then s.nvDone p t q 1 [] else s)

/-! ### The forms -/

/-- A C form of the issuing stream. -/
def copyForm (i : Instr) (s : State) (r : Chk Cmd) : Out :=
  engFormThen (fun u => u.numbered s.iss.peer s.iss.tile) i s false r

/-- The owner of a send queue of a die (R378). -/
def Cfg.sendQueue (c : Cfg) (p n : Nat) : Nat := SMap.get 0 c.sqOwner (p * 64 + n)

def execCgo (f : EngF) (s : State) : Out := copyForm (.cgo f) s (prepCgo f s.site 0 0 0)
def execCpy (f : EngF) (s : State) : Out := copyForm (.cpy f) s (prepCpy f s.site (s.reg f.a) (s.reg f.b) (s.reg f.e))
def execGath (f : EngF) (s : State) : Out := copyForm (.gath f) s (prepGath f s.site (s.reg f.a) (s.reg f.b) (s.reg f.e))
def execScat (f : EngF) (s : State) : Out := copyForm (.scat f) s (prepScat f s.site (s.reg f.a) (s.reg f.b) (s.reg f.e))
def execDecomp (f : EngF) (s : State) : Out :=
  copyForm (.decomp f) s (prepDecomp f s.site (s.reg f.a) (s.reg f.b) (s.reg f.e))
def execSlabmv (f : EngF) (s : State) : Out := copyForm (.slabmv f) s (prepSlabmv f s.site (s.reg f.a) (s.reg f.b) 0)
def execDsend (f : EngF) (s : State) : Out := copyForm (.dsend f) s (prepDsend f s.site (s.reg f.a) (s.reg f.b) (s.reg f.e))
def execSpull (f : EngF) (s : State) : Out := copyForm (.spull f) s (prepSpull f s.site (s.reg f.a) (s.reg f.b) 0)
def execSdrop (f : EngF) (s : State) : Out := copyForm (.sdrop f) s (prepSdrop f s.site (s.reg f.a) 0 0)
def execSfwd (f : EngF) (s : State) : Out := copyForm (.sfwd f) s (prepSfwd f s.site (s.reg f.a) (s.reg f.b) 0)
def execMcst (f : EngF) (s : State) : Out := copyForm (.mcst f) s (prepMcst f s.site (s.reg f.a) (s.reg f.b) 0)
def execFred (f : EngF) (s : State) : Out := copyForm (.fred f) s (prepFred f s.site (s.reg f.a) (s.reg f.b) (s.reg f.e))
def execTierpf (f : EngF) (s : State) : Out := copyForm (.tierpf f) s (prepTierpf f s.site (s.reg f.a) (s.reg f.b) 0)
def execNvrd (f : EngF) (s : State) : Out := copyForm (.nvrd f) s (prepNvrd f s.site (s.reg f.a) (s.reg f.b) (s.reg f.e))
def execNvwr (f : EngF) (s : State) : Out := copyForm (.nvwr f) s (prepNvwr f s.site (s.reg f.a) (s.reg f.b) (s.reg f.e))
def execNetq (f : EngF) (s : State) : Out :=
  copyForm (.netq f) s (prepNetq f s.site (s.reg f.a) (s.reg f.b) 0 (s.cfg.sendQueue s.iss.peer))

/-! ### Running commands -/

/-- A step of a running C command. -/
def copyStep (j : Job) (c : Cmd) : EM Unit :=
  match c.i with
  | .cgo f => cgoStep j c f
  | .cpy f => cpyStep j c f
  | .gath f => indexedStep j c f true
  | .scat f => indexedStep j c f false
  | .decomp f => decompStep j c f
  | .slabmv _ => slabmvStep j c
  | .dsend _ => dsendStep j c
  | .spull _ => spullStep j c
  | .sdrop _ => sdropStep j c
  | .sfwd _ => sfwdStep j c
  | .mcst f => mcstStep j c f
  | .fred f => fredStep j c f
  | .tierpf f => tierpfStep j c f
  | .nvrd f => nvrdStep j c f
  | .nvwr f => nvwrStep j c f
  | .netq _ => netqStep j c
  | _ => pure ()

/-- Put the end of a step in force: a stall, or a fault that ends the command (R212, R271). -/
def State.settleHalt (s : State) (p t n : Nat) (h : Halt) : State :=
  match h with
  | .stall x => s.modCmd p t n (fun c => { c with stall := x })
  | .fault cause a => (match (s.tile p t).cmd n with
    | some c => s.modTile p t (fun tl => tl.fault c cause a)
    | none => s)

/-- One micro-step of a running command that is not stalled. -/
def State.microStep (s : State) (p t n : Nat) : State :=
  match (s.tile p t).cmd n with
  | none => s
  | some c =>
    if c.st != .running || c.stall != .none then s
    else if c.queues.contains 4 then
      match copyStep { p := p, t := t, seq := n } c s with
      | (.ok _, u) => u
      | (.error h, u) => u.settleHalt p t n h
    else match matrixStep s.cfg p t (s.tile p t) c with
      | .ok tl => s.setTile p t tl
      | .error h => s.settleHalt p t n h

end Sys2Proof.Machine
end

