-- ==== Sys2Proof/Machine/Sched.lean ====
section
/-! DEFINITION. Launches, the graph sequencer and the stage scheduler (R307 to R328, R413, R416): accepting launches,
walking graphs, binding operators to tiles, the queues between stages, gang ticks, and the end of an operator. -/

namespace Sys2Proof.Machine

/-! ### Reading a VF's space (R312) -/

/-- `n` bytes of a VF's space as a partition's graph sequencer reads them, line by line, or the cause that the access
gives. Recursion on the lines. -/
def virtRead (s : State) (p q vf va n : Nat) : Nat → Except Nat Nat
  | 0 => .ok 0
  | k + 1 =>
    if n == 0 then .ok 0
    else
      let m := min n (128 - va % 128)
      match (translate s p (s.cfg.seqCtx p q).1 q vf va .load).1 with
      | .fault c => .error c
      | .touch _ _ => .error cXLATE_FAULT
      | .ok l =>
        let bad := s.badLoc p l m
        if bad != 0 then .error bad
        else match virtRead s p q vf (va + m) (n - m) k with
          | .ok v => .ok (s.readLoc p l m + v * 2 ^ (8 * m))
          | .error c => .error c
def State.vread (s : State) (p q vf va n : Nat) : Except Nat Nat := virtRead s p q vf va n (n / 128 + 2)
/-- Bytes `hi` down to `lo` of a number. -/
def byteField (v hi lo : Nat) : Nat := v / 2 ^ (8 * lo) % 2 ^ (8 * (hi + 1 - lo))

/-! ### Partitions and slices (R324, R328, R444, R453) -/

def State.modPart (s : State) (p q : Nat) (g : Part → Part) : State := s.modDie p fun d => d.setPart q (g (d.part q))
/-- A tile of a partition. -/
def Cfg.tileOf (c : Cfg) (p t q : Nat) : Bool := (List.range 8).any (fun k => c.binds p t k q)
/-- The VFs of a partition, as a mask. -/
def Cfg.vfMask (c : Cfg) (p q : Nat) : BitVec 24 :=
  (List.range 24).foldl (fun m v => if c.partOf p v == q then m ||| BitVec.ofNat 24 (2 ^ v) else m) 0
/-- A gang table's slice: until it is written as the configuration block gives it, or slice 0 lists every VF of the partition
(R328, R442). -/
def gangSlice (c : Cfg) (p q : Nat) (t : SMap (BitVec 24)) (n : Nat) : BitVec 24 :=
  match t.find n with
  | some m => m
  | none => match c.gangt.find ((p * 4 + q) * 16 + n) with
    | some m => m &&& c.vfMask p q
    | none => if n == 0 then c.vfMask p q else 0
/-- The pipe that serves a context (R317). -/
def Cfg.pipeOf (c : Cfg) (p t k q : Nat) : Nat :=
  if c.engineOwner p t (5 + k % 2) == q then k % 2
  else if c.engineOwner p t (5 + (1 - k % 2)) == q then 1 - k % 2 else k % 2
/-- Whether entries of a VF may be dispatched now: from a tick to its switch only those of a VF that both slices list (R324,
R325). -/
def State.vfRunnable (s : State) (p q v : Nat) : Bool :=
  let x := (s.die p).part q
  match x.switch with
  | some (_, _, stay) => stay.contains v
  | none => bit (gangSlice s.cfg p q x.actT x.slice) v

/-! ### Accepting launches (R308, R309) -/

def Die.launchesOf (d : Die) (q : Nat) : List Launch := SMap.get [] d.launches q
def Die.setLaunches (d : Die) (q : Nat) (l : List Launch) : Die := { d with launches := SMap.set [] d.launches q l }
def State.modLaunch (s : State) (p q id : Nat) (g : Launch → Launch) : State :=
  s.modDie p fun d => d.setLaunches q ((d.launchesOf q).map (fun x => if x.id == id then g x else x))

/-- A launch from the 64 bytes of its slot; `logOff` says that the partition's log is not enabled (R416). -/
def launchOf (id vf v : Nat) (logOff : Bool) : Launch :=
  let g := byteField v
  let bad := g 7 0 % 64 != 0 || 3 < g 24 24 || 4 <= g 25 25 || g 31 26 != 0 || g 39 32 % 16 != 0 || g 55 40 != 0 ||
    g 63 56 == 0 || ((g 25 25).testBit 1 && logOff)
  { id := id, vf := vf, graph := BitVec.ofNat 64 (g 7 0), param := BitVec.ofNat 64 (g 15 8), seed := BitVec.ofNat 64 (g 23 16),
    prio := g 24 24, flags := g 25 25, cpl := BitVec.ofNat 64 (g 39 32), tag := BitVec.ofNat 64 (g 63 56), bad := bad }

/-- Accept a launch from the 64 bytes that its slot held when the last byte of its tag word was written, or drop its record. -/
def State.acceptLaunch (s : State) (p v bytes : Nat) : State :=
  let d := s.die p
  let q := s.cfg.partOf p v
  if (SMap.get ({} : Tdisp) d.tdisp v).tearing then s
  else if 64 <= (d.launchesOf q).length then
    s.setDie p { d with windows := d.windows.put v { (SMap.get {} d.windows v : Window) with ovf := true } }
  else
    let x := launchOf d.launchAge v bytes (!bit (d.part q).logbase 63)
    s.setDie p ({ d with launchAge := d.launchAge + 1 }.setLaunches q (d.launchesOf q ++ [x]))

/-! ### Graphs (R312, R313) -/

/-- An entry of a graph table. -/
structure GEntry where
  desc : Nat
  kind : Nat
  pred : List Nat
  param : Nat
  deriving DecidableEq, Repr

/-- Read an entry's 32 bytes; none where it breaks R312. -/
def gEntry (v i n : Nat) : Option GEntry :=
  let g := byteField v
  let ps := (List.range 4).map (fun k => g (13 + 2 * k) (12 + 2 * k))
  if g 8 8 <= 2 && g 11 9 == 0 && g 23 20 == 0 && ps.all (fun x => x == 0xFFFF || x < i) && ((g 8 8 == 2) == (i + 1 == n))
  then some { desc := g 7 0, kind := g 8 8, pred := ps.filter (· != 0xFFFF), param := g 31 24 } else none

/-- What a walk over a graph finds: the entries that are ready, those that are never dispatched, those that still wait,
and what breaks the walk: cause and index. -/
structure Scan where
  ready : List (Nat × GEntry) := []
  never : List Nat := []
  waits : Bool := false
  broken : Option (Nat × Nat) := none
  deriving DecidableEq, Repr

/-- Walk the entries from `i` on; an entry that has been dispatched is not read again. Recursion on how many are left. -/
def scanFrom (s : State) (p q : Nat) (x : Launch) (n : Nat) : Nat → Nat → Scan → Scan
  | 0, _, sc => sc
  | k + 1, i, sc =>
    if x.ended.contains i || x.running.contains i || x.dead.contains i then scanFrom s p q x n k (i + 1) sc
    else match s.vread p q x.vf (x.graph.toNat + 64 + 32 * i) 32 with
    | .error c => { sc with broken := some (c, i) }
    | .ok v => match gEntry v i n with
      | none => { sc with broken := some (cILLOP, i) }
      | some e =>
        let sc :=
          if e.kind == 2 then sc
          else if e.pred.any (fun j => x.dead.contains j || sc.never.contains j) then { sc with never := i :: sc.never }
          else if e.pred.all x.ended.contains then { sc with ready := sc.ready ++ [(i, e)] }
          else { sc with waits := true }
        scanFrom s p q x n k (i + 1) sc

/-- The walk of a launch: its header first, whose own breaks of R312 have the index of the header too (log 60). The walk goes
past entries that still wait for their predecessors, so that a broken entry behind them is reached at once: DESIGN CHOICE, log
125. -/
def State.scan (s : State) (p q : Nat) (x : Launch) : Scan :=
  match s.vread p q x.vf x.graph.toNat 64 with
  | .error c => { broken := some (c, 0xFFFF) }
  | .ok v =>
    let n := v % 2 ^ 16
    if n == 0 || 4096 < n || v / 2 ^ 16 != 0 then { broken := some (cILLOP, 0xFFFF) }
    else scanFrom s p q x n n 0 {}

/-- Note when entries become ready (R316). -/
def State.noteReady (s : State) (p q : Nat) : State :=
  ((s.die p).launchesOf q).foldl (fun s x =>
    let found := (s.scan p q x).ready
    let note := fun (m : SMap Nat) (e : Nat × GEntry) => if (m.find e.1).isSome then m else m.put e.1 s.now
    if x.bad || x.broken then s else s.modLaunch p q x.id fun y => { y with readyAt := found.foldl note y.readyAt }) s

/-- R307, R309: the eighth byte of a slot's tag word starts its launch. -/
def execLaunchTagWrite (p v n : Nat) (s : State) : Out :=
  event s (match (s.die p).launchDue.find? (fun x => x.1 == v && x.2.1 == n) with
    | none => s
    | some x => ((s.modDie p fun d => { d with launchDue := d.launchDue.erase x }).acceptLaunch p v x.2.2).noteReady p (s.cfg.partOf p v))

/-- R316: a ready entry that has waited 200 µs. -/
def Launch.aging (x : Launch) (now : Nat) : List Nat :=
  (x.readyAt.filter (fun e => e.2 + 200000 <= now && !x.aged.contains e.1)).map (·.1)
def execDispatchAgeLimit (p q : Nat) (s : State) : Out :=
  event s (s.modDie p fun d => d.setLaunches q ((d.launchesOf q).map (fun x => { x with aged := x.aged ++ x.aging s.now })))

/-! ### Operator descriptors (R77, R427, log 7) -/

/-- What the image declares beside a descriptor: rights, buffers, decode tables, dictionary. -/
structure Decls where
  ctrs : SMap Counter := []
  bufs : SMap Buffer := []
  dtab : SMap Nat := []
  dtabOk : SMap Bool := []
  dict : SMap Word := []
  dictN : Nat := 0
  deriving DecidableEq, Repr

/-- A descriptor as read. -/
structure Desc where
  stages : List Stage
  tiles : Nat
  dm : Nat
  dc : Nat
  dv : Nat
  profile : List (BitVec 32)
  decls : Decls
  deriving DecidableEq, Repr

/-- A table built from the entries that differ from its default. -/
def tableOf [DecidableEq α] (d : α) (n : Nat) (g : Nat → α) : SMap α :=
  (List.range n).foldl (fun m k => SMap.set d m k (g k)) []

/-- A buffer declaration: an entry whose copies pass the scratchpad loads with valid 0 (R29). -/
def bufferOf (v : Nat) : Buffer :=
  let g := byteField v
  let len := g 5 4 % 2 ^ 14
  let ok := (g 7 7).testBit 0 && g 1 0 + len <= 32767 && g 3 2 + len <= 32767
  if ok then { cur := BitVec.ofNat 15 (g 1 0), shd := BitVec.ofNat 15 (g 3 2), lenM1 := BitVec.ofNat 14 len,
               scope := BitVec.ofNat 2 (g 6 6), valid := true } else {}

/-- The declarations from their bytes; at most 1,024 dictionary entries, or the descriptor is invalid (log 7). -/
def declsOf (v : Nat) : Decls :=
  let g := byteField v
  let n := g 1 0
  let mask := g 2121 2120
  { ctrs := tableOf {} 64 (fun k => ({ rights := BitVec.ofNat 8 (g (8 + k) (8 + k)) } : Counter))
    bufs := tableOf {} 256 (fun k => bufferOf (g (79 + 8 * k) (72 + 8 * k)))
    dtab := tableOf 0 4096 (fun k => if mask.testBit (k / 256) then g (2128 + k / 2) (2128 + k / 2) / 16 ^ (k % 2) % 16 else 0)
    dtabOk := tableOf false 16 (fun k => mask.testBit k)
    dict := tableOf 0 n (fun k => BitVec.ofNat 64 (g (4183 + 8 * k) (4176 + 8 * k)))
    dictN := n }

/-- Read a descriptor and what stands beside it, or the cause of the entry's failure. -/
def State.readDesc (s : State) (p q vf desc : Nat) : Except Nat Desc :=
  match s.vread p q vf desc 1296 with
  | .error c => .error c
  | .ok v =>
    let g := byteField v
    let n := g 0 0
    let np := g 5 5
    let stage := fun k =>
      ({ accEntry := BitVec.ofNat 57 (g (23 + 32 * k) (16 + 32 * k)), exeEntry := BitVec.ofNat 57 (g (31 + 32 * k) (24 + 32 * k)),
         depth := if k == 0 then 1 else g (1 + 32 * k) (32 * k) } : Stage)
    -- an entry that is no parcel address makes the descriptor invalid: DESIGN CHOICE, log 7
    let entry := fun (a : Nat) => a % 2 == 0 && a < 2 ^ 57
    let ok := 1 <= n && n <= 8 && 1 <= g 1 1 && g 1 1 <= 32 && 1 <= np &&
      (List.range n).all (fun k => entry (g (23 + 32 * k) (16 + 32 * k)) && entry (g (31 + 32 * k) (24 + 32 * k))) &&
      [g 2 2, g 3 3, g 4 4].all (fun i => 1 <= i && i <= np) &&
      (List.range (n - 1)).all (fun k => 1 <= g (33 + 32 * k) (32 + 32 * k) && g (33 + 32 * k) (32 + 32 * k) <= 256)
    if !ok then .error cILLOP
    else
      let mk := fun (d : Decls) =>
        { stages := (List.range n).map stage, tiles := g 1 1, dm := g 2 2, dc := g 3 3, dv := g 4 4,
          profile := (List.range np).map (fun i => BitVec.ofNat 32 (g (275 + 4 * i) (272 + 4 * i))), decls := d : Desc }
      if g 15 8 == 0 then .ok (mk {})
      else match s.vread p q vf (g 15 8) 12368 with
        | .error c => .error c
        | .ok w => if 1024 < byteField w 1 0 then .error cILLOP else .ok (mk (declsOf w))

/-! ### Binding (R317 to R319) -/

/-- SBIND (R319). -/
def mkSbind (stage pipe entry vf : Nat) : Word := BitVec.ofNat 64 (stage + pipe * 8 + entry * 2 ^ 16 + vf * 2 ^ 32)

/-- What an abort leaves of a command of the operator: one that has reached the fabric or a device goes on to its end, and a
copy inside a piece ends after that piece (R228); a move of a slab goes on (R219). It names no counter. -/
def Cmd.aborted (c : Cmd) : Option Cmd :=
  let out := { c with op := 0, ctr := 0, from_ := none }
  let sent := if c.st == .running && c.step != 0 then some out else none
  let piece := if c.st == .running && (!c.buf.isEmpty || c.step != 0 || c.aux.head?.any (· != 0)) then some { out with stop := true } else none
  match c.i with
  | .slabmv _ | .dsend _ | .spull _ | .mcst _ | .fred _ | .nvrd _ | .nvwr _ | .netq _ => sent
  | .sfwd _ => if c.step == 5 then none else sent
  | .cgo _ | .cpy _ | .gath _ | .scat _ | .decomp _ => piece
  | _ => none

/-- Whether a command of an operator that has ended is one that nothing is left of. -/
def Cmd.stale (c : Cmd) : Bool := c.op == 0 && c.aborted.isNone

/-- Bind a tile: its kernel state is reset and loaded, and its scratchpad is cleared between VFs (R28 to R31, R34, R35,
R318). Of the commands of operators that have ended only those stay that an abort leaves (log 112). -/
def Tile.bindTo (t : Tile) (o vf : Nat) (d : Decls) : Tile :=
  let same := t.lastVf == some vf
  { t with
    scr := if same then t.scr else []
    lines := if same then t.lines else []
    ctrs := d.ctrs, bufs := d.bufs, dict := d.dict, dictN := d.dictN, dtab := d.dtab, dtabOk := d.dtabOk
    sbs := [], accs := [], planes := [], pmap := [], nests := [], frec := [], handlers := []
    cmds := (t.cmds.filter (!·.stale)).map (fun c => if c.op == 0 then c.aborted.getD c else c)
    bound := some o, lastVf := some vf }

/-- Start a stage of an operator in a context (R14, R317, R319). -/
def State.startStage (s : State) (p o g t c wait : Nat) : State :=
  let x : Op := SMap.get {} (s.die p).ops o
  let st : Stage := x.stages.getD g {}
  s.modCtx p t c fun _ =>
    let y : Ctx := { srseed := x.seed, lparam := x.param, sbind := mkSbind g (s.cfg.pipeOf p t c x.part) x.entry (vfNumber p x.vf),
                     op := o, stage := g, vf := x.vf, part := x.part }
    let y := y.start st.accEntry st.exeEntry
    { y with acc := { y.acc with hold := y.acc.hold + wait }, exe := { y.exe with hold := y.exe.hold + wait } }

/-- Free tiles of a partition, lowest first (R315, R453). -/
def State.freeTiles (s : State) (p q : Nat) : List Nat :=
  (List.range 32).filter (fun t => let x := s.tile p t
    s.cfg.tileOf p t q && x.bound.isNone && !x.failed && !x.evac &&
      (List.range 8).any (fun c => s.cfg.binds p t c q && (x.ctx c).status == .free && !x.noBind.contains c))

/-- The lowest free context of a partition on a tile that the scheduler may bind now. -/
def State.freeCtx (s : State) (p t q : Nat) : Option Nat :=
  let x := s.tile p t
  if x.failed || x.evac then none
  else (List.range 8).find? (fun c => s.cfg.binds p t c q && (x.ctx c).status == .free && !x.noBind.contains c)

/-- The lowest free context of an operator's tiles. -/
def State.freeOf (s : State) (p : Nat) (x : Op) : Option (Nat × Nat) :=
  x.tiles.findSome? (fun t => (s.freeCtx p t x.part).map (fun c => (t, c)))

def Die.op (d : Die) (o : Nat) : Op := SMap.get {} d.ops o
def Die.setOp (d : Die) (o : Nat) (x : Op) : Die := { d with ops := SMap.set {} d.ops o x }
/-- The lowest number that no operator has. -/
def Die.freeOp (d : Die) : Nat := ((List.range (d.ops.length + 1)).map (· + 1)).find? (fun n => !(d.op n).live) |>.getD 1

/-- Write bytes line by line at physical addresses of a die's DRAM. -/
def State.physWrite (s : State) (p a : Nat) (bs : List Byte) : State := s.modDie p fun d => d.wr 1 a bs false

/-- Where the log ring of a partition holds entry `seq` (R416): peer and address, in the range of local partition `q`. An offset
or a capacity that leaves that range is not checked: DESIGN CHOICE, log 109. -/
def Part.logSlot (pt : Part) (c : Cfg) (q seq : Nat) : Nat × Nat :=
  let home := bits pt.logbase 56 48
  let lo := (c.prangeOf home q).1
  (home, lo * 4096 + bits pt.logbase 46 12 * 4096 + 64 * (seq % pt.logcap))

/-- A command-log entry for a dispatch (R416); a ring of a peer that does not exist takes none (R452). -/
def State.logDispatch (s : State) (p q : Nat) (x : Launch) (i : Nat) : State :=
  let pt := (s.die p).part q
  let (home, a) := pt.logSlot s.cfg q pt.logseq.toNat
  let bs := leBytes 8 x.tag.toNat ++ leBytes 8 x.graph.toNat ++ leBytes 8 x.param.toNat ++ leBytes 8 x.seed.toNat ++
    leBytes 2 i ++ leBytes 1 x.vf ++ leBytes 1 x.prio ++ leBytes 4 pt.logseq.toNat ++ leBytes 8 s.now ++ List.replicate 16 0
  (if s.peers <= home then s else s.physWrite home a bs).modPart p q fun y => { y with logseq := y.logseq + 1 }

/-- Whether a launch's next log entry would overwrite one that the last checkpoint has not passed (R416). -/
def Part.logFull (x : Part) : Bool := x.logcap <= (x.logseq - x.logckp).toNat

/-- An entry fails (R313). -/
def State.entryFails (s : State) (p q id i cause : Nat) : State :=
  s.modLaunch p q id fun y => { y with
    running := y.running.filter (· != i), dead := y.dead ++ [i], failed := if y.failed.isSome then y.failed else some (cause, i) }

/-- Dispatch an entry (R313, R314, R317): its operator or hook starts, or it fails at once. -/
def State.dispatch (s : State) (p q : Nat) (x : Launch) (i : Nat) (e : GEntry) : State :=
  let s := if x.flags.testBit 1 then s.logDispatch p q x i else s
  let s := s.modLaunch p q x.id fun y => { y with running := y.running ++ [i], readyAt := y.readyAt.erase i, aged := y.aged.filter (· != i) }
  match s.readDesc p q x.vf e.desc with
  | .error c => s.entryFails p q x.id i c
  | .ok d =>
    let o := (s.die p).freeOp
    let ts := if e.kind == 1 then [] else (s.freeTiles p q).take d.tiles
    let op : Op := {
      live := true, launch := x.id, entry := i, hook := e.kind == 1, vf := x.vf, part := q, tiles := ts, stages := d.stages,
      profile := d.profile, dm := d.dm, dc := d.dc, dv := d.dv, seed := x.seed,
      param := if e.param == 0 then x.param else BitVec.ofNat 64 e.param, since := s.now, image := e.desc }
    let s := s.modDie p fun d => d.setOp o op
    if e.kind == 1 then let (t, c) := s.cfg.seqCtx p q; s.startStage p o 0 t c 0
    else ts.foldl (fun s t =>
      let tl := s.tile p t
      -- the commands that the binding drops give back their current (R428)
      let s := (tl.cmds.filter Cmd.stale).foldl (fun s c => s.modDie p fun x => x.release t c.seq) s
      let s := s.setTile p t (tl.bindTo o x.vf d.decls)
      match (List.range 8).find? (fun c => s.cfg.binds p t c q && (tl.ctx c).status == .free && !tl.noBind.contains c) with
      | some c => s.startStage p o 0 t c (if tl.lastVf == some x.vf then 0 else 16384)
      | none => s) s

/-! ### Choosing the next operator (R315, R316) -/

/-- A ready entry that competes. -/
structure Cand where
  x : Launch
  i : Nat
  e : GEntry
  level : Nat
  deficit : Int
  deriving DecidableEq, Repr

def Cand.before (a b : Cand) : Bool :=
  if a.level != b.level then a.level < b.level
  else if a.deficit != b.deficit then b.deficit < a.deficit
  else if a.x.vf != b.x.vf then a.x.vf < b.x.vf
  else if a.i != b.i then a.i < b.i else a.x.id < b.x.id

def insertCand (c : Cand) : List Cand → List Cand
  | [] => [c]
  | d :: l => if c.before d then c :: d :: l else d :: insertCand c l

/-- Whether a hook of a launch runs (R314). -/
def Die.hookRuns (d : Die) (id : Nat) : Bool := d.ops.any (fun o => o.2.live && o.2.hook && o.2.launch == id)

/-- The ready entries of a partition that may be dispatched now: none while logged dispatches are still to be repeated (R419). -/
def State.ready (s : State) (p q : Nat) : List Cand :=
  let d := s.die p
  let pt := d.part q
  if !pt.replay.isEmpty then []
  else (d.launchesOf q).flatMap fun x =>
    if x.bad || x.broken || d.hookRuns x.id || !s.vfRunnable p q x.vf || (x.flags.testBit 1 && pt.logFull) then []
    else (s.scan p q x).ready.filterMap fun e =>
      if pt.ckpt && e.2.kind == 0 then none
      else some { x := x, i := e.1, e := e.2, level := if x.aged.contains e.1 then 0 else x.prio, deficit := SMap.get 0 d.deficit x.vf }

def ordered (l : List Cand) : List Cand := l.foldl (fun l c => insertCand c l) []

/-- The ready operators that compete for tiles, in order. -/
def State.cands (s : State) (p q : Nat) : List Cand :=
  let all := (s.ready p q).filter (fun c => c.e.kind == 0)
  ordered (all.filter (fun c => 0 < c.deficit || !all.any (fun b => b.level == c.level && 0 < b.deficit)))

/-- Whether an operator fits in the free tiles. -/
def State.fits (s : State) (p q : Nat) (c : Cand) : Bool :=
  match s.readDesc p q c.x.vf c.e.desc with
  | .error _ => true
  | .ok d => d.tiles <= (s.freeTiles p q).length

/-- The operator to dispatch: the first that fits, but none behind one that has waited 200 µs. -/
def State.choose (s : State) (p q : Nat) : List Cand → Option Cand
  | [] => none
  | c :: l => if s.fits p q c then some c else if c.x.aged.contains c.i then none else s.choose p q l

/-- Whether the partition's graph-sequencer context can take a hook (R314). -/
def State.hookFree (s : State) (p q : Nat) : Bool :=
  let (t, k) := s.cfg.seqCtx p q
  let tl := s.tile p t
  (tl.ctx k).status == .free && !tl.failed && !tl.evac

/-- The hook to dispatch: it needs the partition's graph-sequencer context, competes for no tile (R314), and waits for the ready
operators of lower index of its own launch (R313). -/
def State.hook (s : State) (p q : Nat) : Option Cand :=
  let all := s.ready p q
  if !s.hookFree p q then none
  else (ordered (all.filter (fun c => c.e.kind == 1 && !all.any (fun b => b.e.kind == 0 && b.x.id == c.x.id && b.i < c.i)))).head?

/-- The entry to dispatch: a hook before an operator. -/
def State.nextEntry (s : State) (p q : Nat) : Option Cand :=
  match s.hook p q with
  | some h => some h
  | none => s.choose p q (s.cands p q)

/-- An entry of a launch's graph, if it can be read and keeps R312. -/
def State.entryAt (s : State) (p q : Nat) (x : Launch) (i : Nat) : Option GEntry :=
  match s.vread p q x.vf x.graph.toNat 64, s.vread p q x.vf (x.graph.toNat + 64 + 32 * i) 32 with
  | .ok h, .ok v => gEntry v i (h % 2 ^ 16)
  | _, _ => none

/-- Repeat a logged dispatch (R419), once every dispatch before it in the log has ended. It is in the log already and is not
written there again; an entry that can no longer be read is left to the walk (log 126). -/
def State.replayStep (s : State) (p q : Nat) (r : Nat × Nat) : Option State :=
  let d := s.die p
  let pass := s.modPart p q fun y => { y with replay := y.replay.drop 1 }
  match (d.launchesOf q).find? (·.id == r.1) with
  | none => some pass
  | some x =>
    if (d.launchesOf q).any (fun y => !y.running.isEmpty) || !s.vfRunnable p q x.vf then none
    else match s.entryAt p q x r.2 with
      | none => some pass
      | some e =>
        let c : Cand := { x := x, i := r.2, e := e, level := x.prio, deficit := 0 }
        if e.kind == 2 then some pass
        else if if e.kind == 1 then s.hookFree p q else !(d.part q).ckpt && s.fits p q c then
          some (pass.dispatch p q { x with flags := x.flags % 2 } r.2 e)
        else none

/-- The launch whose walk has reached what breaks it, and how: every ready entry of it has been dispatched. -/
def State.breaks (s : State) (p q : Nat) : Option (Nat × Nat × Nat) :=
  ((s.die p).launchesOf q).findSome? fun x =>
    if x.bad || x.broken || (s.die p).hookRuns x.id then none
    else
      let sc := s.scan p q x
      if sc.ready.isEmpty then sc.broken.map (fun b => (x.id, b)) else none

/-- One step of a partition's graph sequencer: one entry is dispatched, or a broken walk is noted (R312 to R316, R419). -/
def State.dispatchStep (s : State) (p q : Nat) : Option State :=
  match ((s.die p).part q).replay with
  | r :: _ => s.replayStep p q r
  | [] => match if 8 <= (((s.die p).launchesOf q).map (·.running.length)).sum then none else s.nextEntry p q with
    | some c => some (s.dispatch p q c.x c.i c.e)
    | none => (s.breaks p q).map fun (id, c, i) =>
        s.modLaunch p q id fun y => { y with broken := true, failed := if y.failed.isSome then y.failed else some (c, i) }

/-- R312 to R317: one dispatch. -/
def execOperatorDispatch (p q : Nat) (s : State) : Out := event s ((s.dispatchStep p q).getD s)

/-! ### The end of an operator (R236, R326, R327, R413) -/

/-- The tiles on which an operator or hook has contexts. -/
def State.opTiles (s : State) (p : Nat) (x : Op) : List Nat := if x.hook then [(s.cfg.seqCtx p x.part).1] else x.tiles
/-- The contexts bound to an operator. -/
def State.opCtxs (s : State) (p o : Nat) : List (Nat × Nat) :=
  (s.opTiles p ((s.die p).op o)).flatMap fun t =>
    ((List.range 8).filter (fun c => (s.ctx p t c).status != .free && (s.ctx p t c).op == o)).map (fun c => (t, c))

/-- Whether an operator ends now (R236). -/
def State.opDone (s : State) (p o : Nat) : Bool :=
  let x := (s.die p).op o
  let cs := (s.opCtxs p o).map (fun e => (s.ctx p e.1 e.2).status)
  x.live && cs.all (· == .dormant) && (cs.isEmpty || x.workDone) && x.stages.all (·.new.isEmpty) &&
    x.tiles.all (fun t => (s.tile p t).handlers.isEmpty && !s.net.any (fun k => k.kind == 0x0F && k.dst == p && k.tile == t))

/-- Whether a command on a die is one that a context of operator `o` of die `p` has queued there. -/
def Cmd.owned (c : Cmd) (d p o : Nat) : Bool := c.op == o && (match c.from_ with | some f => f.1 | none => d) == p

/-- Change the commands and the entries that contexts of an operator have queued, on whatever tile: what is left of each. -/
def State.recmd (s : State) (p o : Nat) (g : Cmd → Option Cmd) (h : Enqr → Option Enqr) : State :=
  s.dies.foldl (fun s d => d.2.tiles.foldl (fun s t => s.modTile d.1 t.1 fun tl =>
    { tl.recmd (fun c => if c.owned d.1 p o then g c else some c) with
      enqr := tl.enqr.filterMap (fun e => if e.peer == p && e.op == o then h e else some e) }) s) s

/-- Take an operator off its tiles: its contexts end, its tiles are free, and their switches hold no record more (R169). A hook's
records go with it where no operator is bound to its tile, whose buffers they would share (log 127). -/
def State.unbindOp (s : State) (p o : Nat) : State :=
  let x := (s.die p).op o
  let s := (s.opCtxs p o).foldl (fun s e => s.endCtx p e.1 e.2 .exit) s
  let s := s.recmd p o (fun c => some { c with op := 0 }) (fun e => some { e with op := 0 })
  let s := (s.opTiles p x).foldl (fun s t => s.modTile p t fun tl =>
    if x.hook then (if tl.bound.isNone then { tl with sbs := [] } else tl)
    else { tl with bound := none, handlers := [], sbs := [] }) s
  s.modDie p fun d => { d with ops := d.ops.erase o }

/-- R236, R313: the operator ends, and its entry with it. -/
def execOperatorEnd (p o : Nat) (s : State) : Out :=
  let x := (s.die p).op o
  event s (if s.opDone p o then
      ((s.unbindOp p o).modLaunch p x.part x.launch fun y =>
        { y with running := y.running.filter (· != x.entry), ended := y.ended ++ [x.entry] }).noteReady p x.part
    else s)

/-- Discard the commands of an operator, and the entries that its contexts have sent, but for what an abort leaves, and
release the current of those that go (R206, R228, R327, R428). -/
def State.discard (s : State) (p o : Nat) : State :=
  let s := s.dies.foldl (fun s d => d.2.tiles.foldl (fun s t =>
    ((s.tile d.1 t.1).cmds.filter (fun c => c.owned d.1 p o && c.aborted.isNone)).foldl
      (fun s c => s.modDie d.1 fun x => x.release t.1 c.seq) s) s) s
  s.recmd p o Cmd.aborted (fun _ => none)

/-- Abort an operator: its entry stands at its start again (R327). -/
def State.abortOp (s : State) (p o : Nat) : State :=
  let x := (s.die p).op o
  if !x.live then s
  else
    (((s.discard p o).unbindOp p o).modLaunch p x.part x.launch fun y =>
      { y with running := y.running.filter (· != x.entry) }).noteReady p x.part

/-- Abort an operator whose entry fails (R413). -/
def State.failOp (s : State) (p o cause : Nat) : State :=
  let x := (s.die p).op o
  if !x.live then s
  else ((s.discard p o).unbindOp p o).entryFails p x.part x.launch x.entry cause

/-- The stopped contexts whose operators are to be aborted: `zmon` does not hold their partition (R266, R413). -/
def State.stopped (s : State) : Option (Nat × Nat × Nat) :=
  s.dies.findSome? fun d => d.2.tiles.findSome? fun t => t.2.ctxs.findSome? fun c =>
    if c.2.status == .stopped && !(d.2.part c.2.part).zmon && (d.2.op c.2.op).live then some (d.1, c.2.op, c.2.stopCause) else none

/-- Abort the operators of stopped contexts; recursion bounds how many. -/
def State.settleStops (s : State) : Nat → State
  | 0 => s
  | n + 1 => match s.stopped with
    | none => s
    | some (p, o, cause) => (s.failOp p o cause).settleStops n

/-- R413. -/
def execZmonHold (p q : Nat) (s : State) : Out := event s (s.modPart p q fun x => { x with zmon := true })
/-- Whether a context of a partition is stopped, with its operator still to be aborted. -/
def State.holdsStop (s : State) (p q : Nat) : Bool :=
  (s.die p).tiles.any fun t => t.2.ctxs.any fun c => c.2.status == .stopped && c.2.part == q && ((s.die p).op c.2.op).live
/-- R266, R413: the abort of a stopped context's operator takes place at its release; `zmon` lets the partition go with its last
stopped context (log 128). -/
def execZmonRelease (p t c : Nat) (s : State) : Out :=
  let x := s.ctx p t c
  event s (
    let s := if x.status == .stopped then s.failOp p x.op x.stopCause else s
    if s.holdsStop p x.part then s else s.modPart p x.part fun y => { y with zmon := false })

/-! ### The end of a launch (R310) -/

/-- Whether a launch completes, with its status word. -/
def State.launchStatus (s : State) (p q : Nat) (x : Launch) : Option Nat :=
  let status := match x.failed with | some (c, i) => c + i * 2 ^ 16 | none => 0
  if x.bad then some cILLOP
  -- a logged dispatch of it is still to be repeated (R419)
  else if !x.running.isEmpty || ((s.die p).part q).replay.any (·.1 == x.id) then none
  else if x.broken then some status
  else
    let sc := s.scan p q x
    if sc.broken.isNone && sc.ready.isEmpty && !sc.waits then some status else none

/-- Where the sequencer writes at an address of a VF's space, at domain scope; none where it cannot. -/
def State.complPlace (s : State) (p q vf a : Nat) : Option (Loc × State) :=
  match translate s p (s.cfg.seqCtx p q).1 q vf a .ewrite with
  | (.ok l, s) => if s.gone p (s.locPeer p l) then none else some (l, s)
  | _ => none

/-- The completion write: its bytes are in place, or it could not be made, or its frame is held (none). Bytes beyond the end of a
line, which only the record of a broken launch asks for, are placed by themselves. -/
def State.complWrite (s : State) (p q : Nat) (x : Launch) (status : Nat) : Option (State × Bool) :=
  let a := x.cpl.toNat
  let bs := leBytes 8 x.tag.toNat ++ leBytes 8 status
  let m := min 16 (128 - a % 128)
  if x.cpl == 0 then some (s, true)
  else match s.complPlace p q x.vf a with
    | none => some (s, false)
    | some (l, u) =>
      if m == 16 then if u.heldLoc l then none else some (u.writeLoc p l bs false, true)
      else match u.complPlace p q x.vf (a + m) with
        | none => some (s, false)
        | some (k, u) =>
          if u.heldLoc l || u.heldLoc k then none
          else some ((u.writeLoc p l (bs.take m) false).writeLoc p k (bs.drop m) false, true)

/-- The first launch of a partition that completes, and the state after. -/
def State.completeStep (s : State) (p q : Nat) : Option State :=
  ((s.die p).launchesOf q).findSome? fun x =>
    match s.launchStatus p q x with
    | none => none
    | some status => match s.complWrite p q x status with
      | none => none
      | some (s, made) => some (s.modDie p fun d =>
          let w : Window := SMap.get {} d.windows x.vf
          { d.setLaunches q ((d.launchesOf q).filter (·.id != x.id)) with windows := d.windows.put x.vf { w with
              done := (w.done + 1) % 256, tag := x.tag, fail := w.fail || status != 0 || !made
              irqs := w.irqs + x.flags % 2 } })
/-- R310: a launch completes. -/
def execLaunchComplete (p q : Nat) (s : State) : Out := event s ((s.completeStep p q).getD s)

/-! ### Stages (R317, R320, R321) -/

/-- The contexts of a stage. -/
def State.stageCtxs (s : State) (p o g : Nat) : List (Nat × Nat) :=
  (s.opCtxs p o).filter (fun e => (s.ctx p e.1 e.2).stage == g)
def State.modStage (s : State) (p o g : Nat) (f : Stage → Stage) : State :=
  s.modDie p fun d => let x := d.op o; d.setOp o { x with stages := x.stages.modify g f }

/-- The places of a stage's input queue that are taken: a push of the cycle takes one at once, and is popped from the next
cycle on (R320). -/
def Stage.len (g : Stage) : Nat := g.q.length + g.new.length

/-- Whether the input queue of a stage is closed (R320); recursion on the stage. -/
def State.closed (s : State) (p o : Nat) : Nat → Bool
  | 0 => true
  | g + 1 =>
    let st : Stage := ((s.die p).op o).stages.getD g {}
    (s.stageCtxs p o g).isEmpty && (g == 0 || (st.len == 0 && !st.owed && s.closed p o g))

/-- R317: a stage whose input queue is no longer empty for the first time gains a context, now or when one is free. -/
def execStageFirstInput (p o g : Nat) (s : State) : Out :=
  let x := (s.die p).op o
  let st : Stage := x.stages.getD g {}
  event s (if x.live && 0 < g && g < x.stages.length && ((!st.begun && !st.q.isEmpty) || st.owed) then
      match s.freeOf p x with
      | some (t, c) => (s.modStage p o g fun y => { y with begun := true, owed := false }).startStage p o g t c 0
      | none => s.modStage p o g fun y => { y with begun := true, owed := true }
    else s)

/-- A pop of the stage's input queue (R320): its value. -/
def sqinM (s : State) : R (Word × State) := do
  let c := s.myCtx
  let p := s.iss.peer
  let g := c.stage
  let x := s.myDie.op c.op
  legal s (g != 0)
  if c.release then pure (1, s)
  else match (x.stages.getD g {}).q with
    | v :: vs => pure (v, s.modStage p c.op g fun y => { y with q := vs })
    | [] => if (x.stages.getD g {}).new.isEmpty && s.closed p c.op g then pure (0, s) else .error (.wait .poll true s)

/-- A push to the stage's output queue (R320), a release (R279). -/
def sqoutM (v : Word) (s : State) : R State := do
  let c := s.myCtx
  let x := s.myDie.op c.op
  let g := c.stage + 1
  let st : Stage := x.stages.getD g {}
  legal s (g < x.stages.length && v != 0 && !bit v 0)
  s.settled true true
  if st.depth <= st.len then .error (.wait .poll true s)
  else pure (s.modStage s.iss.peer c.op g fun y => { y with new := y.new ++ [v] })

/-- The pop and the push as the steps that perform them: the registers that `GETC` and `SETC` name. -/
def execSqin (d : BitVec 8) (s : State) : Out :=
  if s.powered then finish s (do let (v, s) ← sqinM s; pure (s.yResult d v 1)) else .fault .unpowered
def execSqout (a : BitVec 8) (s : State) : Out :=
  if s.powered then finish s (sqoutM (s.reg a) s) else .fault .unpowered

/-- The change that a re-binding makes to one stage (R321). -/
def State.rebindStage (s : State) (p o g : Nat) : State :=
  let x := (s.die p).op o
  let st : Stage := x.stages.getD g {}
  let cs := (s.stageCtxs p o g).filter (fun e => !(s.ctx p e.1 e.2).release)
  let outFull := match x.stages[g + 1]? with | some n => n.depth <= n.len | none => false
  if (outFull && 1 < cs.length) || st.len == 0 then
    match cs.getLast? with
    | some (t, c) => if cs.length == 1 && st.len != 0 then s else s.modCtx p t c fun y => { y with release := true }
    | none => s
  else if st.len != 0 && !outFull then
    match s.freeOf p x with
    | some (t, c) => (s.modStage p o g fun y => { y with begun := true, owed := false }).startStage p o g t c 0
    | none => s
  else s

/-- Give a stage the context that it is owed, where one is free (R317). -/
def State.serveOwed (s : State) (p o g : Nat) : State :=
  let x := (s.die p).op o
  match if (x.stages.getD g {} : Stage).owed then s.freeOf p x else none with
  | some (t, c) => (s.modStage p o g fun y => { y with begun := true, owed := false }).startStage p o g t c 0
  | none => s

/-- R321: at every multiple of 10 µs. -/
def State.rebind (s : State) (p : Nat) : State :=
  let s := s.modDie p fun d => { d with rebindAt := s.now / 10000, tiles := d.tiles.map (fun t => (t.1, { t.2 with noBind := [] })) }
  let ops := (s.die p).ops.filter (fun o => o.2.live && !o.2.hook)
  -- a context that a stage is owed goes to it ahead of any re-binding (R317)
  let s := ops.foldl (fun s o => (List.range o.2.stages.length).foldl (fun s g => s.serveOwed p o.1 g) s) s
  ops.foldl (fun s o =>
    ((List.range (o.2.stages.length - 1)).map (fun k => o.2.stages.length - 1 - k)).foldl (fun s g => s.rebindStage p o.1 g) s) s
def execRebindingInterval (p : Nat) (s : State) : Out :=
  event s (if (s.die p).rebindAt < s.now / 10000 then s.rebind p else s)

/-! ### Periods (R316, R323, R431) -/

/-- A VF is active while a launch of it is not complete or an operator of it runs. -/
def Die.vfActive (d : Die) (q v : Nat) : Bool := (d.launchesOf q).any (·.vf == v) || d.vfRuns v
def Part.quantum (x : Part) (v : Nat) : Nat := (SMap.get 16 x.vfq v).toNat

/-- R316, R323, R431: a 1 µs period begins. -/
def Die.newPeriod (d : Die) (c : Cfg) (p now : Nat) : Die :=
  let credit := fun (m : SMap Int) (v : Nat) =>
    let q := c.partOf p v
    let n := (d.part q).quantum v
    let tiles := ((d.ops.filter (fun o => o.2.live && o.2.vf == v)).map (·.2.tiles.length)).sum
    let x := SMap.get 0 m v
    SMap.set 0 m v ((if d.vfActive q v then min (x + n) (4 * n) else x) - tiles)
  { d with
    periodAt := now / 1000
    deficit := (List.range 24).foldl credit d.deficit
    tiles := d.tiles.map (fun t => (t.1, { t.2 with pipes := t.2.pipes.map (fun k =>
      (k.1, { k.2 with used := k.2.used - (d.part (c.engineOwner p t.1 (5 + k.1))).vbud })) }))
    power := { d.power with climAct := d.power.clim, pbudAct := d.power.pbud } }
def execPeriodStart (p : Nat) (s : State) : Out :=
  event s (if (s.die p).periodAt < s.now / 1000 then s.modDie p fun d => d.newPeriod s.cfg p s.now else s)

/-! ### Overrun (R322) -/

/-- R322: 400 µs after dispatch, in every context bound to the operator. -/
def execOverrun (p o : Nat) (s : State) : Out :=
  let x := (s.die p).op o
  event s (if x.live && !x.hook && !x.overrun && x.since + 400000 <= s.now then
      (s.opCtxs p o).foldl (fun s e => s.raise p e.1 e.2 cOVERRUN) (s.modDie p fun d => d.setOp o { x with overrun := true })
    else s)
/-- R322: 100 µs after that the operator is aborted, and its entry fails. -/
def execOverrunAbort (p o : Nat) (s : State) : Out :=
  let x := (s.die p).op o
  event s (if x.live && x.overrun && x.since + 500000 <= s.now then
      (s.failOp p o cOVERRUN).modPart p x.part fun y => { y with ovrn := y.ovrn + 1 }
    else s)

/-! ### Gang ticks (R324, R325) -/

/-- The slice that follows the current one. -/
def Part.nextSlice (x : Part) : Nat := (x.slice + 1) % (x.actN.toNat + 1)
/-- Whether a multiple of the tick period has passed since the last tick. -/
def Part.tickDue (x : Part) (now : Nat) : Bool := x.tickAt / (1000 * x.gangp) < now / (1000 * x.gangp)

/-- R324, R325, R328: a tick: the tables written since the last one come into force, and the outgoing VFs stop
dispatching. A tick that a write of `GANGP` lets fall before a switch is made waits for it: DESIGN CHOICE, log 129. -/
def execGangTick (p q : Nat) (s : State) : Out :=
  let x := (s.die p).part q
  event s (if x.tickDue s.now && x.switch.isNone then
      let out := gangSlice s.cfg p q x.actT x.slice
      let y : Part := { x with tickAt := s.now, actN := x.gangn, actT := x.gangt }
      let into := gangSlice s.cfg p q y.actT y.nextSlice
      let outs := (List.range 24).filter (fun v => bit out v && !bit into v)
      let stay := (List.range 24).filter (fun v => bit out v && bit into v)
      let y : Part := { y with switch := some (s.now, outs, stay) }
      -- the sequence manager's pre-emptions of the outgoing VFs wait no longer (R343)
      let doomed := (s.die p).slots.filter (fun e => e.2.doomed && outs.contains e.2.vf)
      (doomed.foldl (fun s e => s.smPreempt p e.1 true) s).modPart p q fun _ => y
    else s)

/-- R325 to R327: 25 µs after the tick: operators of outgoing VFs that still run are aborted, hooks among them, and each counts in
`LATE`: DESIGN CHOICE, log 129. -/
def execGangSwitch (p q : Nat) (s : State) : Out :=
  let x := (s.die p).part q
  event s (match x.switch with
    | none => s
    | some (t, outs, _) =>
      if s.now < t + 25000 then s
      else
        let late := (s.die p).ops.filter (fun o => o.2.live && o.2.part == q && outs.contains o.2.vf)
        let s := late.foldl (fun s o => s.abortOp p o.1) s
        s.modPart p q fun y => { y with switch := none, slice := y.nextSlice, late := y.late + BitVec.ofNat 32 late.length })

end Sys2Proof.Machine
end

