-- ==== Sys2Proof/Machine/Power.lean ====
section
/-! DEFINITION. Rails, the SRAM margin, current reservations, coolant and evacuation (R424 to R440). Cluster c holds tiles
8c to 8c + 7, and zone z tiles 2z and 2z + 1 (R438, log 17), but for a tile for which a spare stands. -/

namespace Sys2Proof.Machine

def State.modPower (s : State) (p : Nat) (f : Power → Power) : State := s.modDie p fun d => { d with power := f d.power }
/-- A rail's point in force: matrix, vector, fabric, SRAM (R424). -/
def Power.point (w : Power) (r : Nat) : Nat := SMap.get 12 w.points r

/-! ### Operating points (R425, R440) -/

/-- A write of `RAILSET` (R433, R440): the points asked for, undervolting, and drop back to 0 where the SRAM field is written or
undervolting disabled. -/
def Power.setRails (w : Power) (v : Word) (sram : Bool := true) : Power :=
  { w with
    want := (List.range 4).foldl (fun m r => m.put r (bits v (4 * r + 3) (4 * r))) w.want
    due := (List.range 4).filter (fun r => bits v (4 * r + 3) (4 * r) != w.point r)
    uvon := bit v 16
    drop := if sram || !bit v 16 then 0 else w.drop }
def execRailsetWrite (p : Nat) (w : BitVec 64) (s : State) : Out := event s (s.modPower p (·.setRails w))

/-- R425: the change of a rail's point completes. -/
def execOperatingPointChange (p rail : Nat) (s : State) : Out :=
  event s (s.modPower p fun w =>
    if w.due.contains rail then
      { w with points := w.points.put rail (SMap.get 12 w.want rail), due := w.due.filter (· != rail) }
    else w)

/-! ### Memory errors and the SRAM margin (R410, R433, R434) -/

/-- The byte of stacked SRAM from which on an event names the copies of remote lines, by their numbers in `copies`: where they lie
is not stated (log 50). -/
def copyArea : Nat := 2 ^ 60
/-- Poison a line of stacked SRAM in place, a copy of a remote line among them, with a margin mark or without. -/
def Die.spoil (d : Die) (addr : Nat) (margin : Bool) : Die :=
  if addr < copyArea then
    let m := d.metaOf 0 (addr / 128)
    d.setMeta 0 (addr / 128) { m with poison := true, margin := m.margin || margin }
  else
    let k := (addr - copyArea) / 128
    match d.copies.find k with
    | none => d
    | some c => { d with copies := d.copies.put k { c with poison := true, margin := c.margin || margin } }

/-- An uncorrectable error poisons the line in place; under undervolting it is a margin event (R410, R434). -/
def State.sramError (s : State) (p addr : Nat) : State :=
  let now := s.now
  s.modDie p fun d =>
    let w := d.power
    if w.drop == 0 then { d.spoil addr false with chsu := bump d.chsu }
    else { d.spoil addr true with
      chsu := bump d.chsu
      power := { w with drop := w.drop - 10, backoff := some (now + 3600000000000), margn := w.margn + 1, marginIn := true } }

/-- R410: an error of DRAM or stacked SRAM. -/
def execMemoryEccError (p : Nat) (sram corrected : Bool) (addr : Nat) (s : State) : Out :=
  event s (
    if sram then
      if corrected then s.modDie p fun d => { d with chsc := bump d.chsc, power := { d.power with corr := d.power.corr + 1 } }
      else s.sramError p addr
    else if corrected then s.modDie p fun d => { d with chdc := bump d.chdc }
    else s.modDie p fun d =>
      { d.setMeta 1 (addr / 128) { d.metaOf 1 (addr / 128) with poison := true } with chdu := bump d.chdu })

/-- R434. -/
def execMarginEvent (p addr : Nat) (s : State) : Out := event s (s.sramError p addr)

/-- R433: the decision at a multiple of 10 s. -/
def Power.marginStep (w : Power) (now : Nat) : Power :=
  let drop :=
    if !w.uvon || w.marginIn then w.drop
    else if w.corr <= 2 && w.backoff.isNone then min 20 (w.drop + 1)
    else if 16 < w.corr then w.drop - 1 else w.drop
  { w with drop := drop, corr := 0, marginIn := false, marginAt := now / 10 ^ 10 }
def execMarginStep (p : Nat) (s : State) : Out :=
  event s (if (s.die p).power.marginAt < s.now / 10 ^ 10 then s.modPower p (·.marginStep s.now) else s)

/-- R434: an hour after the last margin event. -/
def execMarginBackoffExpiry (p : Nat) (s : State) : Out :=
  event s (s.modPower p fun w => match w.backoff with
    | some t => if t <= s.now then { w with backoff := none } else w
    | none => w)

/-! ### Zones, shares and targets (R435, R436) -/

def Power.zone (w : Power) (z : Nat) : Zone := SMap.get {} w.zones z
def Power.setZone (w : Power) (z : Nat) (x : Zone) : Power := { w with zones := SMap.set {} w.zones z x }
def State.zone (s : State) (p z : Nat) : Zone := (s.die p).power.zone z
def State.modZone (s : State) (p z : Nat) (f : Zone → Zone) : State := s.modPower p fun w => w.setZone z (f (w.zone z))

/-- A mode's table of shares. -/
def Power.table (w : Power) (mode : Nat) : Word := SMap.get 0 w.alloc mode
def Power.share (w : Power) (z : Nat) : Nat := bits (w.table w.mode) (4 * z + 3) (4 * z)
/-- A zone's target: the greater of its share and its granted boosts; 8 once its prime has room, 0 while its valve is shut
(R436, R438). -/
def Power.target (w : Power) (z : Nat) : Nat :=
  match (w.zone z).state with
  | 0 => min 8 ((w.boosts.filter (fun b => b.granted && b.zone == z)).foldl (fun m b => max m b.units) (w.share z))
  | 3 => if (w.zone z).primed then 8 else 0
  | _ => 0
def Power.targets (w : Power) : Nat := ((List.range 16).map w.target).sum

/-- The boosts without the grant that was asked for last. -/
def dropLast : List Boost → List Boost
  | [] => []
  | b :: l => if b.granted && !l.any (·.granted) then { b with granted := false } :: l else b :: dropLast l
/-- Keep the targets within the manifold's 60 units (R435, R436) after a change of shares: of the boosts granted those asked for
last wait again, and then a prime that had room (log 131). Recursion bounds how many. -/
def Power.fit (w : Power) : Nat → Power
  | 0 => w
  | n + 1 =>
    if w.targets <= 60 then w
    else if w.boosts.any (·.granted) then ({ w with boosts := dropLast w.boosts } : Power).fit n
    else ({ w with zones := w.zones.map (fun z => (z.1, { z.2 with primed := false })) } : Power).fit n
def Power.fitted (w : Power) : Power := w.fit (w.boosts.length + 1)

/-- Whether pressure is within its band, as far as it has been read (R437). -/
def Power.pressed (w : Power) : Bool := match w.kpa with | some k => w.lo <= k && k <= w.hi | none => true

/-- The zone in which a tile lies (R435, R438): a spare where it physically sits. -/
def Die.zoneOf (d : Die) (t : Nat) : Nat := match (d.tile t).spare with | some (_, z) => z | none => t / 2
/-- The tiles of a zone. -/
def Die.zoneTiles (d : Die) (z : Nat) : List Nat := (List.range 32).filter (fun t => d.zoneOf t == z)

/-- Whether a partition owns an engine or a context in a zone (R246, R437). -/
def State.inZone (s : State) (p q z : Nat) : Bool :=
  ((s.die p).zoneTiles z).any fun t =>
    (List.range 7).any (fun e => s.cfg.engineOwner p t e == q) || (List.range 8).any (fun k => s.cfg.ctxPart p t k == q)

/-! ### The cluster arbiter (R430 to R432) -/

/-- The order of requests: age, tile, engine (R431). -/
def Reserve.before (a b : Reserve) : Bool :=
  if a.at_ != b.at_ then a.at_ < b.at_ else if a.tile != b.tile then a.tile < b.tile else a.eng < b.eng
def insertReserve (r : Reserve) : List Reserve → List Reserve
  | [] => [r]
  | x :: l => if r.before x then r :: x :: l else x :: insertReserve r l

/-- The units of a rail that a list of reservations takes in a cluster. -/
def unitsIn (l : List Reserve) (cl rail : Nat) : Nat := ((l.filter (fun r => r.tile / 8 == cl && r.rail == rail)).map (·.units)).sum

/-- The limits of the running period. -/
def Power.limit (w : Power) (cl rail : Nat) : Nat := let l := SMap.get (240, 112) w.climAct cl; if rail == 0 then l.1 else l.2
def Power.budget (w : Power) (q cl rail : Nat) : Nat :=
  let l := SMap.get (240, 112) w.pbudAct (q * 4 + cl); if rail == 0 then l.1 else l.2

/-- The step rule (R432): within the threshold of the running 125 ns, or in the package's slot window. -/
def Power.stepOk (w : Power) (slot now rail units : Nat) : Bool :=
  let sum := if w.stepAt == now / 125 then SMap.get 0 w.stepSum rail else 0
  sum + units <= (if rail == 0 then w.stepM else w.stepV) ||
    (125 * slot <= now % 8000 && now % 8000 < 125 * slot + 125)

/-- Whether a zone lets current be granted (R430, R437, R438). -/
def Power.zoneOk (w : Power) (z : Nat) : Bool :=
  (w.zone z).state == 0 && !(w.zone z).hot && w.share z <= (w.zone z).flow

/-- The current in force but for what a request of a pipe's context would replace (R245). -/
def Die.besides (d : Die) (r : Reserve) : List Reserve :=
  d.inForce.filter (fun x => !((r.eng == 4 || r.eng == 5) && (x.eng == 4 || x.eng == 5) && x.tile == r.tile && x.id / 2 == r.id / 2))

/-- The conditions that hold back every younger request, and those that hold back only the partition (R430, R431). -/
def Die.grantHard (d : Die) (slot now : Nat) (r : Reserve) : Bool :=
  unitsIn (d.besides r) (r.tile / 8) r.rail + r.units <= d.power.limit (r.tile / 8) r.rail &&
    d.power.stepOk slot now r.rail r.units
def Die.grantSoft (d : Die) (r : Reserve) : Bool :=
  unitsIn ((d.besides r).filter (·.part == r.part)) (r.tile / 8) r.rail + r.units <= d.power.budget r.part (r.tile / 8) r.rail &&
    d.power.zoneOk (d.zoneOf r.tile)

/-- The request to grant, from the oldest on; `held` are the partitions whose older request waits (R431). -/
def Die.grantPick (d : Die) (slot now : Nat) (held : List Nat) : List Reserve → Option Reserve
  | [] => none
  | r :: l =>
    if !d.grantHard slot now r then none
    else if held.contains r.part || !d.grantSoft r then d.grantPick slot now (r.part :: held) l
    else some r

/-- The next grant of a cluster's rail. -/
def State.nextGrant (s : State) (p cl rail : Nat) : Option Reserve :=
  let d := s.die p
  let asks := (d.askCur.filter (fun r => r.tile / 8 == cl && r.rail == rail)).foldl (fun l r => insertReserve r l) []
  d.grantPick (SMap.get 0 s.cfg.step (p / 8)) s.now [] asks

/-- Grant a request: its current is in force, and the stream that waits for it goes on. -/
def State.grant (s : State) (p : Nat) (r : Reserve) : State :=
  let now := s.now
  let s := s.modDie p fun d =>
    let w := d.power
    let sums := if w.stepAt == now / 125 then w.stepSum else []
    { d with
      askCur := d.askCur.filter (· != r), inForce := d.besides r ++ [r]
      power := { w with stepAt := now / 125, stepSum := sums.put r.rail (SMap.get 0 sums r.rail + r.units) } }
  if r.eng == 4 || r.eng == 5 then
    let wake := fun (x : Stream) => { x with wait := x.wait.map (fun w => if w.kind == .current then { w with ready := true } else w) }
    s.setStream p r.tile (r.id / 2) (r.id % 2 == 1) (wake (s.stream p r.tile (r.id / 2) (r.id % 2 == 1)))
  else s

/-- R431: one grant. -/
def execCurrentGrant (p cl rail : Nat) (s : State) : Out :=
  event s (match s.nextGrant p cl rail with | some r => s.grant p r | none => s)

/-! ### Boosts and modes (R246, R436) -/

/-- Grant the first waiting boost that keeps the sum of targets within 60; recursion on the boosts not yet tried. -/
def Power.grantBoost (w : Power) (tried : List Boost) : List Boost → Option Power
  | [] => none
  | b :: l =>
    let w' := { w with boosts := tried ++ { b with granted := true } :: l }
    if !b.granted && w'.targets <= 60 then some w' else w.grantBoost (tried ++ [b]) l

/-- Whether a prime waits for room in the manifold, which it takes ahead of waiting boosts (R438). -/
def Power.primeWaits (w : Power) : Bool := w.zones.any (fun z => z.2.state == 3 && !z.2.primed)
/-- The next boost granted, if any: none while the pressure is out of its band (R437). -/
def Power.nextBoost (w : Power) : Option Power :=
  if w.pressed && !w.primeWaits then w.grantBoost [] w.boosts else none

/-- R436. -/
def execBoostGrant (p : Nat) (s : State) : Out := event s (s.modPower p fun w => w.nextBoost.getD w)
/-- R246, R436: boosts whose hold has ended, granted or waiting. -/
def execBoostExpiry (p : Nat) (s : State) : Out :=
  event s (s.modPower p fun w => { w with boosts := w.boosts.filter (fun b => s.now < b.ends) })

/-! ### Sensor traps (R437) -/

/-- Raise a cause in the graph-sequencer context of each partition that owns an engine in a zone. -/
def State.raiseZone (s : State) (p z cause : Nat) : State :=
  ((List.range 4).filter (fun q => s.inZone p q z)).foldl (fun s q => s.raiseSeq p q cause) s

/-- Note whether a cause's condition holds: since when it has been clear. -/
def Zone.note (x : Zone) (cause now : Nat) (holds : Bool) : Zone :=
  { x with clearAt :=
      if holds then x.clearAt.erase cause
      else if x.raised.contains cause && (x.clearAt.find cause).isNone then x.clearAt.put cause now else x.clearAt }

/-- Raise a zone's cause once (R437). -/
def State.raiseOnce (s : State) (p z cause : Nat) : State :=
  if (s.zone p z).raised.contains cause then s
  else (s.modZone p z fun x => { x with raised := x.raised ++ [cause] }).raiseZone p z cause

/-- An evacuation trigger, ignored in every state but normal (R438). -/
def State.trigger (s : State) (p z : Nat) : State :=
  s.modZone p z fun x => if x.state == 0 then { x with state := 1, since := s.now } else x

/-- Whether a zone's readings let its prime end (R438). -/
def Power.good (w : Power) (z : Nat) : Bool :=
  let x := w.zone z
  w.share z <= x.flow && !x.void && x.temp + 10 <= w.warn
/-- Note since when a zone's readings have let its prime end. -/
def State.gauge (s : State) (p z : Nat) : State :=
  s.modPower p fun w => w.setZone z { w.zone z with fit := if w.good z then some ((w.zone z).fit.getD s.now) else none }

/-- A zone's flow against its share; 100 µs below raises `COOL_FLOW`. -/
def State.readFlow (s : State) (p z flow : Nat) : State :=
  let low := flow < (s.die p).power.share z
  let s := s.modZone p z fun x =>
    { x.note cCOOL_FLOW s.now low with flow := flow, lowSince := if low then some (x.lowSince.getD s.now) else none }
  match (s.zone p z).lowSince with
  | some t => if t + 100000 <= s.now then s.raiseOnce p z cCOOL_FLOW else s
  | none => s
/-- R437: a reading of a zone's flow. -/
def execCoolFlow (p z flow : Nat) (s : State) : Out := event s ((s.readFlow p z flow).gauge p z)

/-- R437: 2 ms after `COOL_FLOW`, its condition unresolved. -/
def execFlowEvacTimeout (p z : Nat) (s : State) : Out :=
  event s (match (s.zone p z).lowSince with
    | some t => if t + 2100000 <= s.now && (s.zone p z).raised.contains cCOOL_FLOW then s.trigger p z else s
    | none => s)

/-- A zone's temperature against the limits: the warning limit, from which it must cool by 5 °C, and the hard limit. -/
def State.readTemp (s : State) (p z temp : Nat) : State :=
  let w := (s.die p).power
  let s := s.modZone p z fun x =>
    { x.note cCOOL_TEMP s.now (w.warn <= temp) with temp := temp, hot := w.warn <= temp || (x.hot && w.warn < temp + 5) }
  let s := if w.warn <= temp then s.raiseOnce p z cCOOL_TEMP else s
  if w.hard <= temp then s.trigger p z else s
/-- R437: a reading of a zone's temperature. -/
def execCoolTemp (p z temp : Nat) (s : State) : Out := event s ((s.readTemp p z temp).gauge p z)

/-- The manifold's pressure against its band. -/
def State.readPress (s : State) (p kpa : Nat) : State :=
  let s := s.modPower p fun w => { w with kpa := some kpa }
  let w := (s.die p).power
  if w.pressed then
    s.modPower p fun w => { w with pressClear := if w.pressOut then some (w.pressClear.getD s.now) else none }
  else
    let s := s.modPower p fun w => { w with pressClear := none, pressOut := true }
    if w.pressOut then s else (List.range 4).foldl (fun s q => s.raiseSeq p q cCOOL_PRESS) s
/-- R437: a reading of the manifold's pressure. -/
def execCoolPress (p kpa : Nat) (s : State) : Out := event s (s.readPress p kpa)

/-- R437: a void starts an evacuation at once. -/
def execCoolVoid (p z : Nat) (s : State) : Out :=
  event s ((((s.modZone p z fun x => { x.note cCOOL_VOID s.now true with void := true }).raiseOnce p z cCOOL_VOID).trigger p z).gauge p z)

/-- The last readings against shares, limits and band that a write of the driver has changed (R436, R437), once the targets fit the
manifold. -/
def State.review (s : State) (p : Nat) : State :=
  let s := s.modPower p Power.fitted
  let s := (List.range 16).foldl (fun s z => ((s.readFlow p z (s.zone p z).flow).readTemp p z (s.zone p z).temp).gauge p z) s
  match (s.die p).power.kpa with | some k => s.readPress p k | none => s

/-- R436. -/
def execCoolmodeWrite (p : Nat) (w : BitVec 64) (s : State) : Out :=
  event s ((s.modPower p fun x => { x with mode := bits w 2 0 }).review p)

/-- R437: a cause whose condition has been clear for 1 ms may be raised again. -/
def execConditionCleared (p z cause : Nat) (s : State) : Out :=
  event s (
    if cause == cCOOL_PRESS then
      s.modPower p fun w => match w.pressClear with
        | some t => if t + 1000000 <= s.now then { w with pressOut := false, pressClear := none } else w
        | none => w
    else s.modZone p z fun x => match x.clearAt.find cause with
      | some t =>
        if t + 1000000 <= s.now then { x with raised := x.raised.filter (· != cause), clearAt := x.clearAt.erase cause } else x
      | none => x)

/-! ### Evacuation (R438) -/

/-- The tiles of a zone in or out of binding. -/
def State.evacTiles (s : State) (p z : Nat) (b : Bool) : State :=
  ((s.die p).zoneTiles z).foldl (fun s t => s.modTile p t fun x => { x with evac := b }) s

/-- R438: the actions of the evac state, and the zone parks. -/
def execZoneEvac (p z : Nat) (s : State) : Out :=
  event s (
    if (s.zone p z).state != 1 then s
    else
      let s := (s.raiseZone p z cZONE_EVAC).evacTiles p z true
      let hit := (s.die p).ops.filter (fun o => o.2.live && (s.opTiles p o.2).any (fun t => (s.die p).zoneOf t == z))
      let s := hit.foldl (fun s o => s.abortOp p o.1) s
      s.modZone p z fun x => { x.note cCOOL_VOID s.now false with state := 2, since := s.now, void := false })

/-- A write of a zone's `ZVALVE` (R440): a control value of 10 or 11 is ignored. -/
def State.writeValve (s : State) (p z : Nat) (w : Word) : State :=
  let s := s.modZone p z fun x => { x with ctl := if bits w 1 0 <= 1 then bits w 1 0 else x.ctl }
  if bit w 63 then s.trigger p z else s
def execZvalveEvacWrite (p z : Nat) (w : BitVec 64) (s : State) : Out := event s (s.writeValve p z w)

/-- R438: after 50 ms parked the zone primes, unless its valve is held shut; its target is 8 units, and the wait of 200 ms begins,
once the manifold has room. -/
def execParkTimeout (p z : Nat) (s : State) : Out :=
  let x := s.zone p z
  let room := (s.die p).power.targets + 8 <= 60
  let prime := fun (s : State) => (s.modZone p z fun x => { x with state := 3, since := s.now, primed := room, fit := none }).gauge p z
  event s (
    if x.state == 2 && x.since + 50000000 <= s.now && x.ctl != 1 then prime s
    else if x.state == 3 && !x.primed && room then prime s
    else s)

/-- R438: after 200 ms of prime: normal where flow, temperature and void have been good through the last 100 ms, parked, or
excluded after the third failure. -/
def execPrimeTimeout (p z flow temp : Nat) (void : Bool) (s : State) : Out :=
  let x := s.zone p z
  let w := (s.die p).power
  event s (
    if x.state != 3 || !x.primed || s.now < x.since + 200000000 then s
    else
      let s := (s.modZone p z fun y =>
        { ((y.note cCOOL_TEMP s.now (w.warn <= temp)).note cCOOL_FLOW s.now (flow < w.share z)).note cCOOL_VOID s.now void with
          flow := flow, temp := temp, void := void, hot := w.warn <= temp || (y.hot && w.warn < temp + 5)
          lowSince := if flow < w.share z then some (y.lowSince.getD s.now) else none }).gauge p z
      let fit := (s.zone p z).fit.any (fun t => t + 100000000 <= s.now)
      let s := s.modZone p z fun y => { y with since := s.now, primed := false }
      if fit then (s.modZone p z fun y => { y with state := 0, fails := 0 }).evacTiles p z false
      else if x.fails < 2 then s.modZone p z fun y => { y with state := 2, fails := y.fails + 1 }
      else (s.modZone p z fun y => { y with state := 4, fails := 3 }).raiseZone p z cZONE_EVAC)

/-! ### Registers (R439, R440) -/

def State.railst (s : State) (p : Nat) : Word :=
  let w := (s.die p).power
  BitVec.ofNat 64 (w.point 0 + w.point 1 * 2 ^ 4 + w.point 2 * 2 ^ 8 + w.point 3 * 2 ^ 12 + w.drop * 2 ^ 16 +
    b2n w.backoff.isSome * 2 ^ 21 + SMap.get 0 s.cfg.step (p / 8) % 64 * 2 ^ 22)
def Ctx.curst (c : Ctx) : Word := match c.grant with | some (_, u) => BitVec.ofNat 64 (u + 2 ^ 12) | none => 0
def Die.zonest (d : Die) (z : Nat) : Word :=
  let w := d.power
  let x := w.zone z
  BitVec.ofNat 64 (w.share z + w.target z * 2 ^ 4 + min 15 x.flow * 2 ^ 8 + min 255 x.temp * 2 ^ 12 + x.state * 2 ^ 20 +
    x.fails * 2 ^ 23 + b2n x.void * 2 ^ 25 + ((d.zoneTiles z).map (fun t => 2 ^ (32 + t))).sum)
def Power.coolst (w : Power) : Word := BitVec.ofNat 64 (w.mode + w.targets % 2 ^ 6 * 2 ^ 3 + w.kpa.getD 0 % 2 ^ 16 * 2 ^ 16)

/-- How far a zone's valve is open: 0 while it is shut; else a free value of the die and zone, of every zone's target and of the
pressure, which changes with these alone (log 90). -/
def Power.valve (w : Power) (p z : Nat) : Nat :=
  if w.target z == 0 then 0
  else (Config.freeByte (2 ^ 128 + (List.range 16).foldl (fun n k => n * 16 + w.target k) ((p * 16 + z) * 2 ^ 16 + w.kpa.getD 0 % 2 ^ 16))).toNat

/-- Whether a table of shares keeps the limits of R436. -/
def sharesOk (v : Word) : Bool :=
  let l := (List.range 16).map (fun z => bits v (4 * z + 3) (4 * z))
  l.all (· <= 8) && l.sum <= 60

/-- The power window's registers (R440): what an offset reads. -/
def State.powerRead (s : State) (p off : Nat) : Word :=
  let w := (s.die p).power
  let two := fun (l : Nat × Nat) => BitVec.ofNat 64 (l.1 + l.2 * 2 ^ 16)
  if off % 8 != 0 then 0
  else if off == 0 then
    BitVec.ofNat 64 (((List.range 4).map (fun r => SMap.get 12 w.want r * 2 ^ (4 * r))).sum + b2n w.uvon * 2 ^ 16)
  else if off == 8 then two (w.stepM, w.stepV)
  else if off == 0x10 then w.margn.setWidth 64
  else if 0x80 <= off && off <= 0x98 then two (SMap.get (240, 112) w.clim ((off - 0x80) / 8))
  else if 0x100 <= off && off <= 0x178 then
    let k := (off - 0x100) / 8
    two (SMap.get (240, 112) w.pbud k)
  else if off == 0x200 then BitVec.ofNat 64 w.mode
  else if off == 0x208 then BitVec.ofNat 64 (w.warn + w.hard * 2 ^ 8)
  else if off == 0x210 then BitVec.ofNat 64 (w.lo + w.hi * 2 ^ 16)
  else if 0x300 <= off && off <= 0x338 then w.table ((off - 0x300) / 8)
  else if 0x400 <= off && off <= 0x478 then
    let z := (off - 0x400) / 8
    BitVec.ofNat 64 ((w.zone z).ctl + w.valve p z * 2 ^ 8)
  else 0

/-- A write of a register of the power window; `sram` says whether it writes byte 1, where `RAILSET` has its SRAM field. -/
def State.powerWrite (s : State) (p off : Nat) (v : Word) (sram : Bool := true) : State :=
  let pair := (bits v 11 0, bits v 27 16)
  if off % 8 != 0 then s
  else if off == 0 then s.modPower p (·.setRails v sram)
  else if off == 8 then s.modPower p fun w => { w with stepM := pair.1, stepV := pair.2 }
  else if 0x80 <= off && off <= 0x98 then s.modPower p fun w => { w with clim := w.clim.put ((off - 0x80) / 8) pair }
  else if 0x100 <= off && off <= 0x178 then s.modPower p fun w => { w with pbud := w.pbud.put ((off - 0x100) / 8) pair }
  else if off == 0x200 then (s.modPower p fun w => { w with mode := bits v 2 0 }).review p
  else if off == 0x208 then (s.modPower p fun w => { w with warn := bits v 7 0, hard := bits v 15 8 }).review p
  else if off == 0x210 then (s.modPower p fun w => { w with lo := bits v 15 0, hi := bits v 31 16 }).review p
  else if 0x300 <= off && off <= 0x338 then
    if sharesOk v then (s.modPower p fun w => { w with alloc := w.alloc.put ((off - 0x300) / 8) v }).review p else s
  else if 0x400 <= off && off <= 0x478 then s.writeValve p ((off - 0x400) / 8) v
  else s

end Sys2Proof.Machine
end

