-- ==== Sys2Proof/Machine/Thread.lean ====
section
/-! DEFINITION. Class Y but for the `SEQ` forms and the control registers (R229 to R238, R245, R246, R248 to R250): waiting
on counters, groups, starting and ending contexts, messages and entries for other tiles, current and coolant, traps,
translations and checkpoints. -/

namespace Sys2Proof.Machine

/-! ### Waiting on a counter (R230, R231) -/

/-- Whether no context that holds rights on a counter is left (R231). -/
def Tile.noRights (t : Tile) (c : Counter) : Bool :=
  (List.range 8).all (fun k => !bit c.rights k || (t.ctx k).status == .free || (t.ctx k).status == .ending)
/-- Whether a wait for a threshold is hopeless (R230). -/
def Tile.orphan (t : Tile) (n : Nat) (thr : BitVec 32) : Bool :=
  let c := t.counter n
  (c.val + c.pending - thr).msb && t.noRights c

def execWaitb (f : ImmF) (s : State) : Out :=
  let n := num f.d
  let thr : BitVec 32 := (s.reg f.a + f.imm.signExtend 64).setWidth 32
  issue (.waitb f) s (
    if !((s.myTile.counter n).val - thr).msb then pure s
    else if s.myTile.orphan n thr then trap s cWAIT_ORPHAN
    else .error (.wait (.counter n thr) false s))

/-! ### Entries for another tile's engine (R232) -/

/-- The engines that a block's word names on its target: the halves of an M word, or the copy engine. -/
def enqrEngines (i : Instr) : Option (List Nat) :=
  match (opcode i).1 with
  | 4 => some (unitHalves (BitVec.ofNat 3 (bits (encodeWord i) 51 49)))
  | 5 => some [4]
  | _ => none

/-- The instruction of a block, once its word passes R97 and its fields of kind s are 0. -/
def enqrWord (w : Word) : Option Instr :=
  match decodeWord w with
  | .error _ => none
  | .ok i =>
    let k := kinds i
    let zero := fun (k : Kind) (lo : Nat) => k != .s || field w lo 8 == 0
    if zero k.a 21 && zero k.b 29 && zero k.e 37 then some i else none

/-- The answer to a message or entry that has been sent: the form completes, or raises the cause (R229). -/
def State.answered (s : State) (a : Nat) : R State :=
  let s := s.setMe { s.me with answer := none, block := none }
  if a == 0 then .ok s else trap s a

/-- Whether the bundle's message or entry has been sent. -/
def Stream.awaits (x : Stream) : Bool :=
  match x.wait with | some w => w.kind == .answer || w.got.contains .answer | none => false

/-- The entry that an `ENQR` reads at its issue from the block at `a`, for an engine of tile `t`, after the checks of R232. -/
def State.readBlock (s : State) (a : Word) (peer t : Nat) : R (Enqr × State) := do
  let p := s.iss.peer
  let q := s.myCtx.part
  s.bufLive a
  if a.toNat % 32 != 0 then trapAt s cMISALIGN a
  let (at_, s) ← s.scratch a
  let tl := s.myTile
  let v := fun (k : Nat) => BitVec.ofNat 64 (tl.rd (at_ + 8 * k) 8)
  match enqrWord (v 0) with
  | none => trap s cILLOP
  | some i => match enqrEngines i with
    | none => trap s cILLOP
    | some es =>
      if peer != p || !es.all (fun e => s.cfg.engineOwner p t e == q) then trap s cPERM_FAULT
      else pure ({ peer := p, tile := s.iss.tile, ctx := s.iss.ctx, exe := s.iss.exe, word := v 0, va := v 1,
                   vb := v 2, ve := v 3, vf := s.myCtx.vf, part := q, op := s.myCtx.op, seed := s.myCtx.srseed, salt := s.me.salt,
                   resv := s.me.resv.toNat }, s)

/-- R232: the block is read once, at issue; the entry goes out when the stream's earlier stores have been performed. -/
def execEnqr (f : RegF) (s : State) : Out :=
  let a := s.reg f.a
  let b := s.reg f.b
  let t := bits b 13 9
  issue (.enqr f) s (match s.me.answer with
    | some c => s.answered c
    | none =>
      if s.me.awaits then .error (.wait .answer true s)
      else do
        legal s (bits b 63 14 == 0 && bits b 8 0 < s.peers)
        let (x, s) ← match s.me.block with | some x => pure (x, s) | none => s.readBlock a (bits b 8 0) t
        match s.settled true false with
        | .error (.wait k l u) => .error (.wait k l (u.setMe { u.me with block := some x }))
        | .error e => .error e
        | .ok _ => .error (.wait .answer true (s.modTile s.iss.peer t fun y => { y with enqr := y.enqr ++ [x] })))

/-! ### Groups (R233, R234) -/

/-- The issuing stream's number on its die. -/
def State.myId (s : State) : StreamId := s.iss.tile * 16 + s.iss.ctx * 2 + b2n s.iss.exe

/-- The group that a form names, if its partition and key fit (R233). -/
def State.myGroup (s : State) (f : ImmF) : R Group :=
  let g := s.myDie.group f.imm.toNat
  if g.owner != s.myCtx.part then trap s cPERM_FAULT
  else if g.key != s.reg f.a then trap s cSYNC_FAULT
  else pure g

def execJoin (f : ImmF) (s : State) : Out :=
  let n := f.imm.toNat
  let g := s.myDie.group n
  issue (.join f) s (
    if g.members.isEmpty then
      pure (s.setMyDie (s.myDie.setGroup n { key := s.reg f.a, owner := s.myCtx.part, members := [s.myId] }))
    else do
      let g ← s.myGroup f
      if g.members.contains s.myId then trap s cSYNC_FAULT
      else pure (s.setMyDie (s.myDie.setGroup n { g with members := g.members ++ [s.myId] })))

def execLeave (f : ImmF) (s : State) : Out :=
  let n := f.imm.toNat
  issue (.leave f) s (
    if (s.myDie.group n).members.isEmpty then trap s cSYNC_FAULT
    else do
      let g ← s.myGroup f
      if !g.members.contains s.myId then trap s cSYNC_FAULT
      else pure (s.setMyDie (s.myDie.setGroup n (g.leave s.myId))))

def execGbar (f : ImmF) (s : State) : Out :=
  let n := f.imm.toNat
  issue (.gbar f) s (
    if s.me.granted (.barrier n) then pure s
    else if (s.myDie.group n).members.isEmpty then trap s cSYNC_FAULT
    else do
      let g ← s.myGroup f
      if !g.members.contains s.myId then trap s cSYNC_FAULT
      else do
        s.settled true true
        let g := if g.isOpen then g else { g with isOpen := true, required := g.members, arrived := [] }
        let g := if g.arrived.contains s.myId then g else { g with arrived := g.arrived ++ [s.myId] }
        .error (.wait (.barrier n) true (s.setMyDie (s.myDie.setGroup n g))))

/-! ### Starting and ending contexts (R235, R236) -/

/-- The multicast line that a die takes next, if it starts a thread (R223, R259): the tile of its handler. -/
def State.threadLine (s : State) (p : Nat) : Option Nat :=
  match s.taken p 0x08 (fun _ => true) with
  | some k => if k.arg 2 == 1 then ((s.die p).mch.find (k.arg 0)).map (·.1) else none
  | none => none

/-- The context that a start takes on a tile: the one named if it is dormant or free, or the lowest dormant one that no
waiting message claims, or the lowest free one (R235, R260), but for a released one of this interval (R321). -/
def State.startTarget (s : State) (p t q : Nat) (named : Option Nat) : Option Nat :=
  let tl := s.tile p t
  let free := fun (c : Nat) => s.cfg.binds p t c q && (tl.ctx c).status == .free && !tl.noBind.contains c
  let ready := fun (c : Nat) => (s.cfg.binds p t c q && (tl.ctx c).status == .dormant) || free c
  match named with
  | some c => if ready c then some c else none
  | none =>
    let claims := tl.handlers.length + b2n (s.threadLine p == some t)
    match ((tl.dormants none).drop claims).find? (fun c => s.cfg.binds p t c q) with
    | some c => some c
    | none => (List.range 8).find? free

def execTstart (f : RegF) (s : State) : Out :=
  let a := s.reg f.a
  let b := s.reg f.b
  let e := s.reg f.e
  let p := s.iss.peer
  let t := bits e 13 9
  let x := s.myCtx
  let entryOk := fun (w : Word) => !bit w 0 && bits w 63 57 == 0
  issue (.tstart f) s (do
    legal s (entryOk a && entryOk b && bits e 63 18 == 0 && bits e 8 0 < s.peers && !(a == 0 && b == 0))
    let named := if bit e 17 then none else some (bits e 16 14)
    if bits e 8 0 != p || (s.tile p t).bound != some x.op || !(s.myDie.op x.op).live ||
        (match named with | some c => !s.cfg.binds p t c x.part | none => false) then trap s cPERM_FAULT
    else do
      s.settled true false
      match s.startTarget p t x.part named with
      | none => .error (.wait .poll true s)
      | some c =>
        let y : Ctx := { srseed := x.srseed, lparam := x.lparam, op := x.op, stage := x.stage, vf := x.vf, part := x.part,
                         sbind := mkSbind x.stage (s.cfg.pipeOf p t c x.part) (s.myDie.op x.op).entry (vfNumber p x.vf) }
        pure (s.setCtx p t c (y.start (a.setWidth 57) (b.setWidth 57))))

def execTexit (f : RegF) (s : State) : Out := issue (.texit f) s (do s.leaves .texit; pure (s.endStream .texit))
def execDorm (f : RegF) (s : State) : Out := issue (.dorm f) s (do s.leaves .dorm; pure (s.endStream .dorm))

/-- Whether a context has engine commands that have not retired, or entries not yet accepted (R236). -/
def State.ctxBusy (s : State) (p t c : Nat) : Bool :=
  let o := (s.ctx p t c).op
  (s.tile p t).cmds.any (fun k => k.from_.isNone && k.ctx == c && k.op == o) ||
    s.dies.any (fun d => d.2.tiles.any (fun e => e.2.cmds.any (fun k => k.from_ == some (p, t, c) && k.op == o) ||
      e.2.enqr.any (fun k => k.peer == p && k.tile == t && k.ctx == c && k.op == o)))
def execOpend (f : RegF) (s : State) : Out :=
  issue (.opend f) s (
    if s.ctxBusy s.iss.peer s.iss.tile s.iss.ctx then .error (.wait .poll false s)
    else do s.leaves .opend; pure (s.endStream .opend))

/-! ### Handler messages (R237) -/

def execHmsg (f : RegF) (s : State) : Out :=
  let a := s.reg f.a
  let b := s.reg f.b
  let e := s.reg f.e
  let n := bits a 43 32 + 1
  let src := bits a 31 0
  issue (.hmsg f) s (match s.me.answer with
    | some c => s.answered c
    | none =>
      if s.me.awaits then .error (.wait .answer true s)
      else match eaddr b with
        | .glob _ => trap s cILLOP
        | .scr peer t at_ => do
          legal s (bits a 63 44 == 0 && eaddrOk b && !eaddrLost b s.peers && !bit e 0 && bits e 63 57 == 0)
          s.bufLive (BitVec.ofNat 64 src)
          if src % 128 != 0 then trapAt s cMISALIGN (BitVec.ofNat 64 src)
          if at_ % 128 != 0 then trapAt s cMISALIGN b
          match s.myTile.span src n with
          | .error c => trapAt s c (BitVec.ofNat 64 src)
          | .ok _ => do
            let (at0, s) ← s.scratch (BitVec.ofNat 64 src)
            s.settled true false
            if s.gone s.iss.peer peer then trap s cPEER_LOST
            else
              -- every line is checked as it leaves the tile, and bad data does not go out as good (R409)
              let ks := List.range ((n + 127) / 128)
              let s := s.setMyTile (ks.foldl (fun tl k => (tl.checkLine (at0 / 128 + k)).2) s.myTile)
              let tl := s.myTile
              let bs := (List.range n).map (fun k => BitVec.ofNat 8 (tl.rd (at0 + k) 1))
              let bad := (ks.map (fun k => b2n (tl.checkLine (at0 / 128 + k)).1 * 2 ^ k)).sum
              let k : Packet := { s.header 0x0F peer 0 with tile := t, addr := at_, size := n, bytes := bs, poison := bad, args := [e.toNat] }
              .error (.wait .answer true (s.request k none).2))

/-! ### Yielding (R238) -/

/-- The other contexts of the tile that could issue now. -/
def Tile.others (t : Tile) (c : Nat) : List Nat :=
  (List.range 8).filter fun k => k != c &&
    [false, true].any (fun exe => (t.ctx k).free exe && ((t.ctx k).stream exe).wait.isNone)
/-- R238: the form waits until each of them has issued a bundle, or for 8 tile cycles. -/
def execYield (f : RegF) (s : State) : Out :=
  let l := s.myTile.others s.iss.ctx
  issue (.yield f) s (
    if s.me.granted .yield || l.isEmpty then pure s
    else if s.me.wait.any (·.kind == .yield) then .error (.wait .yield false s)
    else .error (.wait .yield false (s.setMe { s.me with yhold := 8, yield := l })))

/-! ### Current and coolant (R245, R246) -/

/-- R245, R427: entry 0 of a pipe's grant releases the grant held and asks for the default dv; where that asks for nothing, no grant
is left (log 120). -/
def execResv (f : RegF) (s : State) : Out :=
  let a := s.reg f.a
  let n := bits a 7 0
  let x := s.myCtx
  let o := s.myDie.op x.op
  let k := if n == 0 then o.dv else n
  let pipe := s.cfg.pipeOf s.iss.peer s.iss.tile s.iss.ctx x.part
  issue (.resv f) s (do
    legal s (bits a 63 10 == 0 && bits a 9 8 < 2)
    if bits a 9 8 == 0 then do
      legal s (n == 0 || (o.current n 0).isSome || (o.current n 1).isSome)
      pure (s.setMe { s.me with resv := BitVec.ofNat 8 n })
    -- the grant held so far goes only as the new one comes (R229)
    else if s.me.granted .current then
      let u := match o.current k 1 with | some (_, u) => u | none => 0
      pure (s.setMyCtx { x with grant := some (k, u) })
    else match o.current k 1 with
      | none => trap s cILLOP
      | some (_, u) =>
        if u == 0 then
          let s := s.setMyDie (s.myDie.dropGrant s.iss.tile s.iss.ctx)
          pure (s.setMyCtx { s.myCtx with grant := if n == 0 then none else some (n, 0) })
        else if s.me.wait.any (·.kind == .current) then .error (.wait .current true s)
        else
          let r : Reserve := { tile := s.iss.tile, eng := 4 + pipe, id := s.iss.ctx * 2 + b2n s.iss.exe, rail := 1, units := u,
                               part := x.part, at_ := s.ninths }
          let d := s.myDie
          .error (.wait .current true (s.setMyDie { d with askCur := d.askCur ++ [r] })))

def execFlowq (f : RegF) (s : State) : Out :=
  let a := s.reg f.a
  let b := s.reg f.b
  let z := bits a 3 0
  let u := bits b 3 0
  let q := s.myCtx.part
  issue (.flowq f) s (do
    legal s (bits a 63 4 == 0 && bits b 15 4 == 0 && bits b 63 32 == 0 && u <= 8 && (u == 0 || bits b 31 16 != 0))
    if !s.inZone s.iss.peer q z then trap s cPERM_FAULT
    else
      let w := s.myDie.power
      let rest := w.boosts.filter (fun x => !(x.zone == z && x.part == q))
      let new : List Boost := if u == 0 then [] else
        [{ zone := z, units := u, ends := s.now + bits b 31 16 * 1000000, part := q, granted := false }]
      pure (s.modPower s.iss.peer fun w => { w with boosts := rest ++ new }))

/-! ### Traps (R248, R265) -/

def execTrap (f : ImmF) (s : State) : Out := issue (.trap f) s (.error (.trap cSOFT_TRAP 0 f.imm.toNat s))

/-- `ERET`, alone in its bundle and in trap mode, once the handler's results have landed. -/
def execEret (f : RegF) (s : State) : Out :=
  issue (.eret f) s (do
    legal s (s.me.tmode && s.iss.wpc == s.iss.ipc)
    match s.me.gload with
    | some g => if g.cause != 0 then .error (.deferred g.cause g.ea) else .error (.wait .poll false s)
    | none =>
      if !s.myCtx.inflight.isEmpty then .error (.wait .poll false s)
      else
        let epc : Addr := s.me.epc.setWidth 57
        let s := s.trapReturn s.iss.peer s.iss.tile s.iss.ctx s.iss.exe
        -- a fetch that the trap found in progress begins again (R120, R265)
        pure { s with iss := { s.iss with go := some (epc, s.me.fhold) } })

/-! ### Translations (R249) -/

/-- Whether no access of a context waits for the answer of another die. -/
def Ctx.answered (x : Ctx) : Bool :=
  x.acc.sending.isEmpty && x.exe.sending.isEmpty && x.queues.all (fun q => q.2.entries.all (fun e => e.unread.isNone))

/-- R249, R359: the entries go, once every access of the scope that may have used one has been performed. -/
def execTlbi (f : RegF) (s : State) : Out :=
  let a := s.reg f.a
  let b := s.reg f.b
  let all := bit f.m 2
  let p := s.iss.peer
  let q := s.myCtx.part
  let hit := fun (e : TlbEntry) => s.cfg.partOf p e.vf == q && (all || e.hits e.vf a.toNat ((bits b 23 0 + 1) * 4096))
  issue (.tlbi f) s (do
    legal s (if all then a == 0 && b == 0 else bits a 11 0 == 0 && bits a 63 57 == 0 && bits b 63 24 == 0)
    -- another die's translations belong to other partitions (R444)
    let mine := fun (t : Tile) => t.ctxs.all (fun c => c.2.part != q || c.2.answered)
    let done := if bits f.m 1 0 == 0 then mine s.myTile else s.myDie.tiles.all (fun t => mine t.2)
    if !done then .error (.wait .poll false s)
    else if bits f.m 1 0 == 0 then
      let t := s.myTile
      pure (s.setMyTile { t with utlb := t.utlb.filter (fun e => !hit e) })
    else pure (s.setMyDie (s.myDie.dropTlb hit)))

/-! ### Checkpoints (R250, R417) -/

/-- The slot as a checkpoint records it: no tree survives (R417). -/
def Slot.recorded (x : Slot) : Slot :=
  { x with state := if 2 <= x.state && x.state <= 4 then 1 else x.state, nodes := [], checks := [], path := [] }
/-- The slots that a partition's VFs hold. -/
def State.heldSlots (s : State) (p q : Nat) : List (Nat × Slot) :=
  ((s.die p).slots.filter (fun e => e.2.state != 0 && s.cfg.partOf p e.2.vf == q)).map (fun e => (e.1, e.2.recorded))

/-- A launch's record as accepted (R308), and the bitmap of the entries that have ended, with failure or without (R417). -/
def launchBytes (x : Launch) : List Byte :=
  leBytes 8 x.graph.toNat ++ leBytes 8 x.param.toNat ++ leBytes 8 x.seed.toNat ++ [BitVec.ofNat 8 x.prio] ++
    [BitVec.ofNat 8 x.flags] ++ List.replicate 6 0 ++ leBytes 8 x.cpl.toNat ++ List.replicate 16 0 ++ leBytes 8 x.tag.toNat ++
    leBytes 512 ((x.ended ++ x.dead).foldl (fun m i => m ||| 2 ^ i) 0)
def slotBytes (p : Nat) (e : Nat × Slot) : List Byte :=
  leBytes 2 e.1 ++ leBytes 1 e.2.state ++ leBytes 1 e.2.prio ++ leBytes 1 e.2.rule ++ leBytes 1 (vfNumber p e.2.vf) ++ [0, 0] ++
    leBytes 4 e.2.len ++ leBytes 4 e.2.pending.toNat

/-- A partition's checkpoint record. -/
def State.ckptBytes (s : State) (p q : Nat) : List Byte :=
  let ls := (s.die p).launchesOf q
  let ss := s.heldSlots p q
  leBytes 4 ((s.die p).part q).logseq.toNat ++ leBytes 2 (partId p q) ++ leBytes 2 ls.length ++ leBytes 2 ss.length ++
    List.replicate 6 0 ++ leBytes 8 s.now ++ List.replicate 40 0 ++ ls.flatMap launchBytes ++ ss.flatMap (slotBytes p)

/-- Where each line of a store to `a` goes, or why the store stops: its bytes go to their home, behind the stream's earlier
accesses to the same bytes (R275, R365); recursion on the lines. -/
def storeLines (s : State) (a : Nat) (bs : List Byte) : Nat → R (List (Loc × List Byte) × State)
  | 0 => .ok ([], s)
  | k + 1 =>
    if bs.isEmpty then .ok ([], s)
    else do
      let ea := BitVec.ofNat 64 a
      let (l, s) ← s.xlate ea .ewrite
      if s.clash l 128 then .error (.wait .poll false s)
      if s.heldLoc l || s.copied s.iss.peer l then .error (.wait (.hold ea) true s)
      let (rest, s) ← storeLines s (a + 128) (bs.drop 128) k
      pure ((l, bs.take 128) :: rest, s)

def execCkpt (f : RegF) (s : State) : Out :=
  let a := s.reg f.a
  let p := s.iss.peer
  let q := s.myCtx.part
  issue (.ckpt f) s (do
    legal s (bits a 63 57 == 0 && bits a 11 0 == 0)
    if s.cfg.seqCtx p q != (s.iss.tile, s.iss.ctx) then trap s cPERM_FAULT
    if s.myDie.ops.any (fun o => o.2.live && !o.2.hook && o.2.part == q) then
      .error (.wait .ckpt false (s.modPart p q fun x => { x with ckpt := true }))
    else do
      -- new operators stay held back while the record is written
      let s := s.modPart p q fun x => { x with ckpt := true }
      let bs := s.ckptBytes p q
      let (ws, s) ← storeLines s a.toNat bs (bs.length / 128 + 1)
      let s := ws.foldl (fun s w => s.writeLoc p w.1 w.2 false) s
      let slots := s.heldSlots p q
      let ls := s.myDie.launchesOf q
      pure (s.modPart p q fun x => { x with ckpt := false, logckp := x.logseq, last := some ⟨x.logseq, ls, slots⟩ }))

end Sys2Proof.Machine
end

