-- ==== Sys2Proof/Machine/Flags.lean ====
section
/-! DEFINITION. Condition computations: the Z8's only flags are the cond halves of the steer registers (R18) and the
predicates (R22); every compare that writes one is here (R109, R154). -/

namespace Sys2Proof.Machine

/-- The integer conditions of R109 on W-bit operands. -/
def condInt (cc t a b : Nat) : Bool :=
  let x := intVal t a
  let y := intVal t b
  match cc with
  | 0 => x == y
  | 1 => x != y
  | 2 => x < y
  | 3 => y <= x
  | 4 => x <= y
  | 5 => y < x
  | 6 => a &&& b != 0
  | _ => a &&& b == 0

/-- The floating-point conditions of R154: +0 = −0, and with a NaN every one false but `ne`. -/
def condFloat (cc : Nat) (x y : FVal) : Bool :=
  if x == .nan || y == .nan then cc == 1
  else
    let c := FVal.cmp x y
    match cc with
    | 0 => c == 0
    | 1 => c != 0
    | 2 => c < 0
    | 3 => 0 <= c
    | 4 => c <= 0
    | _ => 0 < c

end Sys2Proof.Machine
end

