-- ==== Sys2Proof/Machine/Vector.lean ====
section
/-! DEFINITION. Class V (R146 to R171): two-dimensional vector forms, predicates, conditional streams. A vector is read as
a number, element e of width w at bit w × e (R21, R172). -/

namespace Sys2Proof.Machine

/-! ### Shape, predicate and pipe (R146 to R149) -/

/-- Element `e` of width `w` of a vector. -/
def elem (w v e : Nat) : Nat := v / 2 ^ (w * e) % 2 ^ w
/-- A vector register of the issuing context, as a number. -/
def State.vreg (s : State) (f : BitVec 8) : Nat := (SMap.get 0 s.myCtx.v (num f)).toNat
def State.shapeW (s : State) : Nat := vsWidth s.myCtx.vshape
def State.shapeR (s : State) : Nat := vsRows s.myCtx.vshape
def State.shapeC (s : State) : Nat := vsCols s.myCtx.vshape
/-- N, the elements of the shape (R146). -/
def State.shapeN (s : State) : Nat := s.shapeR * s.shapeC

/-- Element positions below N at which a predicate is set (R148). -/
def State.actives (s : State) (pr : Nat) : List Nat :=
  let p := s.myCtx.pred pr
  (List.range s.shapeN).filter (fun e => bit p e)

/-- The pipe that serves the context (R317): its number mod 2, or the other one when only that is owned. -/
def State.myPipe (s : State) : Option Nat :=
  let own := fun k => s.cfg.engineOwner s.iss.peer s.iss.tile (5 + k) == s.myCtx.part
  let k := s.iss.ctx % 2
  if own k then some k else if own (1 - k) then some (1 - k) else none


/-- Occupy the context's pipe for a number of passes (R149, R171, R323, R429): twice as long for a transcendental form,
and four times without a grant. -/
def State.occupyFor (s : State) (passes : Nat) (double : Bool) : R State :=
  match s.myPipe with
  | none => trap s cPERM_FAULT
  | some k =>
    let t := s.myTile
    let p : Pipe := SMap.get {} t.pipes k
    if p.left != 0 || (s.myDie.part s.myCtx.part).vbud <= p.used then .error .stall
    else
      let cyc := if double then 2 else 1
      let per := cyc * (if s.myCtx.grant.isSome then 1 else 4)
      let p' : Pipe := { ctx := s.iss.ctx, left := passes * per, per := per, cyc := cyc, mstep := 0, used := p.used + passes * cyc }
      pure (s.setMyTile { t with pipes := t.pipes.put k p' })

/-- Occupy the pipe for a V form of B = N × w_s / 8 bytes. -/
def State.occupy (s : State) (double : Bool) : R State := s.occupyFor ((s.shapeN * s.shapeW / 8 + 511) / 512) double

/-- Width rules of R146: w_t = w_s, or narrower where the form takes sub-elements. -/
def State.vWidth (s : State) (t : Nat) (subs : Bool) : R Unit :=
  legal s (width t == s.shapeW || (subs && width t < s.shapeW))

/-- The write of `g e` to each listed element of width `w`. -/
def vPut (d : BitVec 8) (w : Nat) (es : List Nat) (g : Nat → Nat) : Write :=
  .v (num d) (es.foldl (fun m e => m + (2 ^ w - 1) * 2 ^ (w * e)) 0) (es.foldl (fun v e => v + g e * 2 ^ (w * e)) 0)

/-- The sub-elements of the active elements, by their position in the register (R146, R148). -/
def subs (k : Nat) (es : List Nat) : List Nat := es.flatMap (fun e => (List.range k).map (fun x => e * k + x))

/-- How a V or X form of Reg format rounds the result at a coordinate (R51, R82, R147). -/
def State.rnd (s : State) (m : BitVec 10) (pos : Nat) : Rnd :=
  let rc := bits m 6 4
  { rc := rc, sat := bit m 7, fl0 := bit m 8,
    u := if rc == 4 then srHash s.myCtx.srseed.toNat s.me.salt.toNat (s.rpi.toNat * 2 ^ 16 + pos) else 0 }

/-- An elementwise form: `g q` is sub-element q of the result. -/
def vMap (i : Instr) (f : RegF) (s : State) (sub double : Bool) (lat : Nat) (g : Nat → Nat) : Out :=
  let t := f.t1.toNat
  issue i s (do
    s.vWidth t sub
    let u ← s.occupy double
    pure (u.pend (vPut f.d (width t) (subs (s.shapeW / width t) (s.actives f.pr.toNat)) g) none lat))

/-! ### Elementwise arithmetic (R150 to R153) -/

/-- An arithmetic form: exact on integers and on values (R150, R151). -/
def vArith (i : Instr) (f : RegF) (s : State) (gi : Int → Int → Int → Int) (gf : Bool → FVal → FVal → FVal → FVal) : Out :=
  let t := f.t1.toNat
  let w := width t
  let a := s.vreg f.a
  let b := s.vreg f.b
  let c := s.vreg f.e
  vMap i f s true false 4 fun q =>
    if isFloat t then
      let v := fun x => valueOf t (elem w x q) (bit f.m 9)
      roundV t (s.rnd f.m q) (gf (bits f.m 6 4 == 3) (v a) (v b) (v c))
    else
      let v := fun x => intVal t (elem w x q)
      intFit t (bit f.m 7) (gi (v a) (v b) (v c))

def execVadd (f : RegF) (s : State) : Out := vArith (.vadd f) f s (fun a b _ => a + b) (fun r a b _ => FVal.add a b r)
def execVsub (f : RegF) (s : State) : Out := vArith (.vsub f) f s (fun a b _ => a - b) (fun r a b _ => FVal.add a b.neg r)
def execVmul (f : RegF) (s : State) : Out := vArith (.vmul f) f s (fun a b _ => a * b) (fun _ a b _ => FVal.mul a b)
def execVfma (f : RegF) (s : State) : Out :=
  vArith (.vfma f) f s (fun a b c => a * b + c) (fun r a b c => FVal.add (FVal.mul a b) c r)
def execVfms (f : RegF) (s : State) : Out :=
  vArith (.vfms f) f s (fun a b c => a * b - c) (fun r a b c => FVal.add (FVal.mul a b) c.neg r)
def execVmin (f : RegF) (s : State) : Out := vArith (.vmin f) f s (fun a b _ => min a b) (fun _ a b _ => FVal.minMax false a b)
def execVmax (f : RegF) (s : State) : Out := vArith (.vmax f) f s (fun a b _ => max a b) (fun _ a b _ => FVal.minMax true a b)
def execVabs (f : RegF) (s : State) : Out := vArith (.vabs f) f s (fun a _ _ => (a.natAbs : Int)) (fun _ a _ _ => a.abs)
def execVneg (f : RegF) (s : State) : Out := vArith (.vneg f) f s (fun a _ _ => -a) (fun _ a _ _ => a.neg)

/-- A form over the bits of corresponding sub-elements. -/
def vBits (i : Instr) (f : RegF) (s : State) (g : Nat → Nat → Nat) : Out :=
  let w := width f.t1.toNat
  let a := s.vreg f.a
  let b := s.vreg f.b
  vMap i f s true false 4 (fun q => g (elem w a q) (elem w b q))

def execVand (f : RegF) (s : State) : Out := vBits (.vand f) f s (fun a b => a &&& b)
def execVor (f : RegF) (s : State) : Out := vBits (.vor f) f s (fun a b => a ||| b)
def execVxor (f : RegF) (s : State) : Out := vBits (.vxor f) f s (fun a b => a ^^^ b)
def execVnot (f : RegF) (s : State) : Out := vBits (.vnot f) f s (fun a _ => 2 ^ width f.t1.toNat - 1 - a)
def execVshl (f : RegF) (s : State) : Out := vBits (.vshl f) f s (fun a b => shlW f.t1.toNat a (b % 256))
def execVshr (f : RegF) (s : State) : Out := vBits (.vshr f) f s (fun a b => shrW f.t1.toNat a (b % 256))
def execVsra (f : RegF) (s : State) : Out := vBits (.vsra f) f s (fun a b => sraW f.t1.toNat a (b % 256))

/-! ### Compare, select, broadcast (R154 to R156) -/

/-- A predicate from the positions at which it is set. -/
def predOf (es : List Nat) : PReg := BitVec.ofNat 2048 (es.foldl (fun m e => m + 2 ^ e) 0)

/-- ILLOP when a stage predicate is a destination (R24). -/
def State.predDest (s : State) (d : BitVec 8) : R Unit := legal s (!s.myCtx.isStage (num d))

def execVcmp (f : RegF) (s : State) : Out :=
  let t := f.t1.toNat
  let w := width t
  let a := s.vreg f.a
  let b := s.vreg f.b
  let cc := bits f.m 2 0
  let holds := fun e =>
    if isFloat t then condFloat cc (valueOf t (elem w a e) (bit f.m 9)) (valueOf t (elem w b e) (bit f.m 9))
    else condInt cc t (elem w a e) (elem w b e)
  issue (.vcmp f) s (do
    s.vWidth t false
    s.predDest f.d
    let u ← s.occupy false
    pure (u.pend (.p (num f.d) (predOf ((s.actives f.pr.toNat).filter holds))) none 4))

def execVsel (f : RegF) (s : State) : Out :=
  let w := width f.t1.toNat
  let p := s.myCtx.pred (num f.e)
  let a := s.vreg f.a
  let b := s.vreg f.b
  vMap (.vsel f) f s false false 4 (fun e => if bit p e then elem w a e else elem w b e)

def execVbcast (f : RegF) (s : State) : Out :=
  vMap (.vbcast f) f s true false 4 (fun _ => lowW f.t1.toNat (s.reg f.a))
def execVrowb (f : RegF) (s : State) : Out :=
  let w := width f.t1.toNat
  vMap (.vrowb f) f s false false 4 (fun e => elem w (s.vreg f.a) (e / s.shapeC * s.shapeC))
def execVcolb (f : RegF) (s : State) : Out :=
  let w := width f.t1.toNat
  vMap (.vcolb f) f s false false 4 (fun e => elem w (s.vreg f.a) (e % s.shapeC))

/-! ### Reductions (R157) -/

/-- The sum of the selected elements at a coordinate: exact for integers, in fixed order through f32 otherwise. -/
def vSum (s : State) (f : RegF) (cs : List Nat) (pos : Nat) : Nat :=
  let t := f.t1.toNat
  if isFloat t then
    let fl0 := bit f.m 8
    let v := cs.map (fun c => valueOf t c (bit f.m 9))
    let sum := match v with
      | [] => FVal.fin false 0 0
      | x :: xs => xs.foldl (fun a b => f32Step fl0 (FVal.add a b false)) x
    roundV t (s.rnd f.m pos) sum
  else intFit t (bit f.m 7) ((cs.map (intVal t)).sum)

/-- The greatest of the selected elements (R157). -/
def vGreatest (f : RegF) (cs : List Nat) : Nat :=
  let t := f.t1.toNat
  if isFloat t then
    roundV t { fl0 := bit f.m 8 } ((cs.map (fun c => valueOf t c (bit f.m 9))).foldl (FVal.minMax true) (.inf true))
  else intFit t false ((cs.map (intVal t)).foldl max (intRange t).1)

/-- A reduction of rows, or of columns, to the first of each (R157). -/
def vReduce (i : Instr) (f : RegF) (s : State) (byRow : Bool) (g : List Nat → Nat → Nat) : Out :=
  let t := f.t1.toNat
  let w := width t
  let p := s.myCtx.pred f.pr.toNat
  let a := s.vreg f.a
  let r := s.shapeR
  let c := s.shapeC
  let spots := if byRow then (List.range r).map (· * c) else List.range c
  let line := fun d => if byRow then (List.range c).map (d + ·) else (List.range r).map (fun k => k * c + d)
  issue i s (do
    s.vWidth t false
    let u ← s.occupy false
    pure (u.pend (vPut f.d w spots (fun d =>
      g (((line d).filter (fun e => bit p e)).map (elem w a)) d)) none 8))

def execVrsum (f : RegF) (s : State) : Out := vReduce (.vrsum f) f s true (vSum s f)
def execVcsum (f : RegF) (s : State) : Out := vReduce (.vcsum f) f s false (vSum s f)
def execVrmax (f : RegF) (s : State) : Out := vReduce (.vrmax f) f s true (fun cs _ => vGreatest f cs)
def execVcmax (f : RegF) (s : State) : Out := vReduce (.vcmax f) f s false (fun cs _ => vGreatest f cs)

/-! ### Data movement (R158 to R162) -/

def execVtrans (f : RegF) (s : State) : Out :=
  let w := width f.t1.toNat
  let r := s.shapeR
  let c := s.shapeC
  let a := s.vreg f.a
  issue (.vtrans f) s (do
    s.vWidth f.t1.toNat false
    legal s (c <= 32)
    let u ← s.occupy false
    pure (u.pend (vPut f.d w (List.range s.shapeN) (fun x => elem w a (x % r * c + x / r))) none 8))

def execVshuf (f : RegF) (s : State) : Out :=
  let w := width f.t1.toNat
  let a := s.vreg f.a
  let b := s.vreg f.b
  issue (.vshuf f) s (do
    s.vWidth f.t1.toNat false
    legal s (s.shapeN <= 1024)
    let u ← s.occupy false
    pure (u.pend (vPut f.d w (s.actives f.pr.toNat) (fun e =>
      let x := elem 16 b e
      if x < s.shapeN then elem w a x else 0)) none 8))

def execViota (f : RegF) (s : State) : Out :=
  let c := s.shapeC
  vMap (.viota f) f s false false 4 (fun e =>
    (match bits f.m 1 0 with | 0 => e | 1 => e / c | _ => e % c) % 2 ^ width f.t1.toNat)

def execVmovs (f : RegF) (s : State) : Out :=
  let t := f.t1.toNat
  let n := (s.reg f.b).toNat
  issue (.vmovs f) s (do
    s.vWidth t false
    let u ← s.occupy false
    pure (u.yResult f.d (if n < s.shapeN then extT t (elem (width t) (s.vreg f.a) n) else 0) 4))

def execVins (f : RegF) (s : State) : Out :=
  let t := f.t1.toNat
  let n := (s.reg f.b).toNat
  issue (.vins f) s (do
    s.vWidth t false
    let u ← s.occupy false
    pure (u.pend (vPut f.d (width t) (if n < s.shapeN then [n] else []) (fun _ => lowW t (s.reg f.a))) none 4))

/-- R162. -/
def execVshape (f : ImmF) (s : State) : Out :=
  let v : Word := f.imm.setWidth 64
  issue (.vshape f) s (do
    legal s (vsOk v)
    pure (s.pend (.vshape v) none 1))

/-! ### Transcendentals (R163) -/

def vReal (i : Instr) (f : RegF) (s : State) (g : FVal → RVal) : Out :=
  let t := f.t1.toNat
  let a := s.vreg f.a
  vMap i f s true true 8 (fun q => roundTo t (s.rnd f.m q) (g (valueOf t (elem (width t) a q) (bit f.m 9))))

def execVexp2 (f : RegF) (s : State) : Out := vReal (.vexp2 f) f s FVal.exp2
def execVlog2 (f : RegF) (s : State) : Out := vReal (.vlog2 f) f s FVal.log2
def execVrcp (f : RegF) (s : State) : Out := vReal (.vrcp f) f s FVal.rcp
def execVrsq (f : RegF) (s : State) : Out := vReal (.vrsq f) f s FVal.rsq

/-! ### Predicates (R164) -/

def pForm (i : Instr) (d : BitVec 8) (s : State) (v : PReg) : Out :=
  issue i s (do
    s.predDest d
    pure (s.pend (.p (num d) v) none 1))

def execPand (f : RegF) (s : State) : Out :=
  pForm (.pand f) f.d s (s.myCtx.pred (num f.a) &&& s.myCtx.pred (num f.b))
def execPor (f : RegF) (s : State) : Out :=
  pForm (.por f) f.d s (s.myCtx.pred (num f.a) ||| s.myCtx.pred (num f.b))
def execPxor (f : RegF) (s : State) : Out :=
  pForm (.pxor f) f.d s (s.myCtx.pred (num f.a) ^^^ s.myCtx.pred (num f.b))
def execPandn (f : RegF) (s : State) : Out :=
  pForm (.pandn f) f.d s (s.myCtx.pred (num f.a) &&& ~~~ s.myCtx.pred (num f.b))
def execPnot (f : RegF) (s : State) : Out := pForm (.pnot f) f.d s (~~~ s.myCtx.pred (num f.a))
def execPset (f : ImmF) (s : State) : Out :=
  pForm (.pset f) f.d s (BitVec.ofNat 2048 (2 ^ min f.imm.toNat 2048 - 1))
def execPcnt (f : RegF) (s : State) : Out :=
  issue (.pcnt f) s (.ok (s.yResult f.d (BitVec.ofNat 64 (s.actives (num f.a)).length) 4))

/-! ### Conditional streams (R165 to R169) -/

def Tile.lane (t : Tile) (w l : Nat) : List (BitVec 32) := SMap.get [] t.sbs (w * 128 + l)
def Tile.setLane (t : Tile) (w l : Nat) (x : List (BitVec 32)) : Tile :=
  { t with sbs := SMap.set [] t.sbs (w * 128 + l) x }

def execCspush (f : RegF) (s : State) : Out :=
  let w := num f.d
  let a := s.vreg f.a
  issue (.cspush f) s (do
    s.vWidth f.t1.toNat false
    let u ← s.occupy false
    let t := (s.actives f.pr.toNat).foldl (fun (t : Tile) e =>
      t.setLane w (e % 128) (t.lane w (e % 128) ++ [BitVec.ofNat 32 (elem 32 a e)])) u.myTile
    if (List.range 128).any (fun l => 16 < (t.lane w l).length) then trap s cSTREAM_FULL
    else pure (u.setMyTile t))

def execCspop (f : RegF) (s : State) : Out :=
  let w := num f.a
  issue (.cspop f) s (do
    s.vWidth f.t1.toNat false
    let u ← s.occupy false
    let es := s.actives f.pr.toNat
    let r := es.foldl (fun (acc : Tile × List (Nat × Nat)) e =>
      match acc.1.lane w (e % 128) with
      | [] => (acc.1, acc.2 ++ [(e, 0)])
      | x :: xs => (acc.1.setLane w (e % 128) xs, acc.2 ++ [(e, x.toNat)])) (u.myTile, [])
    pure ((u.setMyTile r.1).pend (vPut f.d 32 es (fun e => SMap.get 0 r.2 e)) none 4))

/-- The records of a buffer in canonical order (R165): by depth, then by lane. -/
def Tile.records (t : Tile) (w : Nat) : List (BitVec 32) :=
  (List.range 16).flatMap fun d => (List.range 128).filterMap fun l => (t.lane w l)[d]?

/-- Place records one after another over the lanes (R168). -/
def placeRecords (t : Tile) (w : Nat) : List (BitVec 32) → Nat → Tile
  | [], _ => t
  | x :: xs, q => placeRecords (t.setLane w (q % 128) (t.lane w (q % 128) ++ [x])) w xs (q + 1)

def execCsbal (f : RegF) (s : State) : Out :=
  let w := num f.a
  issue (.csbal f) s (do
    let u ← s.occupy false
    let t := u.myTile
    let empty := (List.range 128).foldl (fun (t : Tile) l => t.setLane w l []) t
    pure (u.setMyTile (if bit f.m 0 then empty else placeRecords empty w (t.records w) 0)))

/-! ### Four-way dot product (R170) -/

def execVdot4 (f : RegF) (s : State) : Out :=
  let a := s.vreg f.a
  let b := s.vreg f.b
  let e := s.vreg f.e
  let byte := fun (n : Bool) (v q : Nat) => if n then (elem 8 v q : Int) else sint (elem 8 v q) 8
  vMap (.vdot4 f) f s false false 4 (fun q =>
    intFit 4 (bit f.m 7) (sint (elem 32 e q) 32 +
      ((List.range 4).map (fun k => byte (bit f.m 0) a (4 * q + k) * byte (bit f.m 1) b (4 * q + k))).sum))

end Sys2Proof.Machine
end

