-- ==== Sys2Proof/Machine/Regs.lean ====
section
/-! DEFINITION. The control registers as `GETC` and `SETC` reach them (R8, R9, R25, R247), and the clearing of engine fault
records (R270, R271). -/

namespace Sys2Proof.Machine

/-! ### Values that registers show -/

/-- QSTAT (R26). -/
def Ctx.qstat (c : Ctx) : Word :=
  BitVec.ofNat 64 ((List.range 6).map (fun q => (c.queue q).taken * 2 ^ (5 * q))).sum

/-- CTXID (R25). -/
def Issuer.ctxid (i : Issuer) : Word :=
  BitVec.ofNat 64 (b2n i.exe + i.ctx * 2 + i.tile * 2 ^ 4 + i.peer % 8 * 2 ^ 9 + i.peer / 8 * 2 ^ 12)

/-- A steer register (R18). -/
def Steer.word (j : Steer) : Word := BitVec.ofNat 64 (b2n j.tvalid * 2 ^ 63 + b2n j.cond * 2 ^ 62 + j.target.toNat)

/-- ESTAT of a stream of a context (R268). -/
def Ctx.estat (c : Ctx) (exe : Bool) : Word :=
  let x := c.stream exe
  let loads := b2n c.acc.snapLoad.isSome + b2n c.exe.snapLoad.isSome
  BitVec.ofNat 64 (b2n x.tmode + b2n (c.stream (!exe)).tmode * 2 + (c.snapshot.length + loads) * 4 + b2n x.dfr * 2 ^ 9)

/-- CST (R28). -/
def Counter.status (c : Counter) : Word :=
  BitVec.ofNat 64 (b2n c.err + c.rights.toNat * 2 ^ 16 + c.pending.toNat * 2 ^ 32)

/-- SBST of a conditional-stream buffer (R165). -/
def Tile.sbst (t : Tile) (w : Nat) : Word :=
  let ls := (List.range 128).map (fun l => (t.lane w l).length)
  BitVec.ofNat 64 (ls.sum + ls.foldl max 0 * 2 ^ 16 + ls.foldl min 16 * 2 ^ 21)

/-- MSTEP of an engine (R36): 0 to 3 the halves, 4 and 5 the pipes, 6 the copy engine. -/
def Tile.mstep (t : Tile) (e : Nat) : Word :=
  if e == 4 || e == 5 then
    let k : Pipe := SMap.get {} t.pipes (e - 4)
    BitVec.ofNat 64 (if k.left == 0 then 0 else k.mstep)
  else
    let q := if e == 6 then 4 else e
    match t.cmds.find? (fun c => c.st == .running && c.queues.contains q) with
    | some c => BitVec.ofNat 64 c.prog
    | none => 0

/-- FREC (R270). -/
def FRec.word (r : FRec) : Word :=
  BitVec.ofNat 64 (b2n r.valid * 2 ^ 63 + b2n r.more * 2 ^ 62 + r.cause.toNat * 2 ^ 48 + r.op.toNat * 2 ^ 40 +
    r.ctr.toNat * 2 ^ 32 + r.ctx.toNat * 2 ^ 29 + b2n r.remote * 2 ^ 28 + r.mstep.toNat)

/-- A write of FREC (R271): clearing valid clears the record. -/
def FRec.clear (r : FRec) (v : Word) : FRec := if bit v 63 then {} else if bit v 62 then { r with more := false } else r

/-- The record of an engine as a context of the tile reads it (R270): of a half that its partition does not own, nothing. -/
def State.frec (s : State) (q : Nat) : FRec := if q == 4 || s.site.owns q then SMap.get {} s.myTile.frec q else {}
def Tile.clearFrec (t : Tile) (q : Nat) (v : Word) : Tile :=
  { t with frec := SMap.set {} t.frec q ((SMap.get {} t.frec q : FRec).clear v) }
def State.writeFrec (s : State) (q : Nat) (v : Word) : State :=
  if s.site.owns q then s.setMyTile (s.myTile.clearFrec q v) else s

/-- One write of a per-tile register: `CST` clears err, `FREC` clears what it names (R28, R271). -/
def Tile.applySet (t : Tile) (w : Nat × Word) : Tile :=
  if w.1 < 0x180 then
    let k := t.counter (w.1 - 0x140)
    t.setCounter (w.1 - 0x140) { k with err := k.err && !bit w.2 0 }
  else t.clearFrec ((w.1 - 0x1C8) / 2) w.2
/-- The cycle's writes of per-tile registers take effect, seen from the next cycle (R247). -/
def Tile.applySets (t : Tile) : Tile := { t.setcs.foldl Tile.applySet t with setcs := [] }
/-- A `SETC` of a per-tile register (R247). -/
def State.setLater (s : State) (n : Nat) (v : Word) : State :=
  s.setMyTile { s.myTile with setcs := s.myTile.setcs ++ [(n, v)] }

/-- R271: a `SETC` of ones clears record k of the issuing tile. -/
def execFrecClear (k : Nat) (s : State) : Out :=
  if !s.powered then .fault .unpowered
  else if k < 5 then finish s (.ok (s.writeFrec k (BitVec.ofNat 64 (2 ^ 63)))) else .next s

/-- A forwarding pair (R338): 0 where its slot is another partition's. -/
def State.fwdPair (s : State) (n : Nat) (second : Bool) : Word :=
  let d := s.myDie
  let p := s.iss.peer
  let f : Fwd := SMap.get {} d.fwd n
  let vf := (d.slot f.slot).vf
  if !f.busy || s.cfg.partOf p vf != s.myCtx.part then 0
  else
    -- bases count from the arena in which the slab lies (R335)
    let own := (((d.slot f.slot).slabs.find f.slab).map (·.vf)).getD vf
    let rel := fun (a : Nat) => (a - (s.cfg.kvArena p own f.tier).1) / 4096 * 4096
    BitVec.ofNat 64 (if second then f.slot * 2 ^ 47 + rel f.new else 2 ^ 63 + rel f.old + f.tier * 2 ^ 10 + f.slab)

/-- KVU of a VF (R339). -/
def Die.kvu (d : Die) (tier vf : Nat) : Word :=
  BitVec.ofNat 64 (d.inuse tier vf + (d.inuse tier vf - d.guar tier vf) * 2 ^ 24)

/-- RCLM (R341): the open claim of the lower tier whose lender is a VF of the partition. -/
def State.rclm (s : State) : Word :=
  let d := s.myDie
  let p := s.iss.peer
  let open_ := fun (tier : Nat) => match d.claimsOf tier with
    | k :: _ => match k.lender with
      | some v => if !k.met && s.cfg.partOf p v == s.myCtx.part then
          some (BitVec.ofNat 64 (2 ^ 63 + tier * 2 ^ 40 + (k.pages - d.freePages s.cfg p tier) * 2 ^ 16 + vfNumber p v)) else none
      | none => none
    | [] => none
  match open_ 0 with
  | some w => w
  | none => (open_ 1).getD 0

/-- NVQC of a queue pair (R346). -/
def State.nvqc (s : State) (n : Nat) : Word :=
  let p := s.iss.peer
  let owner := s.cfg.pairOwner p n
  if owner != p % 8 * 4 + s.myCtx.part then 0
  else BitVec.ofNat 64 (b2n (s.pairReady p) * 2 ^ 63 + owner * 2 ^ 16 + (s.cfg.pairDepth p n - 1))

/-! ### GETC and SETC (R247) -/

/-- The value of a control register, as it stood before the bundle (R83, R247), and the state after it has been read. -/
def getcM (n : Nat) (s : State) : R (Word × State) :=
  let t := s.iss.was.getD s.myTile
  let c := t.ctx s.iss.ctx
  let x := c.stream s.iss.exe
  let d := s.myDie
  let p := s.iss.peer
  let pt := d.part c.part
  let ret := fun (v : Word) => (Except.ok (v, s) : R (Word × State))
  if n == 0x010 then (if s.iss.exe then ret c.vshape else trap s cILLOP)
  else if n == 0x011 then (if s.iss.exe then ret c.lctl else trap s cILLOP)
  else if n == 0x012 then ret (s.rpi.setWidth 64)
  else if n == 0x013 then ret c.waitto
  else if n == 0x014 then ret s.iss.ctxid
  else if n == 0x015 then ret c.srseed
  else if n == 0x016 then ret (x.salt.setWidth 64)
  else if n == 0x017 then ret c.lparam
  else if n == 0x018 then ret c.qstat
  else if n == 0x019 then ret c.sbind
  else if n == 0x01B then sqinM s
  else if n == 0x01C then ret 0
  else if 0x020 <= n && n <= 0x02B then ret (SMap.get {} x.j (n - 0x020) : Steer).word
  else if n == 0x030 then ret x.tvec
  else if n == 0x031 then ret x.epc
  else if n == 0x032 then ret x.ecause
  else if n == 0x033 then ret x.eaddr
  else if n == 0x034 then ret (c.estat s.iss.exe)
  else if 0x100 <= n && n <= 0x13F then ret ((t.counter (n - 0x100)).val.setWidth 64)
  else if 0x140 <= n && n <= 0x17F then ret (t.counter (n - 0x140)).status
  else if 0x180 <= n && n <= 0x187 then ret (t.sbst (n - 0x180))
  else if 0x1C0 <= n && n <= 0x1C6 then ret (t.mstep (n - 0x1C0))
  else if 0x1C8 <= n && n <= 0x1D1 then
    let r := s.frec ((n - 0x1C8) / 2)
    ret (if n % 2 == 0 then r.word else r.addr)
  else if 0x200 <= n && n <= 0x2FF then
    let b := t.buffer (n - 0x200)
    ret (if b.valid then b.version.setWidth 64 else 0)
  else if 0x300 <= n && n <= 0x31F then ret (s.fwdPair ((n - 0x300) / 2) (n % 2 == 1))
  else if n == 0x320 then ret 0
  else if n == 0x321 then ret c.smarg
  else if n == 0x322 then ret c.smres
  else if n == 0x324 then ret (SMap.get 0 d.kvq (c.vf * 2))
  else if n == 0x325 then ret (d.kvu 0 c.vf)
  else if n == 0x326 then ret (BitVec.ofNat 64 ((SMap.get (0 : Word) d.kvq (c.vf * 2 + 1)).toNat % 2 ^ 48))
  else if n == 0x327 then ret (d.kvu 1 c.vf)
  else if n == 0x328 then ret s.rclm
  else if n == 0x329 then ret (SMap.get 0 d.swb c.vf)
  else if n == 0x32A then ret (SMap.get 0 d.swn c.vf)
  else if 0x340 <= n && n <= 0x37F then ret (SMap.get 0 d.rules (n - 0x340))
  else if 0x380 <= n && n <= 0x3BF then ret (s.nvqc (n - 0x380))
  else if n == 0x3C0 then ret (SMap.get 0 d.vfroot c.vf)
  else if n == 0x3C1 then ret (SMap.get 0 d.migpool c.vf)
  else if n == 0x3D0 then ret 0
  else if n == 0x3D1 then ret c.mgarg
  else if n == 0x3D2 then ret c.mgres
  else if n == 0x3D4 then ret (BitVec.ofNat 64 pt.nrxHead)
  else if n == 0x3D5 then ret (BitVec.ofNat 64 pt.nrxTail)
  else if n == 0x3D8 then ret (BitVec.ofNat 64 (pt.lostN.toNat + pt.lostPeer.toNat * 2 ^ 32))
  else if n == 0x3E0 then ret (s.dtstat p c.part)
  else if n == 0x3E1 then ret 0
  else if n == 0x3F0 then ret (t.chaffs.setWidth 64)
  else if n == 0x3F1 then ret (t.chaffc.setWidth 64)
  else if n == 0x3F2 then ret (t.chafft.setWidth 64)
  else if n == 0x400 then ret (s.railst p)
  else if n == 0x401 then ret c.curst
  else if 0x410 <= n && n <= 0x41F then ret (d.zonest (n - 0x410))
  else if n == 0x420 then ret d.power.coolst
  else trap s cILLOP

/-- Whether SETC may give LCTL a value (R23). -/
def lctlOk (v : Word) : Bool := lctlSc v <= 4 && (lctlSc v == 0 || lctlWarm v <= lctlSc v - 1)

/-- A write of a control register. -/
def setcM (n : Nat) (v : Word) (s : State) : R State :=
  let c := s.myCtx
  let x := s.me
  if n == 0x010 then do
    legal s (s.iss.exe && vsOk v)
    pure (s.pend (.vshape (BitVec.ofNat 64 (bits v 13 0))) none 1)
  else if n == 0x011 then do
    legal s (s.iss.exe && lctlOk v)
    pure (s.pend (.lctl (mkLctl (lctlLeft v) (lctlVoid v) (lctlSc v) (lctlWarm v) (bits v 1 0))) none 1)
  else if n == 0x013 then pure (s.setMyCtx { c with waitto := v })
  else if n == 0x016 then pure (s.setMe { x with salt := v.setWidth 32 })
  else if n == 0x01B then pure s
  else if n == 0x01C then sqoutM v s
  else if n == 0x030 then do
    legal s (!bit v 0 && bits v 63 57 == 0)
    pure (s.setMe { x with tvec := v })
  else if n == 0x031 then do
    legal s (!bit v 0 && bits v 63 57 == 0)
    pure (s.setMe { x with epc := v })
  else if 0x140 <= n && n <= 0x17F then pure (s.setLater n v)
  else if 0x1C8 <= n && n <= 0x1D1 then
    pure (if n % 2 == 0 && s.site.owns ((n - 0x1C8) / 2) then s.setLater n v else s)
  else if n == 0x320 then smM v s
  else if n == 0x321 then pure (s.setMyCtx { c with smarg := v })
  else if n == 0x3D0 then mgM v s
  else if n == 0x3D1 then pure (s.setMyCtx { c with mgarg := v })
  else if n == 0x3D4 then nrxheadM v s
  else if n == 0x3E1 then stbindM v s
  -- a read-only register ignores the write, and an index in no table is illegal
  else match getcM n s with
    | .ok _ => pure s
    | .error (.trap k a b u) => .error (.trap k a b u)
    | .error _ => pure s

def execGetc (f : ImmF) (s : State) : Out :=
  issue (.getc f) s (do
    let (v, s) ← getcM f.imm.toNat s
    pure (s.yResult f.d v 1))

def execSetc (f : ImmF) (s : State) : Out := issue (.setc f) s (setcM f.imm.toNat (s.reg f.a) s)

end Sys2Proof.Machine
end

