-- ==== Sys2Proof/Machine/Station.lean ====
section
/-! DEFINITION. The stations of the fabric (R361, R363 to R371): injection and arrival, remote accesses at their homes, nacks and
time-outs; and what arrives for a tile: handler messages (R237, R259, R260), `ENQR` entries (R232) and sync requests
(R137). -/

namespace Sys2Proof.Machine

/-! ### Injection and arrival (R363, R364, R366, R367) -/

/-- A ring direction as a number. -/
def Hop.dir (h : Hop) : Nat := b2n h.rack * 2 + b2n h.ccw
/-- The ring direction in which a slot leaves its source (R361). -/
def State.dirOf (s : State) (k : Packet) : Nat := match (route s.packages k.src k.dst).head? with | some h => h.dir | none => 0

/-- The slots that wait at a station, of a tier, for a ring direction. -/
def State.waiting (s : State) (p tier dir : Nat) : List Packet :=
  s.net.filter (fun k => !k.injected && k.src == p && k.tier == tier && s.dirOf k == dir)

/-- Replace a packet. -/
def State.modPacket (s : State) (k : Packet) (f : Packet → Packet) : State := { s with net := s.net.replace k (f k) }

/-- Inject a tier's oldest slot onto a ring, with its route before it, and count what the lower tiers wait. -/
def State.injectTier (s : State) (p tier dir : Nat) : State :=
  match s.waiting p tier dir with
  | [] => s
  | k :: _ =>
    let count := fun (t : Nat) (m : SMap Nat) =>
      SMap.set 0 m dir (if t == tier then 0 else if (s.waiting p t dir).isEmpty then SMap.get 0 m dir else SMap.get 0 m dir + 1)
    (s.modPacket k (fun k => { k with injected := true, hops := route s.packages k.src k.dst })).modDie p fun d =>
      { d with starve1 := count 1 d.starve1, starve2 := count 2 d.starve2 }

/-- The tier that takes the next empty position of a ring direction (R367). -/
def State.nextTier (s : State) (p dir : Nat) : Option Nat :=
  let d := s.die p
  let waits := fun t => !(s.waiting p t dir).isEmpty
  if 64 <= SMap.get 0 d.starve1 dir && waits 1 then some 1
  else if 256 <= SMap.get 0 d.starve2 dir && waits 2 then some 2
  else [0, 1, 2].find? waits

/-- The next slot that a station injects, as tier and ring direction. -/
def State.nextInjection (s : State) (p : Nat) : Option (Nat × Nat) :=
  (List.range 4).findSome? (fun dir => (s.nextTier p dir).map (fun t => (t, dir)))

def execSlotInjection (p : Nat) (s : State) : Out :=
  event s (match s.nextInjection p with | some (t, dir) => s.injectTier p t dir | none => s)

/-- R367: a tier whose counter has reached its limit injects. -/
def execStarvationLimit (p tier : Nat) (s : State) : Out :=
  let d := s.die p
  let due := fun (dir : Nat) => (tier == 1 && 64 <= SMap.get 0 d.starve1 dir) || (tier == 2 && 256 <= SMap.get 0 d.starve2 dir)
  event s (match (List.range 4).find? due with | some dir => s.injectTier p tier dir | none => s)

/-- Whether a station lets a slot pass: its kind is listed, its zero fields are zero, and its partition is in the table (R363,
R368). -/
def Packet.known (k : Packet) : Bool := k.kind != 0 && k.kind <= 0x12 && k.zero && k.part < 2048

/-- A slot crosses a hop of its route (R361): the station that it reaches checks it (R368), and a rack link that is down loses
it (R446). -/
def slotHop (k : Packet) (s : State) : Out :=
  event s (match k.hops with
    | [] => s
    | h :: l =>
      if s.hopDown h then s.consume k
      else if !k.known then (s.consume k).modDie h.to_ fun d => { d with chfd := bump d.chfd }
      else s.modPacket k (fun k => { k with hops := l }))

/-- The circuit of its ring that a refused slot travels (R364): its route stays the same. -/
def State.circuit (s : State) (k : Packet) : List Hop :=
  match (route s.packages k.src k.dst).getLast? with
  | none => []
  | some h =>
    let (n, a, at_) := if h.rack then (s.packages, k.dst / 8, fun i => i * 8 + k.dst % 8) else (8, k.dst % 8, fun i => k.dst / 8 * 8 + i)
    (List.range n).map (fun i => { h with to_ := at_ ((if h.ccw then a + n - (i + 1) else a + i + 1) % n) })

/-- The oldest slot that has come to a station. -/
def State.arriving (s : State) (p : Nat) : Option Packet :=
  s.net.find? (fun k => k.injected && !k.taken && k.hops.isEmpty && k.dst == p && !s.gone k.src k.dst)

/-- Put a slot that its station takes behind those that it has taken; out of the reserve buffer slots leave ahead of the input
buffer's, in the order in which they were booked (R364). -/
def putTaken (k : Packet) : List Packet → List Packet
  | [] => [k]
  | x :: l =>
    let behind := x.taken && x.dst == k.dst && (match k.reserved, x.reserved with
      | true, false => true
      | true, true => k.booked.getD 0 < x.booked.getD 0
      | false, _ => false)
    if behind then k :: x :: l else x :: putTaken k l

/-- R363, R364: a slot of no listed kind or partition is dropped; a full input buffer refuses a slot once, and books it an entry of
the reserve buffer, which takes it where the input buffer is still full. -/
def execSlotArrival (p : Nat) (full : Bool) (s : State) : Out :=
  event s (match s.arriving p with
    | none => s
    | some k =>
      if !k.known then (s.consume k).modDie p fun d => { d with chfd := bump d.chfd }
      else if full && !k.circ then
        (s.modPacket k (fun k => { k with circ := true, booked := some (s.die p).bookings, hops := s.circuit k })).modDie p fun d =>
          { d with bookings := d.bookings + 1 }
      else { s with net := putTaken { k with taken := true, reserved := full } (s.net.erase k) })

/-- R362. -/
def execFlitResend (p : Nat) (s : State) : Out := event s (s.modDie p fun d => { d with chfl := bump d.chfl })

/-! ### Remote accesses at the home (R368, R369) -/

/-- Whether the home lets a request through: the frame's arena and realm, its key slot, no teardown (R352, R368, R451). -/
def State.served (s : State) (k : Packet) : Bool :=
  let frame := k.addr / 4096
  (match s.cfg.vfOfFrame k.dst frame with
   | none => false
   | some v => s.cfg.tenantOf k.dst v == k.tenant && s.cfg.realmOf k.dst (s.cfg.partOf k.dst v) == s.cfg.realmOfId k.part) &&
    !s.tornFrame k.dst frame && SMap.get none (s.die k.dst).keys k.key == some k.tenant

/-- The answer to a request, without data: it goes back to the stream that asked. -/
def Packet.reply (k : Packet) (kind : Nat) : Packet :=
  { kind := kind, src := k.dst, dst := k.src, tile := k.srcTile, srcCtx := k.srcCtx, srcExe := k.srcExe, tag := k.tag, part := k.part }
def Packet.refuse (k : Packet) (reason : Nat) : Packet := { k.reply 0x07 with reason := reason, args := k.kind :: k.args }

/-- R369: a read at its home; the response carries the cause that its data gives, if any. -/
def execReadRequest (p : Nat) (s : State) : Out :=
  event s (match s.taken p 0x01 (fun _ => true) with
    | none => s
    | some k =>
      let s := s.consume k
      if !s.served k then s.send (k.refuse 2)
      else s.send { k.reply 0x02 with bytes := leBytes k.size (s.readLoc p k.loc k.size), poison := s.badLoc p k.loc k.size })

/-- R369, R389: a write at its home, once its frame is not held. -/
def execWrite (p : Nat) (s : State) : Out :=
  event s (match s.taken p 0x03 (fun k => !s.heldLoc k.loc) with
    | none => s
    | some k =>
      let s := s.consume k
      if !s.served k then s.send (k.refuse 2)
      else (s.writeLoc p k.loc k.bytes false).send (k.reply 0x04))

/-- R133: an atomic at its home; bad data makes it fail without a write (R129). -/
def execAtomic (p : Nat) (s : State) : Out :=
  event s (match s.taken p 0x05 (fun k => !s.heldLoc k.loc) with
    | none => s
    | some k =>
      let s := s.consume k
      if !s.served k then s.send (k.refuse 2)
      else
        let old := s.readLoc p k.loc k.size
        let bad := s.badLoc p k.loc k.size
        let s := match gopNew k.op k.ty old with
          | some v => if bad == 0 then s.writeLoc p k.loc (leBytes k.size v) false else s
          | none => s
        s.send { k.reply 0x06 with bytes := leBytes k.size old, poison := bad })

/-! ### Responses at the requester (R126, R127, R369, R370) -/

/-- A load or atomic's data, or the cause that it gives instead. -/
def Stream.answerLoad (x : Stream) (tag : Nat) (data : Option Nat) (cause : Nat) : Stream :=
  let fill := fun (g : Option GLoad) => g.map (fun g => if g.tag == some tag then { g with data := data, cause := cause } else g)
  { x with gload := fill x.gload, snapLoad := fill x.snapLoad }

/-- The entry of a queue load that waits for a tag: its value or mark. -/
def QEntry.answer (e : QEntry) (bq : Bool) (tag v : Nat) (bad : Bool) : QEntry :=
  match e.src with
  | .global peer addr ty (some t) =>
    if t == tag then
      { e with val := if bad then 0 else if bq then (if v == 0 then 0 else 1) else extT ty v, poison := bad,
               src := .global peer addr ty none }
    else e
  | _ => e

/-- The response to a request: data and cause. A context that has ended only notes that it has come (R359). -/
def State.respond (s : State) (p : Nat) (r : Req) (data : Option Nat) (cause : Nat) : State :=
  let s := s.dropReq p r.tag
  let y := s.stream p r.tile r.ctx r.exe
  let s := s.setStream p r.tile r.ctx r.exe { y with posted := y.posted.filter (·.1 != r.tag) }
  match r.queue with
  | some q => s.modCtx p r.tile r.ctx fun c =>
      c.setQueue q { c.queue q with entries := (c.queue q).entries.map (fun e => e.answer (q == 5) r.tag (data.getD 0) (cause != 0)) }
  | none => s.setStream p r.tile r.ctx r.exe ((s.stream p r.tile r.ctx r.exe).answerLoad r.tag data cause)

/-- The answer to a message or entry reaches its stream (R229). -/
def State.answerStream (s : State) (p t c : Nat) (exe : Bool) (a : Nat) : State :=
  let x := s.stream p t c exe
  s.setStream p t c exe { x with answer := some a, wait := x.wait.map (fun w => { w with ready := true }) }

/-- A posted write is acknowledged or lost (R369 to R371). -/
def State.posted (s : State) (p : Nat) (r : Req) (lost : Bool) : State :=
  let s := s.dropReq p r.tag
  let x := s.stream p r.tile r.ctx r.exe
  let s := s.setStream p r.tile r.ctx r.exe { x with posted := x.posted.filter (·.1 != r.tag) }
  if lost then
    s.modPart p (r.part % 4) fun y => { y with lostN := y.lostN + 1, lostPeer := BitVec.ofNat 9 r.dst }
  else s

/-- The request that a response answers. -/
def Die.reqOf (d : Die) (tag : Nat) : Option Req := d.reqs.find? (fun r => r.tag == tag)

def dataResponse (p kind : Nat) (s : State) : State :=
  match s.taken p kind (fun _ => true) with
  | none => s
  | some k =>
    let s := s.consume k
    match (s.die p).reqOf k.tag with
    | none => s
    | some r => s.respond p r (some (leNat k.bytes)) k.poison
def execReadResponse (p : Nat) (s : State) : Out := event s (dataResponse p 0x02 s)
def execAtomicResponse (p : Nat) (s : State) : Out := event s (dataResponse p 0x06 s)

/-- R369: a write's acknowledgement, or the answer to a handler message. -/
def execWriteAck (p : Nat) (s : State) : Out :=
  event s (match s.taken p 0x04 (fun _ => true) with
    | none => s
    | some k =>
      let s := s.consume k
      match (s.die p).reqOf k.tag with
      | none => s
      | some r =>
        if r.kind == 0x0F then (s.dropReq p r.tag).answerStream p r.tile r.ctx r.exe (k.arg 0)
        else s.posted p r false)

/-- A request that is refused or lost (R370). -/
def State.lose (s : State) (p : Nat) (r : Req) (reason : Nat) : State :=
  match r.kind with
  | 0x03 => s.posted p r true
  | 0x0D =>
    let n := r.queue.getD 0
    (s.dropReq p r.tag).pullNack p (n / 2 ^ 20) (n % 2 ^ 20) reason
  | 0x0F => (s.dropReq p r.tag).answerStream p r.tile r.ctx r.exe (if reason == 2 then cPERM_FAULT else cPEER_LOST)
  | 0x08 => (s.dropReq p r.tag).mcstAnswer p r.tile r.seq r.dst reason
  | 0x0C => (s.dropReq p r.tag).stubAnswer p r.tile r.seq 4
  -- a control-core access that its home refuses raises PERM_FAULT (R368), one that is lost has no data (R126, R370)
  | _ => s.respond p r none (if reason == 2 then cPERM_FAULT else cPOISONED)

/-- Whether a stream waits for a sync object. -/
def Stream.asksSync (x : Stream) : Bool :=
  match x.wait with | some w => (match w.kind with | .sync _ _ _ => !w.ready | _ => false) | none => false

/-- R368, R370: a nack reaches whoever asked. -/
def execNack (p : Nat) (s : State) : Out :=
  event s (match s.taken p 0x07 (fun _ => true) with
    | none => s
    | some k =>
      let s := s.consume k
      match k.arg 0 with
      | 0x0A => s.modCmd p k.tile k.tag (fun c => { c with aux := c.aux.set 1 3 })
      -- an object of another realm refuses a request for it (R368)
      | 0x10 => if k.reason == 2 && (s.stream p k.tile k.srcCtx k.srcExe).asksSync then
            s.takeTrap p k.tile k.srcCtx k.srcExe cPERM_FAULT 0 0 false false (s.stream p k.tile k.srcCtx k.srcExe).pc
          else s
      | _ => match (s.die p).reqOf k.tag with
        | none => s
        | some r => if r.kind == k.arg 0 then s.lose p r k.reason else s)

/-- Whether a message lies at its target, refused for now and offered again (R237), or a multicast line at a member whose frames
are held (R389). -/
def State.offered (s : State) (p : Nat) (r : Req) : Bool :=
  (r.kind == 0x0F || r.kind == 0x08) && s.net.any (fun k => k.kind == r.kind && k.src == p && k.tag == r.tag && k.taken)

/-- Whether what a lost message may still do happens is left open (R237): it goes on or is dropped by a free choice. -/
def State.maybeDrop (s : State) (p tag : Nat) : State :=
  if Config.freeBool s.free then { s with free := s.free + 1 }
  else { s with free := s.free + 1, net := s.net.filter (fun k => !(k.kind == 0x0F && k.src == p && k.tag == tag)) }

/-- R370: a request without a response for 100 µs. -/
def execRequestTimeout (p tag : Nat) (s : State) : Out :=
  event s (match (s.die p).reqOf tag with
    | none => s
    | some r =>
      if s.now < r.since + 100000 then s
      else if s.offered p r then
        s.modDie p fun d => { d with reqs := d.reqs.map (fun q => if q.tag == tag then { q with since := s.now } else q) }
      else if r.kind == 0x0F then (s.maybeDrop p tag).lose p r 4
      else s.lose p r 4)

/-! ### Handler messages at their target (R237, R259, R260) -/

/-- The cause for which a target tile turns a message away, or 0. -/
def State.messageCause (s : State) (p : Nat) (k : Packet) : Nat :=
  let tl := s.tile p k.tile
  match tl.bound with
  | none => cPERM_FAULT
  | some o =>
    if s.cfg.realmOf p ((s.die p).op o).part != s.cfg.realmOfId k.part then cPERM_FAULT
    else match tl.span k.addr k.size with | .ok _ => 0 | .error c => c

/-- R237, R260: the payload is written and the message waits for a dormant context, which it takes in this tile cycle if one is
left. -/
def execHandlerMessageReceive (p : Nat) (s : State) : Out :=
  event s (match s.taken p 0x0F (fun k => s.messageCause p k != 0 || (s.tile p k.tile).handlers.length < 16) with
    | none => s
    | some k =>
      let s := s.consume k
      let cause := s.messageCause p k
      -- a refusal for the partition is a nack (R368)
      if cause == cPERM_FAULT then s.send (k.refuse 2) else
      let answer := fun (s : State) => s.send { k.reply 0x04 with args := [cause] }
      if cause != 0 then answer s
      else
        let tl := s.tile p k.tile
        let at_ := match tl.resolve k.addr with | .ok a => a | .error _ => 0
        let tl := (List.range ((k.bytes.length + 127) / 128)).foldl (fun tl i =>
          tl.wr fabricRank (at_ + 128 * i) ((k.bytes.drop (128 * i)).take 128) 0 (k.poison.testBit i)) tl
        let c : Claim := { entry := BitVec.ofNat 57 (k.arg 0), x1 := BitVec.ofNat 64 k.addr, x2 := BitVec.ofNat 64 k.size,
                           x3 := BitVec.ofNat 64 k.src }
        answer (s.setTile p k.tile { tl with handlers := tl.handlers ++ [c] }))

/-! ### Entries from other tiles (R232) -/

/-- What the target does with an entry's word: a command for its queues, or a change of the tile. -/
inductive Taken where
  | cmd (c : Chk Cmd)
  | act (t : Chk Tile)

/-- The checks and the command of an entry's instruction (R192, R212). -/
def takeWord (i : Instr) (e : Site) (va vb ve : Word) : Taken :=
  match i with
  | .mnest f => .act (mnestTile f e va vb)
  | .mplane f => .act (mplaneTile f e)
  | .cnest f => .act (cnestTile f e va vb)
  | .ldstat f => .cmd (prepLdstat f e va vb ve)
  | .mma f => .cmd (prepMma f e va vb ve)
  | .attn f => .cmd (prepAttn f e va vb ve)
  | .aclr f => .cmd (prepAclr f e va vb ve)
  | .ard f => .cmd (prepArd f e va vb ve)
  | .awr f => .cmd (prepAwr f e va vb ve)
  | .ascl f => .cmd (prepAscl f e va vb ve)
  | .msmx f => .cmd (prepMsmx f e va vb ve)
  | .mgo f => .cmd (prepMgo f e va vb ve)
  | .cgo f => .cmd (prepCgo f e va vb ve)
  | .cpy f => .cmd (prepCpy f e va vb ve)
  | .gath f => .cmd (prepGath f e va vb ve)
  | .scat f => .cmd (prepScat f e va vb ve)
  | .decomp f => .cmd (prepDecomp f e va vb ve)
  | .slabmv f => .cmd (prepSlabmv f e va vb ve)
  | .dsend f => .cmd (prepDsend f e va vb ve)
  | .spull f => .cmd (prepSpull f e va vb ve)
  | .sdrop f => .cmd (prepSdrop f e va vb ve)
  | .sfwd f => .cmd (prepSfwd f e va vb ve)
  | .mcst f => .cmd (prepMcst f e va vb ve)
  | .fred f => .cmd (prepFred f e va vb ve)
  | .tierpf f => .cmd (prepTierpf f e va vb ve)
  | .nvrd f => .cmd (prepNvrd f e va vb ve)
  | .nvwr f => .cmd (prepNvwr f e va vb ve)
  | .netq f => .cmd (prepNetq f e va vb ve (e.cfg.sendQueue e.p))
  | _ => .cmd (chkLegal false >>= fun _ => .error (cILLOP, 0))

/-- The engines of an entry's word. -/
def Enqr.engines (e : Enqr) : List Nat := match enqrWord e.word with | some i => (enqrEngines i).getD [] | none => []

/-- The first entry whose queues have room, and that no earlier entry for one of them holds back. -/
def Tile.nextEntry (t : Tile) (held : List Nat) : List Enqr → Option Enqr
  | [] => none
  | e :: l =>
    let es := e.engines
    if es.any held.contains || es.any (fun q => queueCap q <= (t.queued q).length) then t.nextEntry (held ++ es) l else some e

/-- A command of an entry, with what it takes from its issuer. -/
def State.entryCmd (s : State) (p t : Nat) (e : Enqr) (i : Instr) (c : Cmd) : Cmd :=
  let o := (s.die e.peer).op e.op
  let matrix := (opcode i).1 == 4
  let n := if e.resv == 0 then (if matrix then o.dm else o.dc) else e.resv
  { c with ctx := e.ctx, exe := e.exe, remote := true, from_ := some (e.peer, e.tile, e.ctx), vf := e.vf, part := e.part, op := e.op,
           seed := e.seed, salt := e.salt, current := o.current n (if matrix then 0 else 1),
           map := (List.range 4).map (fun h => SMap.get false (s.tile p t).pmap h) }

/-- R232: the target accepts an entry; a failed check is recorded, and the command retires at once with err. -/
def execEnqrAccept (p t : Nat) (s : State) : Out :=
  let tl := s.tile p t
  event s (match tl.nextEntry [] tl.enqr with
    | none => s
    | some e => match enqrWord e.word with
      | none => s
      | some i =>
        let tl := { tl with enqr := tl.enqr.erase e }
        let site : Site := { cfg := s.cfg, peers := s.peers, p := p, t := t, tile := tl, part := e.part }
        let bad : Cmd := s.entryCmd p t e i
          { seq := tl.seq, i := i, va := e.va, vb := e.vb, ve := e.ve, ctr := BitVec.ofNat 8 (bits e.word 20 13), queues := e.engines }
        let fails := fun (c a : Nat) =>
          let x := (tl.enqueue bad).fault bad c (BitVec.ofNat 64 a)
          match x.cmd bad.seq with | some c => x.retire c | none => x
        let s := s.answerStream e.peer e.tile e.ctx e.exe 0
        match takeWord i site e.va e.vb e.ve with
        | .act (.ok x) => s.modTile p t fun y => { x with ctxs := y.ctxs }
        | .act (.error (c, a)) => s.modTile p t fun y => { fails c a with ctxs := y.ctxs }
        | .cmd (.error (c, a)) => s.modTile p t fun y => { fails c a with ctxs := y.ctxs }
        | .cmd (.ok c) => (s.modTile p t fun y => { tl.enqueue (s.entryCmd p t e i c) with ctxs := y.ctxs }).numbered p t)

/-! ### Sync requests (R137) -/

/-- A request reaches the object's home, which refuses one from another realm than the owner's (R368). -/
def execSyncRequest (p : Nat) (s : State) : Out :=
  event s (match s.taken p 0x10 (fun _ => true) with
    | none => s
    | some k =>
      let s := s.consume k
      let o : SyncObj := SMap.get {} (s.die p).sync (k.arg 0)
      if o.owner.any (fun w => s.cfg.realmOf w.1 w.2 != s.cfg.realmOfId k.part) then s.send (k.refuse 2)
      else s.setSync p (k.arg 0) { o with queue := o.queue ++ [⟨k.src, k.srcTile, k.srcCtx, k.arg 1 == 1⟩] })

/-- Whether the object can be granted to the request at the head of its queue. -/
def SyncObj.grants (o : SyncObj) : Bool :=
  match o.queue with
  | [] => false
  | h :: _ => if h.shared then o.holders.all (·.shared) && o.holders.length < 255 else o.holders.isEmpty

/-- R137: the oldest request is granted; the acquirer's copies go, and its stream goes on. -/
def execAcqGrant (p o : Nat) (s : State) : Out :=
  let x : SyncObj := SMap.get {} (s.die p).sync o
  event s (match x.queue with
    | [] => s
    | h :: q =>
      if !x.grants || s.flushHeld h.peer then s
      else
        let s := s.setSync p o { x with holders := x.holders ++ [h], queue := q }
        let s := s.flushCopies h.peer true
        let wake := fun (y : Stream) => { y with wait := y.wait.map (fun w =>
          match w.kind with | .sync home obj _ => if home == p && obj == o then { w with ready := true } else w | _ => w) }
        s.modCtx h.peer h.tile h.ctx fun c => { c with acc := wake c.acc, exe := wake c.exe })

end Sys2Proof.Machine
end

