-- ==== Sys2Proof/Machine/Events.lean ====
section
/-! DEFINITION. What happens by itself within a tile (R19, R114, R126, R127, R139, R140, R149, R187 to R190, R207 to R210,
R229, R230, R267, R414): results that become visible, queue entries, loads that arrive, waits that end, interrupts, and
commands that start, go on and retire. -/

namespace Sys2Proof.Machine

/-! ### Results (R17, R149, R174) -/

/-- Shift a result into the last-result file (R17): an S-slot result into L0 and L1, an L-slot result into L2 and L3. -/
def Stream.shift (x : Stream) (long : Bool) (v : Word) : Stream :=
  let lo := if long then 2 else 0
  { x with l := SMap.set 0 (SMap.set 0 x.l (lo + 1) (SMap.get 0 x.l lo)) lo v }

/-- Write a stream's own part of a result. -/
def Stream.land (x : Stream) (w : Write) : Stream :=
  match w with
  | .x r v => { x with x := SMap.set 0 x.x r v }
  | .k r bank v => if bank then { x with kt := SMap.set 0 x.kt r v } else { x with k := SMap.set 0 x.k r v }
  | .cond j c => { x with j := SMap.set {} x.j j { SMap.get {} x.j j with cond := c } }
  | .target j a => { x with j := SMap.set {} x.j j { SMap.get {} x.j j with target := a, tvalid := true } }
  | _ => x

/-- Write a context's part of a result: a vector result replaces exactly the bits that it computed. -/
def Ctx.land (c : Ctx) (exe : Bool) (w : Write) : Ctx :=
  match w with
  | .v r mask val =>
    let old := (SMap.get 0 c.v r).toNat
    { c with v := SMap.set 0 c.v r (BitVec.ofNat 16384 ((old ^^^ (old &&& mask)) ||| (val &&& mask))) }
  | .p r val => if r == 0 then c else { c with p := SMap.set 0 c.p r val }
  | .lctl w => { c with lctl := w }
  | .vshape w => { c with vshape := w }
  | w => c.setStream exe ((c.stream exe).land w)

/-- Land a result and the shift that goes with it; a waiting bundle of the stream reads its operands again (log 22). -/
def Ctx.settleWrite (c : Ctx) (e : Pending) : Ctx :=
  let c := (c.land e.exe e.w).lookAgain e.exe
  match e.shift with
  | none => c
  | some (long, v) => c.setStream e.exe ((c.stream e.exe).shift long v)

/-- Whether a result has reached its time. -/
def Pending.due (e : Pending) : Bool := e.left == 0

/-- Land every result that has reached its time, in the order of issue. -/
def Ctx.writeback (c : Ctx) : Ctx :=
  (c.inflight.filter (·.due)).foldl Ctx.settleWrite { c with inflight := c.inflight.filter (fun e => !e.due) }

def execResultWriteback (p t c : Nat) (s : State) : Out := event s (s.modCtx p t c Ctx.writeback)

/-! ### Queues (R19, R114, R127) -/

/-- R19, R415: an entry whose window has closed becomes present. -/
def execQueueEntryPresent (p t c q : Nat) (s : State) : Out :=
  event s (s.modCtx p t c fun x =>
    let u := x.queue q
    x.setQueue q { u with entries := u.entries.map (fun e => if e.age == 1 then { e with age := 0 } else e) })

/-- R19, R26: a pop's place becomes free. -/
def execQueuePlaceFreed (p t c q : Nat) (s : State) : Out :=
  event s (s.modCtx p t c fun x => let u := x.queue q; x.setQueue q { u with freeing := u.freeing.filter (· != 1) })

/-- Whether an entry of a queue load can be filled now. -/
def QEntry.fillable (t : Tile) (e : QEntry) : Bool :=
  match e.src with
  | .none => false
  | .scratch _ _ => (match e.spot t with | some a => (t.lineInfo (a / 128)).full | none => false)
  | .global _ _ _ tag => tag.isNone
  | .later .. => false
  | .touch _ _ => false

/-- Fill one entry of queue `q` (R127): from its line, or with the data that has arrived. -/
def QEntry.fill (t : Tile) (q : Nat) (e : QEntry) : QEntry × Tile :=
  if !e.fillable t then (e, t)
  else match e.src with
  | .scratch ea ty =>
    let a := (e.spot t).getD 0
    let (bad, t) := t.checkLine (a / 128)
    let t : Tile := if bits ea 31 30 == 0 then t else { t with usedBufs := bits ea 29 22 :: t.usedBufs }
    let v := t.rd a (sizeOf_ ty)
    ({ e with src := .none, poison := bad,
              val := if bad then 0 else if q == 5 then (if v == 0 then 0 else 1) else extT ty v }, t)
  | _ => ({ e with src := .none }, t)

/-- Fill what can be filled; recursion on the entries. -/
def fillEntries (t : Tile) (q : Nat) : List QEntry → List QEntry × Tile
  | [] => ([], t)
  | e :: l =>
    let (e, t) := e.fill t q
    let (l, t) := fillEntries t q l
    (e :: l, t)

/-- Whether an entry's global access has still to be made. -/
def QEntry.unmade (e : QEntry) : Bool := match e.src with | .later .. => true | .touch _ _ => true | _ => false

/-- The entry with a poison mark. -/
def QEntry.marked (e : QEntry) : QEntry := { e with src := .none, poison := true }

/-- Make an entry's access at a location, and fill the entry with data that is there. -/
def State.queueAccess (s : State) (p t c q : Nat) (e : QEntry) (l : Loc) (ty : Nat) : QEntry × State :=
  let n := sizeOf_ ty
  let filled := fun (v : Nat) (bad : Bool) =>
    { e with src := .none, poison := bad, val := if bad then 0 else if q == 5 then (if v == 0 then (0 : Word) else 1) else extT ty v }
  match l with
  | .window _ _ _ => (e.marked, s)
  | .copy peer addr =>
    if (s.stream p t c false).clash l n then ({ e with src := .later peer addr ty 0 true }, s)
    else (filled (s.readLoc p l n) (s.badLoc p l n != 0), s.touchLoc p l)
  | .mem peer _ addr key =>
    if (s.stream p t c false).clash l n then ({ e with src := .later peer addr ty key false }, s)
    else if l.remote p then
      let (tag, s) := s.request { s.headerOf p t c false 0x01 peer 0 with
        addr := addr, size := n, ty := ty, key := key, args := [q] } none
      ({ e with src := .global peer addr ty (some tag) }, s)
    else (filled (s.readLoc p l n) (s.badLoc p l n != 0), s.kvRead p e.addr.toNat (s.badLoc p l n))

/-- Make an entry's access where it can be made now: what a touch meets that can no longer be pulled, or has no translation
any more, fills the entry with a poison mark (R127, R387, R392). -/
def State.fillGlobal (s : State) (p t c q : Nat) (e : QEntry) : QEntry × State :=
  match e.src with
  | .later peer addr ty key cached => s.queueAccess p t c q e (if cached then .copy peer addr else .mem peer 1 addr key) ty
  | .touch ea ty =>
    let x := s.ctx p t c
    match translate s p t x.part x.vf ea.toNat .load with
    | (.ok l, s) => s.queueAccess p t c q e l ty
    | (.fault _, s) => (e.marked, s)
    | (.touch n k, s) => if (s.die p).tileLost n k then (e.marked, s) else (e, s.askPull p n k 0)
  | _ => (e, s)

def State.fillGlobals (s : State) (p t c q : Nat) : List QEntry → List QEntry × State
  | [] => ([], s)
  | e :: l =>
    let (e, s) := s.fillGlobal p t c q e
    let (l, s) := s.fillGlobals p t c q l
    (e :: l, s)

def execLdqEntryFill (p t c q : Nat) (s : State) : Out :=
  let (es, tl) := fillEntries (s.tile p t) q ((s.ctx p t c).queue q).entries
  let (es, u) := (s.setTile p t tl).fillGlobals p t c q es
  event s (u.modCtx p t c fun x => x.setQueue q { x.queue q with entries := es })

/-! ### Global loads (R126, R133) -/

/-- The register write of an access's old value. -/
def GLoad.write (g : GLoad) (exe : Bool) (v : Word) : Write :=
  let n := num g.dest
  match sel g.dest with
  | 0 => if n == 0 then .nothing else .x (physX exe g.bkb n) v
  | 1 => .k n (g.bank && 12 <= n) v
  | _ => .nothing

/-- The stream's access arrives: data is written and shifted, bad data leaves the deferred cause in place. -/
def Stream.arrive (x : Stream) (exe poisoned : Bool) : Stream :=
  match x.gload with
  | none => x
  | some g =>
    match g.data with
    | none => x
    | some v =>
      if g.cause != 0 then x
      else if poisoned then { x with gload := some { g with cause := cPOISONED } }
      else
        let w := gopOld g.op g.ty v
        (({ x with gload := none } : Stream).land (g.write exe w)).shift true w

/-- Whether an earlier L-slot result of the stream is still in flight. -/
def Ctx.longInFlight (c : Ctx) (exe : Bool) : Bool :=
  c.inflight.any (fun e => e.exe == exe && match e.shift with | some (true, _) => true | _ => false)

/-- Bad data of a KV slab that a load meets aborts the slab's slot (R412). -/
def State.arriveBad (s : State) (p : Nat) (x : Stream) (poisoned : Bool) : State :=
  match x.gload with
  | some g => if poisoned && g.data.isSome && g.cause == 0 then s.kvRead p g.ea.toNat cPOISONED else s
  | none => s

/-- R126: a stream's L-slot results write back in issue order, so that the data lands once every earlier one has. -/
def execGlobalLoadDataArrival (p t c : Nat) (x poisoned : Bool) (s : State) : Out :=
  event s (if (s.ctx p t c).longInFlight x then s
    else (s.arriveBad p (s.stream p t c x) poisoned).setStream p t c x ((s.stream p t c x).arrive x poisoned))

/-! ### Waits (R125, R128, R139, R140, R229, R230) -/

/-- Let a stream's wait end, if it is of this sort. -/
def Stream.wake (x : Stream) (ok : WaitKind → Bool) : Stream :=
  { x with wait := x.wait.map (fun w => if ok w.kind then { w with ready := true } else w) }
def State.wake (s : State) (p t c : Nat) (x : Bool) (ok : WaitKind → Bool) : State :=
  s.setStream p t c x ((s.stream p t c x).wake ok)

/-- Whether what a stream waits for within its tile has come. -/
def Tile.linesCome (t : Tile) (k : WaitKind) : Bool :=
  match k with | .lines ns => ns.all (fun n => (t.lineInfo n).full) | _ => false
def Tile.counterCome (t : Tile) (k : WaitKind) : Bool :=
  match k with | .counter c thr => !((t.counter c).val - thr).msb | _ => false
def Tile.versionCome (t : Tile) (k : WaitKind) : Bool :=
  match k with | .version b v => !((t.buffer b).version - v).msb | _ => false
def Tile.publishCome (t : Tile) (k : WaitKind) : Bool :=
  match k with | .publish b => !t.shadowBusy (t.buffer b) | _ => false
def Tile.orphaned (t : Tile) (k : WaitKind) : Bool :=
  match k with | .counter c thr => t.orphan c thr | _ => false

def execStalledReadProceeds (p t c : Nat) (x : Bool) (s : State) : Out := event s (s.wake p t c x (s.tile p t).linesCome)
def execWaitbPass (p t c : Nat) (x : Bool) (s : State) : Out := event s (s.wake p t c x (s.tile p t).counterCome)
/-- R140: a `WAITV` of the same tile cycle sees the new version (R29). -/
def execWaitvPass (p t c : Nat) (x : Bool) (s : State) : Out :=
  event s (match (s.stream p t c x).wait with
    | some w => if (s.tile p t).versionCome w.kind then (s.wake p t c x (s.tile p t).versionCome).modTile p t (·.untry c x) else s
    | none => s)
def execPublishSwap (p t c : Nat) (x : Bool) (s : State) : Out := event s (s.wake p t c x (s.tile p t).publishCome)

/-- A trap that an event of the device takes, at the waiting bundle. -/
def State.waitTrap (s : State) (p t c : Nat) (x : Bool) (cause : Nat) : State :=
  s.takeTrap p t c x cause 0 0 false false (s.stream p t c x).pc

/-- R230: nothing can reach the threshold any more. -/
def execWaitOrphan (p t c : Nat) (x : Bool) (s : State) : Out :=
  event s (match (s.stream p t c x).wait with
    | some w => if (s.tile p t).orphaned w.kind && !w.ready then s.waitTrap p t c x cWAIT_ORPHAN else s
    | none => s)

/-- Whether a stream's wait has passed the limit of `WAITTO` (R145, R229). -/
def State.timedOut (s : State) (p t c : Nat) (x : Bool) : Bool :=
  let to_ := (s.ctx p t c).waitto.toNat
  match (s.stream p t c x).wait with
  -- a form of a frozen stream has been sent, and is answered or timed after the handler (R229, R263)
  | some w => w.limited && !w.ready && to_ != 0 && w.since + to_ <= s.now && !((s.ctx p t c).stream (!x)).tmode
  | none => false

/-- Take back an entry that waits at its target (R232). -/
def State.withdrawEntry (s : State) (p t c : Nat) (x : Bool) : State :=
  { s with dies := s.dies.map fun d => (d.1, { d.2 with tiles := d.2.tiles.map fun tl => (tl.1, { tl.2 with
      enqr := tl.2.enqr.filter (fun e => !(e.peer == p && e.tile == t && e.ctx == c && e.exe == x)) }) }) }

/-- Let a handler message that has had no answer go (R237). -/
def State.withdrawMessage (s : State) (p t c : Nat) (x : Bool) : State :=
  match (s.die p).reqs.find? (fun r => r.kind == 0x0F && r.tile == t && r.ctx == c && r.exe == x) with
  | some r => (s.maybeDrop p r.tag).dropReq p r.tag
  | none => s

def execWaitTimeout (p t c : Nat) (x : Bool) (s : State) : Out :=
  event s (if !s.timedOut p t c x then s
    else
      let y := s.stream p t c x
      -- a message or entry that has had no answer goes; one that has is not sent again (R229)
      let s := if y.sent && y.answer.isNone then
          let s := (s.withdrawEntry p t c x).withdrawMessage p t c x
          s.setStream p t c x { y with wait := none }
        else s
      s.waitTrap p t c x cWAIT_TIMEOUT)

/-! ### Interrupts (R267) -/

/-- The stream of a context that takes its asynchronous causes. -/
def Ctx.asyncExe (c : Ctx) : Bool := c.exe.status == .running
/-- The causes that wait for a context. -/
def Ctx.asyncs (c : Ctx) : List Nat := c.exe.async ++ c.acc.async
/-- Whether a context may take an interrupt now: its stream at a bundle boundary, no stream of it in trap mode, no answer
awaited, no grant in hand. A `NOP` or a division that idles the stream is over first (R88, R99, R118). -/
def Ctx.takesAsync (c : Ctx) : Bool :=
  let x := c.stream c.asyncExe
  c.status == .running && x.status == .running && x.unheld && !c.exe.tmode && !c.acc.tmode && !x.sent &&
    (match x.wait with | some w => !w.ready | none => true)

def execAsyncInterrupt (p t c cause : Nat) (s : State) : Out :=
  let x := s.ctx p t c
  event s (if !x.asyncs.contains cause || !x.takesAsync then s
    else
      let x := if x.exe.async.contains cause then x.setStream true { x.exe with async := x.exe.async.erase cause }
        else x.setStream false { x.acc with async := x.acc.async.erase cause }
      let s := s.setCtx p t c x
      s.takeTrap p t c x.asyncExe cause 0 0 true false (x.stream x.asyncExe).pc)

/-! ### Timing replays (R414, R422) -/

/-- A tile fails (R422): it takes no binding again, and the operator bound to it fails, with a cause that the spec does
not name. -/
def State.failTile (s : State) (p t : Nat) : State :=
  let b := (s.tile p t).bound
  let s := s.modTile p t fun x => { x with failed := true }
  match b with
  | some o => ({ s with free := s.free + 1 } : State).failOp p o (Config.freeByte s.free).toNat
  | none => s

/-- R414: `fails` checks of one bundle fail in a row; the fourth raises the vector rail by a point, and at the top point
the tile fails. -/
def execTimingReplay (p t c fails : Nat) (s : State) : Out :=
  let n := min fails 4
  let x := s.ctx p t c
  event s (if n == 0 || x.status != .running then s
    else
      let s := s.modTile p t fun tl =>
        ({ tl with chafft := (List.range n).foldl (fun v _ => bump v) tl.chafft }).setCtx c { x with replay := x.replay + 4 * n }
      if n < 4 then s
      else
        let w := (s.die p).power
        if w.point 1 < 15 then
          s.modPower p fun w => { w with points := w.points.put 1 (w.point 1 + 1), want := w.want.put 1 (min 15 (SMap.get 12 w.want 1 + 1)) }
        else s.failTile p t)

/-! ### Engine commands (R187 to R189, R207, R210, R255, R428) -/

/-- Whether a queued command may be looked at for its start: at the head of its queues, and held by the checker. -/
def Tile.startable (t : Tile) (c : Cmd) : Bool := c.st == .queued && t.atHead c && t.admits c

/-- R427: an entry that breaks its rules, or asks for more than its cluster's limit. -/
def Cmd.badCurrent (c : Cmd) (w : Power) (t : Nat) : Bool :=
  match c.current with | none => true | some (r, u) => w.limit (t / 8) r < u

/-- Whether a command that the checker holds may start: ranges clear, current granted, planes free (R188, R255, R428). -/
def State.mayStart (s : State) (p t : Nat) (c : Cmd) : Bool :=
  let tl := s.tile p t
  tl.clear c && (c.badCurrent (s.die p).power t || (s.die p).granted t c) && (c.queues.contains 4 || tl.planesOk s.cfg p t c)

/-- Whether the start of a queued command would change anything. -/
def State.starts (s : State) (p t : Nat) (c : Cmd) : Bool :=
  (s.tile p t).startable c && (!c.entered || s.mayStart p t c)

/-- The command enters the range checker, and starts where nothing holds it back: it runs with the buffer table as it
stands (R139), or a bad current entry ends it with ILLOP (R192, R212, R427). -/
def State.startCmd (s : State) (p t n : Nat) : State :=
  let tl := s.tile p t
  match tl.cmd n with
  | none => s
  | some c =>
    if !tl.startable c then s
    else
      let c := { c with entered := true }
      let tl := tl.setCmd c
      let s := s.setTile p t tl
      if !s.mayStart p t c then s
      else if c.badCurrent (s.die p).power t then s.setTile p t (tl.fault c cILLOP 0)
      else s.setTile p t (tl.setCmd { c with st := .running, bufs := tl.bufs, rd := c.rd ++ tl.maskSpan c })

/-- Whether a command is one of the array halves, or of the copy engine. -/
def State.cmdOf (s : State) (p t n : Nat) (copy : Bool) : Bool :=
  match (s.tile p t).cmd n with | some c => c.queues.contains 4 == copy | none => false

def execEngineCommandStart (p t q : Nat) (s : State) : Out := event s (if s.cmdOf p t q false then s.startCmd p t q else s)
def execCopyCommandStart (p t q : Nat) (s : State) : Out := event s (if s.cmdOf p t q true then s.startCmd p t q else s)
def execEngineCommandRetire (p t q : Nat) (s : State) : Out := event s (if s.cmdOf p t q false then s.retireCmd p t q else s)
def execCopyCommandRetire (p t q : Nat) (s : State) : Out := event s (if s.cmdOf p t q true then s.retireCmd p t q else s)

/-- Whether an empty source line of a stalled command has been filled (R190, R209). -/
def Tile.lineCame (t : Tile) (c : Cmd) : Bool := match c.stall with | .empty n => (t.lineInfo n).full | _ => false
/-- Whether a full destination line has been emptied (R190, R209). -/
def Tile.lineLeft (t : Tile) (c : Cmd) : Bool := match c.stall with | .back n => !t.backed n | _ => false

def execEngineLineFillResume (p t q : Nat) (s : State) : Out :=
  event s (s.modCmd p t q fun c => if (s.tile p t).lineCame c then { c with stall := .none } else c)
def execBackpressureWriteResume (p t q : Nat) (s : State) : Out :=
  event s (s.modCmd p t q fun c => if (s.tile p t).lineLeft c then { c with stall := .none } else c)

/-- R219, R338: one piece of a slab's move. -/
def execSlabMovePiece (p t q : Nat) (s : State) : Out :=
  event s (match (s.tile p t).cmd q with
    | none => s
    | some c => match c.i with
      | .slabmv _ =>
        if c.st != .running || c.step == 0 then s
        else (match slabPiece { p := p, t := t, seq := q } c s with
          | (.ok _, u) => u
          | (.error h, u) => u.settleHalt p t q h)
      | _ => s)

end Sys2Proof.Machine
end

