-- ==== Sys2Proof/Machine/Boot.lean ====
section
/-! DEFINITION. Failure of tiles and dies (R421, R422), reset and boot (R441, R443, R446), the VFs' TDISP states, keys and
teardown (R448 to R451), attestation (R449), and what the host reads and writes (R307, R409, R447). -/

namespace Sys2Proof.Machine

/-! ### Heartbeats (R421) -/

/-- The two neighbours of a die on its package ring. -/
def neighbours (p : Nat) : List Nat := [p / 8 * 8 + (p + 1) % 8, p / 8 * 8 + (p + 7) % 8]

def beatTime : Nat := 1000000

def execHeartbeat (p : Nat) (s : State) : Out :=
  event s (if s.fenced.contains p || s.now < (s.die p).beatAt + beatTime then s
    else (neighbours p).foldl (fun s q => s.sendCtl p q (partId p 0) [ctlBeat]) (s.modDie p fun d => { d with beatAt := s.now }))

def execHeartbeatArrival (p : Nat) (s : State) : Out :=
  event s (match s.control p ctlBeat with
    | none => s
    | some k => (s.consume k).modDie p fun d => { d with beats := d.beats.put k.src s.now })

/-- Whether both neighbours of a die have missed three heartbeats of it. -/
def State.silent (s : State) (p : Nat) : Bool :=
  (neighbours p).all fun q => s.fenced.contains q || SMap.get 0 (s.die q).beats p + 3 * beatTime < s.now
/-- Whether no tile of a die is left to bind to: each has failed, or lies in a zone that is excluded (R421, R422, R438). -/
def State.spent (s : State) (p : Nat) : Bool :=
  (List.range 32).all (fun t => (s.tile p t).failed || (s.zone p ((s.die p).zoneOf t)).state == 4)

/-! ### The failure of a die (R370, R419 to R421) -/

/-- A partition by its id. -/
def ofPartId (n : Nat) : Nat × Nat := (n / 32 * 8 + n % 32 / 4, n % 4)

/-- The local VF of the standby that stands for a VF of the failed partition: the same place in ascending order. -/
def Cfg.standVf (c : Cfg) (p q p' q' vf : Nat) : Nat :=
  let mine := (List.range 24).filter (fun v => c.partOf p v == q)
  let theirs := (List.range 24).filter (fun v => c.partOf p' v == q')
  theirs.getD (mine.idxOf vf) vf

/-- A logged dispatch (R416): tag, graph, param, seed, entry, VF and priority. -/
structure Logged where
  launch : Launch
  entry : Nat

def loggedOf (v : Nat) : Logged :=
  let g := byteField v
  { entry := g 33 32
    launch := { id := 0, vf := g 34 34, graph := BitVec.ofNat 64 (g 15 8), param := BitVec.ofNat 64 (g 23 16),
                seed := BitVec.ofNat 64 (g 31 24), prio := g 35 35, flags := 2, tag := BitVec.ofNat 64 (g 7 0) } }

/-- Add a logged dispatch to a queue of launches and a replay list: the launch that has its tag, graph and launch values, or a new
one with what the log records. -/
def addLogged (acc : List Launch × List (Nat × Nat)) (e : Logged) : List Launch × List (Nat × Nat) :=
  let y := e.launch
  match acc.1.find? (fun x => x.tag == y.tag && x.vf == y.vf && x.graph == y.graph && x.param == y.param && x.seed == y.seed) with
  | some x => (acc.1, acc.2 ++ [(x.id, e.entry)])
  | none =>
    let n := acc.1.length
    (acc.1 ++ [{ e.launch with id := n }], acc.2 ++ [(n, e.entry)])

/-- A launch as its record restores it (R419): an entry that had failed still has, which the record's bitmap does not tell
(log 126). -/
def Launch.restored (x : Launch) (id : Nat) : Launch :=
  { id := id, vf := x.vf, graph := x.graph, param := x.param, seed := x.seed, prio := x.prio, flags := x.flags, cpl := x.cpl,
    tag := x.tag, bad := x.bad, ended := x.ended, dead := x.dead, failed := x.failed }

/-- Give a recorded slot a place on a die: its own number, or the lowest that is free, so that no live request is lost (R423). -/
def Die.adopt (d : Die) (n : Nat) (x : Slot) : Die :=
  match (n :: List.range 4096).find? (fun k => (d.slot k).state == 0) with
  | some k => d.setSlot k { x with slabs := [], age := d.slotAge + x.age }
  | none => d

/-- The last checkpoint of a partition; before the first, one of nothing. -/
def Part.checkpoint (x : Part) : Ckpt := x.last.getD { seq := 0, launches := [], slots := [] }

/-- The standby of a failed partition takes over its log ring and latest checkpoint (R419, R421). The tensors are where its program
has copied them: it restores them, the model does not (log 126). -/
def State.standBy (s : State) (p q : Nat) : State :=
  match s.cfg.standby.find (partId p q) with
  | none => s
  | some id =>
    let (p', q') := ofPartId id
    let pt := (s.die p).part q
    let ck := pt.checkpoint
    let seqs := (List.range (pt.logseq - ck.seq).toNat).map (fun k => ck.seq.toNat + k)
    let entries := seqs.map fun n =>
      let (home, a) := pt.logSlot s.cfg q n
      loggedOf (Memory.read (s.die home).dram a 64)
    let kept := ck.launches.zipIdx.map (fun x => x.1.restored x.2)
    let (ls, replay) := entries.foldl addLogged (kept, [])
    let vf := fun (v : Nat) => s.cfg.standVf p q p' q' v
    s.modDie p' fun d =>
      let d := d.setPart q' { d.part q' with
        logbase := pt.logbase, logcap := pt.logcap, logseq := pt.logseq, logckp := pt.logckp, last := pt.last, replay := replay }
      let d := { d.setLaunches q' (ls.map (fun x => { x with vf := vf x.vf })) with launchAge := max d.launchAge ls.length }
      let d := ck.slots.foldl (fun d e => d.adopt e.1 { e.2 with vf := vf e.2.vf }) d
      { d with slotAge := d.slotAge + (ck.slots.map (fun e => e.2.age + 1)).foldl max 0 }

/-- Abort the requests of a failed die that no standby restores (R412, R423). -/
def State.abortLost (s : State) (p : Nat) : State :=
  (s.die p).slots.foldl (fun s e =>
    let q := s.cfg.partOf p e.2.vf
    let kept := (s.cfg.standby.find (partId p q)).isSome && ((s.die p).part q).checkpoint.slots.any (·.1 == e.1)
    if kept then s else s.abortSlot p e.1) s

/-- Answer every packet that is on its way to a fenced peer; forget what it had sent (R370). -/
def State.fenceNet (s : State) (p : Nat) : State :=
  let l := s.net
  (l.filter (fun k => k.src != p)).foldl (fun s k => if k.dst == p then s.send { k with injected := false, taken := false, hops := [] } else { s with net := s.net ++ [k] })
    { s with net := [] }

/-- What engine commands still await from a fenced peer does not come (R370): an answer to a slot that it had taken, or its
contribution to a reduction (log 132). -/
def State.fenceEngines (s : State) (dead : Nat) : State :=
  s.dies.foldl (fun s d =>
    let s := ((s.die d.1).reqs.filter (fun r => r.dst == dead && (r.kind == 0x08 || r.kind == 0x0C))).foldl (fun s r => s.lose d.1 r 4) s
    d.2.tiles.foldl (fun s t => s.modTile d.1 t.1 fun x => { x with cmds := x.cmds.map fun c =>
      match c.i with
      | .fred _ =>
        let g := c.ve.toNat
        if c.st == .running && c.step == 1 && (s.mgroups.find g).any (fun m => bit m.members dead) &&
            !(s.die d.1).freds.any (fun y => y.group == g && y.k == c.arg 0 && y.peer == dead)
        then { c with aux := c.aux.set 1 3 } else c
      | _ => c }) s) s

/-- A die is declared failed: the domain is fenced, and the standbys take over. -/
def State.failDie (s : State) (p : Nat) : State :=
  let s := { s with fenced := s.fenced ++ [p] }
  let s := ((s.fenceNet p).fenceEngines p).fenceStubs p
  ((List.range 4).foldl (fun s q => s.standBy p q) s).abortLost p

def execDieFailure (p : Nat) (s : State) : Out :=
  event s (if s.fenced.contains p || s.peers <= p then s else s.failDie p)

def execTileFailure (p t : Nat) (s : State) : Out := event s (if (s.tile p t).failed then s else s.failTile p t)

/-! ### Reset and boot (R441, R443, R446) -/

/-- The spare that a full reset maps in for a failed tile (R422): the one that the repair map names, unless it stands for another
tile, or has failed itself. -/
def spareFor (c : Cfg) (p : Nat) (m : SMap Tile) (t : Nat) : Option (Nat × Nat) :=
  match c.repair.find (p * 32 + t) with
  | some (k, z) =>
    let taken := m.any (fun e => e.2.spare.any (·.1 == k) || (e.2.failed && e.1 < t && (c.repair.find (p * 32 + e.1)).any (·.1 == k)))
    if k < 2 && !taken then some (k, z) else none
  | none => none

/-- The tiles that differ from new ones after a reset: those that have failed and have no spare, and those for which one stands. -/
def failedAfter (c : Cfg) (p : Nat) (m : SMap Tile) : SMap Tile :=
  m.filterMap fun t =>
    if !t.2.failed then t.2.spare.map (fun k => (t.1, { spare := some k }))
    else match spareFor c p m t.1 with
      | some k => some (t.1, { spare := some k })
      | none => some (t.1, { failed := true, spare := t.2.spare })

/-- Every die as if it had heard of its neighbours at a time (R421). -/
def State.heard (s : State) (now : Nat) : State :=
  (List.range s.peers).foldl (fun s p => s.modDie p fun d =>
    { d with beatAt := now, beats := (neighbours p).foldl (fun m q => m.put q now) [] }) s

/-- A die's registers whose values the configuration block gives (R436, R440, R444). -/
def Die.configured (d : Die) (c : Cfg) (p : Nat) : Die :=
  let bud : SMap (Nat × Nat) := (c.pbud.filter (fun e => e.1 / 16 == p)).map (fun e => (e.1 % 16, e.2))
  { d with power := { d.power with pbud := bud, pbudAct := bud, alloc := c.alloc } }

/-- Every die with them. -/
def State.setUp (s : State) : State := (List.range s.peers).foldl (fun s p => s.modDie p fun d => d.configured s.cfg p) s

/-- A full reset: every register at its reset value, phase 0 of the boot, rack links down until they come up. `DTIME` never runs
backwards within a power-on (R7). -/
def State.fullReset (s : State) : State :=
  let pkgs := List.range s.packages
  ({ State.reset with
    packages := s.packages, cfg := s.cfg, inputs := s.inputs, free := s.free, dtime := s.dtime, frac := s.frac
    dies := s.dies.filterMap (fun d =>
      let ts := failedAfter s.cfg d.1 d.2.tiles
      if ts.isEmpty then none else some (d.1, { tiles := ts }))
    boots := pkgs.map (fun k => (k, { phase := 0 })), synced := false
    linkDown := if 1 < s.packages then pkgs.map (fun k => (k, true)) else [] } : State).setUp.heard s.now

def execFullReset (s : State) : Out := .next s.fullReset

/-- Whether ranges of frames are aligned to 2 MiB and disjoint, but for empty ones (R445); recursion on the ranges. -/
def apart : List (Nat × Nat) → Bool
  | [] => true
  | r :: l => (r.2 == 0 || (r.1 % 512 == 0 && r.2 % 512 == 0 && l.all (fun x => !overlaps r.1 r.2 x.1 x.2))) && apart l

/-- Whether the block holds sound tables for a die: VFs divided in ascending order (R444), ranges of each tier apart, slabs within
their VF's range (R445), and one gang table for the partitions of a gang (R324). -/
def Cfg.dieOk (c : Cfg) (p : Nat) : Bool :=
  let vs := List.range 24
  let qs := List.range 4
  let within := fun (tier : Nat) (v : Nat) (r : Nat × Nat) => match c.kv.find ((p * 24 + v) * 2 + tier) with
    | some k => r.1 <= k.1 && k.1 + k.2 <= r.1 + r.2
    | none => true
  (List.range 23).all (fun v => c.partOf p v <= c.partOf p (v + 1)) && c.partOf p 23 < 4 &&
    apart (vs.map (c.rangeOf p) ++ qs.map (c.prangeOf p)) && apart (vs.map (c.srangeOf p) ++ qs.map (c.psrangeOf p)) &&
    vs.all (fun v => within 1 v (c.rangeOf p v) && within 0 v (c.srangeOf p v)) &&
    qs.all (fun q => qs.all (fun r => (c.gang.find (p * 4 + q)).isNone || c.gang.find (p * 4 + q) != c.gang.find (p * 4 + r) ||
      (List.range 16).all (fun n => c.gangt.find ((p * 4 + q) * 16 + n) == c.gangt.find ((p * 4 + r) * 16 + n))))

/-- Whether the configuration block is well formed (R442): its header, each type of section once, and sound tables. -/
def Cfg.wf (c : Cfg) (peers : Nat) : Bool :=
  let b := c.block
  b.magic == 0x5A384342 && b.zero && 1 <= b.types.length && b.types.length <= 64 && b.len <= 2 ^ 20 &&
    (List.range 8).all (fun k => b.types.count (k + 1) == 1) && (List.range 8).all (fun m => sharesOk (SMap.get 0 c.alloc m)) &&
    (List.range peers).all c.dieOk

/-- What the checks of R443 find: the code that the boot gives (1 and 2 a signature), or the block's own fault: 3 an svn below the
fused minimum, 4 a malformed block. -/
def Cfg.check (c : Cfg) (peers code : Nat) : Nat :=
  if code != 0 then code else if c.block.svn < c.minSvn then 3 else if !c.wf peers then 4 else 0

/-- The boot of a package after a phase: a failed check ends it. -/
def Boot.after (b : Boot) (phase code die svn : Nat) : Boot :=
  if b.code != 0 || b.phase + 1 != phase then b
  else if code != 0 then { b with code := code, die := die }
  else { b with phase := phase, svn := if phase == 3 then svn else b.svn }

def State.boot (s : State) (pkg : Nat) : Boot := SMap.get {} s.boots pkg
def State.setBoot (s : State) (pkg : Nat) (b : Boot) : State := { s with boots := SMap.set {} s.boots pkg b }

/-- R441, R443: the package of a die, named by its peer number, completes a phase, or that die fails it. -/
def execBootPhaseComplete (phase code die svn : Nat) (s : State) : Out :=
  let k := die / 8
  let code := if phase == 3 then s.cfg.check s.peers code else code
  event s (if k < s.packages then s.setBoot k ((s.boot k).after phase code (die % 8) svn) else s)

/-- `BOOTST` (R447). -/
def State.bootst (s : State) (pkg : Nat) : Word :=
  let b := s.boot pkg; BitVec.ofNat 64 (b.svn % 2 ^ 32 * 2 ^ 32 + b.die % 256 * 2 ^ 8 + b.code % 256)

/-- Whether a die's VFs are enabled (R441, R443). -/
def State.vfsUp (s : State) (p : Nat) : Bool :=
  let b := s.boot (p / 8); b.phase == 7 && (b.code == 0 || b.code == 6)

/-- Whether the host port of a package presents the PF: from phase 7 on, or after a failed check (R441, R443). -/
def State.pfUp (s : State) (p : Nat) : Bool :=
  let b := s.boot (p / 8); b.phase == 7 || (b.code != 0 && b.code != 6)

/-- Whether a package has completed a phase of its boot, with no failed check. -/
def State.past (s : State) (k phase : Nat) : Bool :=
  let b := s.boot k; phase <= b.phase && (b.code == 0 || b.code == 6)
/-- Whether it is in phase 6. -/
def State.phase6 (s : State) (k : Nat) : Bool := s.past k 5 && !s.past k 6

/-- R441: in phase 6 `DTIME` starts to follow the common time, and never runs backwards. -/
def execDtimeSync (now : Nat) (s : State) : Out :=
  event s (if s.synced || now < s.now || !(List.range s.packages).any s.phase6 then s
    else ({ s with synced := true, dtime := BitVec.ofNat 64 now, frac := 0 } : State).heard now)

/-- R441, R446: a link comes up in phase 6 of an end whose other end has come as far, and their digests are compared; a package that
has failed a check keeps its links down (R443). -/
def execRackLinkUp (pkg : Nat) (same : Bool) (s : State) : Out :=
  let fails := fun (s : State) (k : Nat) => s.setBoot k { s.boot k with code := 6 }
  let far := (pkg + 1) % s.packages
  event s (if !s.past pkg 5 || !s.past far 5 || !(s.phase6 pkg || s.phase6 far) then s
    else if same then { s with linkDown := SMap.set false s.linkDown pkg false }
    else fails (fails { s with linkDown := SMap.set false s.linkDown pkg true } pkg) far)

def execPowerRemoval (s : State) : Out :=
  .next { State.reset with packages := s.packages, cfg := s.cfg, inputs := s.inputs, free := s.free, powered := false }

/-! ### TDISP, keys and teardown (R448 to R451) -/

def State.td (s : State) (p v : Nat) : Tdisp := SMap.get {} (s.die p).tdisp v
def State.setTd (s : State) (p v : Nat) (x : Tdisp) : State := s.modDie p fun d => { d with tdisp := SMap.set {} d.tdisp v x }

/-- Drop a VF's launches and abort its operators (R451 step 1). -/
def State.dropWork (s : State) (p v : Nat) : State :=
  let q := s.cfg.partOf p v
  let s := ((s.die p).ops.filter (fun o => o.2.vf == v)).foldl (fun s o => s.abortOp p o.1) s
  let ids := (((s.die p).launchesOf q).filter (·.vf == v)).map (·.id)
  (s.modDie p fun d => { d.setLaunches q ((d.launchesOf q).filter (·.vf != v)) with
      launchDue := d.launchDue.filter (·.1 != v) }).modPart p q fun x =>
    { x with replay := x.replay.filter (fun r => !ids.contains r.1) }

/-- A sync object without the regions of a VF; none without the last. -/
def SyncObj.without (o : SyncObj) (v : Nat) : Option SyncObj :=
  let rs := o.regions.filter (·.1 != v)
  if rs.isEmpty then none else some { o with regions := rs }
/-- Free the regions of a VF, and with its last region a sync object (R135). DESIGN CHOICE, log 110: the rule frees what a torn
down partition has; a VF's teardown frees what that VF has. -/
def State.freeSync (s : State) (p v : Nat) : State :=
  let own := some (p, s.cfg.partOf p v)
  let mine := fun (o : SyncObj) => o.owner == own && o.regions.any (·.1 == v)
  s.dies.foldl (fun s d => s.modDie d.1 fun x =>
    { x with sync := x.sync.filterMap fun o => if mine o.2 then (o.2.without v).map (o.1, ·) else some o }) s

/-- Steps 1 to 4 of a teardown. -/
def State.tearDown (s : State) (p v : Nat) : State :=
  let x := s.td p v
  if x.tearing then s
  else
    let s := s.setTd p v { x with tearing := true, st := if x.st == 1 || x.st == 2 then 3 else x.st }
    let s := ((s.dropWork p v).dropStubs p v).freeSync p v
    s.modDie p fun d =>
      let d := ((d.slots.filter (fun e => e.2.state != 0 && e.2.vf == v)).map (·.1)).foldl (fun d n => d.freeSlot n) d
      { d with keys := x.slots.foldl (fun m k => SMap.set none m k none) d.keys }

def execTeardown (p v : Nat) (s : State) : Out := event s (s.tearDown p v)

/-- Steps 5 and 6: the VF's ranges are scrubbed, and the VF is free. -/
def State.tornDown (s : State) (p v : Nat) : State :=
  let x := s.td p v
  let (lo, n) := s.cfg.rangeOf p v
  let (slo, sn) := s.cfg.srangeOf p v
  let out := fun (m : SMap DramMeta) (lo n : Nat) => m.filter (fun e => e.1 < lo * 32 || (lo + n) * 32 <= e.1)
  let s := s.modDie p fun d => { d with
    dram := Memory.zero d.dram (lo * 4096) (n * 4096), dmeta := out d.dmeta lo n,
    sram := Memory.zero d.sram (slo * 4096) (sn * 4096), smeta := out d.smeta slo sn }
  -- no copy of a line of the range is left to be written back (R288, R450)
  let mine := fun (key : Nat) => key / 2 ^ 34 == p && lo * 32 <= key % 2 ^ 34 && key % 2 ^ 34 < (lo + n) * 32
  let s := s.dies.foldl (fun s d => s.modDie d.1 fun x => { x with copies := x.copies.filter (fun e => !mine e.1) }) s
  s.setTd p v { x with st := 0, tearing := false, slots := [] }

def execTeardownComplete (p v : Nat) (s : State) : Out := event s (if (s.td p v).tearing then s.tornDown p v else s)

def execLockInterfaceRequest (p v : Nat) (s : State) : Out :=
  let x := s.td p v
  event s (if s.vfsUp p && x.st == 0 && x.keyed && !x.tearing then s.setTd p v { x with st := 1 } else s)
def execStartInterfaceRequest (p v : Nat) (s : State) : Out :=
  let x := s.td p v
  event s (if s.vfsUp p && x.st == 1 then s.setTd p v { x with st := 2 } else s)
def execStopInterfaceRequest (p v : Nat) (s : State) : Out := event s (if s.vfsUp p then s.tearDown p v else s)

/-- A change of a locked VF's configuration, BAR or keys: ERROR, and its teardown. -/
def State.vfChanged (s : State) (p v : Nat) : State := if (s.td p v).st == 1 || (s.td p v).st == 2 then s.tearDown p v else s
def execVfConfigChange (p v : Nat) (s : State) : Out := event s (s.vfChanged p v)
def execIdeKmKeySet (p v : Nat) (s : State) : Out :=
  event s (if s.vfsUp p then (s.setTd p v { s.td p v with keyed := true }).vfChanged p v else s)

/-- R445, R449: a key goes to a slot of the tenant's own partition, for a VF in CONFIG_LOCKED; a slot that is bound takes one for
the VF that it was bound for alone, until it is erased. -/
def execKeyDelivery (p slot q v : Nat) (s : State) : Out :=
  let x := s.td p v
  let tenant := s.cfg.tenantOf p v
  let bound := SMap.get none (s.die p).keys slot
  event s (
    if slot != 0 && slot < 256 && SMap.get 0 s.cfg.keyOwner (p * 256 + slot) == q && s.cfg.partOf p v == q && x.st == 1 &&
        !x.tearing && (bound == none || x.slots.contains slot) then
      (s.setTd p v { x with slots := slot :: x.slots.filter (· != slot) }).modDie p fun d =>
        { d with keys := SMap.set none d.keys slot (some tenant) }
    else s)

/-! ### Attestation (R449) -/

/-- Bytes that stay the same from one full reset to the next and that the spec does not give: digests and fuses. -/
def fixedBytes (p k n : Nat) : List Byte := (List.range n).map (fun i => Config.freeByte (2 ^ 64 + (p * 8 + k) * 64 + i))

/-- A measurement: index 5 holds the TDISP state and the tenant number of each local VF. -/
def State.measure (s : State) (p k : Nat) : Option (List Byte) :=
  if k == 5 then some ((List.range 24).flatMap fun v => leBytes 1 (s.td p v).st ++ leBytes 4 (s.cfg.tenantOf p v))
  else if k == 3 then some (fixedBytes p 3 4 ++ leBytes 4 (s.boot (p / 8)).svn)
  else if k == 1 || k == 2 || k == 4 then some (fixedBytes p k 48)
  else none
def execGetMeasurements (p k : Nat) (s : State) : Out :=
  event s { s with hostIn := (s.measure p k).map (fun b => (false, b)) }

/-! ### The driver windows (R328, R333, R339, R344, R348, R355, R382, R411, R416, R440, R447) -/

/-- Keep the bits of a register that it has. -/
def keep (w : Word) (mask : Word) : Word := w &&& mask
/-- The mask of bits `hi:lo`. -/
def maskOf (hi lo : Nat) : Word := BitVec.ofNat 64 (2 ^ (hi + 1) - 2 ^ lo)

def Die.faultReg (d : Die) (off : Nat) : Word :=
  match off with
  | 0x00 => d.chdc.setWidth 64 | 0x08 => d.chdu.setWidth 64 | 0x10 => d.chsc.setWidth 64 | 0x18 => d.chsu.setWidth 64
  | 0x20 => d.chfl.setWidth 64 | 0x28 => d.chfd.setWidth 64 | 0x30 => d.chst.setWidth 64 | 0x38 => d.chrq.setWidth 64
  | _ => 0

/-- The scheduling window of local partition q. -/
def State.schedRead (s : State) (p q off : Nat) : Word :=
  let x := (s.die p).part q
  let n := BitVec.ofNat 64
  if off == 0 then n x.gangp
  else if off == 8 then x.gangn.setWidth 64
  else if 0x40 <= off && off < 0xC0 then (gangSlice s.cfg p q x.gangt ((off - 0x40) / 8)).setWidth 64
  else if 0x100 <= off && off < 0x1C0 then
    let v := (off - 0x100) / 8
    if s.cfg.partOf p v == q then n (x.quantum v) else 0
  else if off == 0x200 then n x.vbud
  else if off == 0x208 then x.late.setWidth 64
  else if off == 0x210 then x.ovrn.setWidth 64
  else if off == 0x300 then x.logbase
  else if off == 0x308 then n x.logcap
  else if off == 0x310 then x.logseq.setWidth 64
  else if off == 0x318 then x.logckp.setWidth 64
  else 0

def State.schedWrite (s : State) (p q off : Nat) (w : Word) : State :=
  let now := s.now
  s.modPart p q fun x =>
    if off == 0 then
      let g := bits w 14 0
      if 500 <= g && g <= 20000 then { x with gangp := g, tickAt := now } else x
    else if off == 8 then { x with gangn := BitVec.ofNat 4 (bits w 3 0) }
    else if 0x40 <= off && off < 0xC0 then
      { x with gangt := x.gangt.put ((off - 0x40) / 8) (BitVec.ofNat 24 (bits w 23 0) &&& s.cfg.vfMask p q) }
    else if 0x100 <= off && off < 0x1C0 then
      let v := (off - 0x100) / 8
      if s.cfg.partOf p v == q && bits w 7 0 != 0 then { x with vfq := SMap.set 16 x.vfq v (BitVec.ofNat 8 (bits w 7 0)) } else x
    else if off == 0x200 then
      let b := bits w 10 0
      if 1 <= b && b <= 1800 then { x with vbud := b } else x
    else if off == 0x300 then { x with logbase := keep w (maskOf 63 63 ||| maskOf 56 48 ||| maskOf 46 12) }
    else if off == 0x308 then (if bits w 23 0 % 64 == 0 then { x with logcap := bits w 23 0 } else x)
    else x

/-- The sequence-manager window. -/
def Die.seqRead (d : Die) (off : Nat) : Word :=
  if off < 0x200 then SMap.get 0 d.rules (off / 8)
  else if off < 0x400 || 0xA00 <= off then 0
  else
    let v := (off - 0x400) / 0x40
    match off % 0x40 with
    | 0x00 => SMap.get 0 d.kvq (v * 2)
    | 0x08 => SMap.get 0 d.kvq (v * 2 + 1)
    | 0x10 => SMap.get 0 d.swb v
    | 0x18 => SMap.get 0 d.swn v
    | _ => 0

def State.seqWrite (s : State) (p off : Nat) (w : Word) : State :=
  s.modDie p fun d =>
    if off < 0x200 then
      let kind := bits w 1 0
      if bit w 63 && (kind == 3 || (kind == 1 && bits w 15 8 == 0)) then d
      else { d with rules := SMap.set 0 d.rules (off / 8) (keep w (maskOf 63 63 ||| maskOf 31 8 ||| maskOf 1 0)) }
    else if off < 0x400 || 0xA00 <= off then d
    else
      let v := (off - 0x400) / 0x40
      match off % 0x40 with
      | 0x00 => d.setQuota s.cfg p 0 v (keep w (maskOf 59 0))
      | 0x08 => d.setQuota s.cfg p 1 v (keep w (maskOf 47 0))
      | 0x10 =>
        if SMap.get 0 s.cfg.qpOwner (p / 8 * 64 + bits w 53 48) == p % 8 * 4 + s.cfg.partOf p v then
          { d with swb := SMap.set 0 d.swb v (keep w (maskOf 63 56 ||| maskOf 53 0)) }
        else d
      | 0x18 => { d with swn := SMap.set 0 d.swn v (keep w (maskOf 31 0)) }
      | _ => d

/-- The bits of a word of the network window that hold anything. -/
def netMask (off : Nat) : Word :=
  if off < 0x8000 then
    (match off % 32 with | 0 => maskOf 63 0 | 8 => maskOf 63 0 | 16 => maskOf 31 0 | _ => 0)
  else if off < 0xA000 then
    (match off % 32 with | 0 => maskOf 63 0 | 8 => maskOf 63 0 | 16 => maskOf 40 0 | _ => 0)
  else if off == 0xA000 then maskOf 63 63 ||| maskOf 56 12 ||| maskOf 7 0
  else if off == 0xA008 then maskOf 23 0
  else if off == 0xA010 then maskOf 61 1
  else 0

/-- A word of a die's driver windows. -/
def State.driverRead (s : State) (p off : Nat) : Word :=
  let d := s.die p
  if off < 0x10000 then s.powerRead p off
  else if off < 0x20000 then d.faultReg (off - 0x10000)
  else if off < 0x30000 then
    let o := off - 0x20000
    if o < 0xC0 then SMap.get 0 d.vfroot (o / 8)
    else if 0x100 <= o && o < 0x1C0 then SMap.get 0 d.migpool ((o - 0x100) / 8)
    else 0
  else if off < 0x40000 then d.seqRead (off - 0x30000)
  else if off < 0x44000 then s.schedRead p ((off - 0x40000) / 0x1000) (off % 0x1000)
  else if 0x80000 <= off && off < 0xC0000 then
    BitVec.ofNat 64 (d.netField ((off - 0x80000) / 0x10000) (off % 0x10000) 8)
  else if 0xE0000 <= off && off < 0xE00C0 then
    let x := s.td p ((off - 0xE0000) / 8)
    BitVec.ofNat 64 (b2n x.tearing * 8 + x.st)
  else 0

/-- A write of a word of a die's driver windows. -/
def State.driverWrite (s : State) (p off : Nat) (w : Word) (sram : Bool := true) : State :=
  if off < 0x10000 then s.powerWrite p off w sram
  else if off < 0x20000 then s
  else if off < 0x30000 then
    let o := off - 0x20000
    if o < 0xC0 then s.modDie p fun d => { d with vfroot := SMap.set 0 d.vfroot (o / 8) (keep w (maskOf 63 63 ||| maskOf 40 12)) }
    else if 0x100 <= o && o < 0x1C0 then
      s.modDie p fun d => { d with migpool := SMap.set 0 d.migpool ((o - 0x100) / 8) (keep w (maskOf 63 44 ||| maskOf 40 12)) }
    else s
  else if off < 0x40000 then s.seqWrite p (off - 0x30000) w
  else if off < 0x44000 then s.schedWrite p ((off - 0x40000) / 0x1000) (off % 0x1000) w
  else if 0x80000 <= off && off < 0xC0000 then
    let q := (off - 0x80000) / 0x10000
    let o := off % 0x10000
    s.modDie p fun d =>
      let m : Memory := SMap.get [] d.netwin q
      { d with netwin := SMap.set [] d.netwin q (Memory.write m o 8 (keep w (netMask o)).toNat) }
  else if 0xE0000 <= off && off < 0xE00C0 then (if bit w 63 then s.tearDown p ((off - 0xE0000) / 8) else s)
  else s

/-! ### Host accesses (R307, R309, R360, R409, R447, R448) -/

/-- One byte of an aligned word. -/
def byteOf (w : Word) (k : Nat) : Byte := BitVec.ofNat 8 (w.toNat / 2 ^ (8 * k))

/-- The chunks of a write that lie in one aligned word each: word address, first byte, bytes; recursion on the chunks. -/
def chunks (a : Nat) (bs : List Byte) : Nat → List (Nat × Nat × List Byte)
  | 0 => []
  | n + 1 =>
    if bs.isEmpty then []
    else
      let m := min bs.length (8 - a % 8)
      (a / 8 * 8, a % 8, bs.take m) :: chunks (a + m) (bs.drop m) n
def wordChunks (a : Nat) (bs : List Byte) : List (Nat × Nat × List Byte) := chunks a bs (bs.length / 8 + 2)

/-- A word with some of its bytes replaced. -/
def merge (w : Word) (k : Nat) (bs : List Byte) : Word :=
  BitVec.ofNat 64 (leNat ((List.range 8).map (fun i => if k <= i then bs.getD (i - k) (byteOf w i) else byteOf w i)))

/-- Whether a range of a die's DRAM lies in a VF's range, out of teardown, and a key of the VF's tenant has been delivered to the
die (R352, log 113). -/
def State.hostMay (s : State) (p vf a n : Nat) : Bool :=
  (s.die p).keys.any (fun k => k.2 == some (s.cfg.tenantOf p vf)) && s.cfg.inRange p vf (a / 4096) && s.cfg.inRange p vf ((a + n - 1) / 4096) && !(s.td p vf).tearing

def State.hostHeld (s : State) (p a n : Nat) : Bool :=
  (List.range ((a + n - 1) / 4096 + 1 - a / 4096)).any (fun k => s.heldLoc (.mem p 1 ((a / 4096 + k) * 4096) 0))

def execHostWrite (p : Nat) (tgt : HostTarget) (addr : Nat) (data : List (BitVec 8)) (s : State) : Out :=
  event s (
    if data.isEmpty then s
    else match tgt with
    | .window v =>
      if (s.td p v).st != 2 || !s.vfsUp p then s
      else (wordChunks addr data).foldl (fun s c => s.windowWrite p v (c.1 + c.2.1) c.2.2) s
    | .memory v =>
      -- a write to a held tile waits at the port, and the host's write has not happened yet (R389)
      if !s.vfsUp p || !s.hostMay p v addr data.length || s.hostHeld p addr data.length then s
      else s.modDie p fun d => d.wr 1 addr data false
    | .driver =>
      if !s.pfUp p then s
      else (wordChunks addr data).foldl (fun s c =>
        s.driverWrite p c.1 (merge (s.driverRead p c.1) c.2.1 c.2.2) (c.2.1 <= 1 && 1 < c.2.1 + c.2.2.length)) s
    | .pf => s)

/-- What a host read returns: poisoned or not, and its bytes. -/
def State.hostData (s : State) (p : Nat) (tgt : HostTarget) (addr len : Nat) : Bool × List Byte :=
  let ones := List.replicate len (0xFF : Byte)
  let bytes := fun (word : Nat → Word) => (List.range len).map (fun k => byteOf (word ((addr + k) / 8 * 8)) ((addr + k) % 8))
  match tgt with
  | .window v => if (s.td p v).st != 2 || !s.vfsUp p then (false, ones) else (false, bytes (s.windowRead p v))
  | .memory v =>
    if len == 0 then (false, [])
    else if !s.vfsUp p then (false, ones)
    else if !s.hostMay p v addr len || (s.die p).badSpan 1 addr len != 0 then (true, ones)
    else (false, leBytes len (Memory.read (s.die p).dram addr len))
  | .driver => (false, if s.pfUp p then bytes (s.driverRead p) else ones)
  | .pf => (false, if s.pfUp p then bytes (fun a => if a == 0 then s.bootst (p / 8) else 0) else ones)
def execHostRead (p : Nat) (tgt : HostTarget) (addr len : Nat) (s : State) : Out :=
  event s { s with hostIn := some (s.hostData p tgt addr len), free := s.free + 1 }

end Sys2Proof.Machine
end

