-- ==== Sys2Proof/Machine/Convert.lean ====
section
/-! DEFINITION. Class X (R172 to R185): conversions, block-scaled packing, FP6 planes and sheaf planes. -/

namespace Sys2Proof.Machine

/-- Checks and pipe time of an X form (R172, R174): no operand of the listed widths reaches beyond its register. -/
def xStart (s : State) (ws : List Nat) : R State := do
  let wmax := ws.foldl max 0
  legal s (s.shapeN * wmax <= 16384)
  s.occupyFor ((s.shapeN * wmax / 8 + 511) / 512) false

/-- An elementwise X form: `g e` is the code at position e of the destination, of width `w1` (R174). -/
def xMap (i : Instr) (f : RegF) (s : State) (limit w1 : Nat) (ws : List Nat) (g : Nat → Nat) : Out :=
  issue i s (do
    legal s (s.shapeN <= limit)
    let u ← xStart s (w1 :: ws)
    pure (u.pend (vPut f.d w1 (s.actives f.pr.toNat) g) none 4))

/-- The type in the t2 position (R173). -/
def t2of (m : BitVec 10) : Nat := bits m 3 0

/-- `conv` (R176): from a code of type t2 to a code of type t1. -/
def conv (s : State) (m : BitVec 10) (t1 c pos : Nat) : Nat :=
  let t2 := t2of m
  if isFloat t1 || isFloat t2 then roundV t1 (s.rnd m pos) (valueOf t2 c (bit m 9))
  else intFit t1 (bit m 7) (intVal t2 c)

def execCvt (f : RegF) (s : State) : Out :=
  let w2 := width (t2of f.m)
  xMap (.cvt f) f s 2048 (width f.t1.toNat) [w2] (fun e => conv s f.m f.t1.toNat (elem w2 (s.vreg f.a) e) e)

def execCvti (f : RegF) (s : State) : Out :=
  let t := f.t1.toNat
  issue (.cvti f) s (do
    let u ← s.occupyFor 1 false
    pure (u.yResult f.d (extT t (conv s f.m t (lowW (t2of f.m) (s.reg f.a)) 0)) 4))

/-- Scale byte q of a scalar (R178). -/
def scaleByte (w : Word) (e : Nat) : Nat := w.toNat / 2 ^ (8 * (e / 32)) % 256

def execXunp (f : RegF) (s : State) : Out :=
  let t2 := t2of f.m
  xMap (.xunp f) f s 256 (width f.t1.toNat) [width t2] fun e =>
    roundV f.t1.toNat (s.rnd f.m e)
      ((valueOf t2 (elem (width t2) (s.vreg f.a) e) (bit f.m 9)).scale8 (scaleByte (s.reg f.b) e))

/-- A value divided by an e8m0 scale (R179). -/
def FVal.unscale8 (v : FVal) (c : Nat) : FVal := match e8m0 c with | none => .nan | some k => v.shift (-k)

def execXpack (f : RegF) (s : State) : Out :=
  let t2 := t2of f.m
  xMap (.xpack f) f s 256 (width f.t1.toNat) [width t2] fun e =>
    roundV f.t1.toNat (s.rnd f.m e)
      ((valueOf t2 (elem (width t2) (s.vreg f.a) e) (bit f.m 9)).unscale8 (scaleByte (s.reg f.b) e))

def execXscale (f : RegF) (s : State) : Out :=
  let t2 := t2of f.m
  xMap (.xscale f) f s 2048 (width f.t1.toNat) [width t2] fun e =>
    roundV f.t1.toNat (s.rnd f.m e)
      ((valueOf t2 (elem (width t2) (s.vreg f.a) e) (bit f.m 9)).scale8 (elem 8 (s.vreg f.b) (e / 32)))

/-- R181: the selector of the FP6 format is in the t2 position. -/
def execXfp6j (f : RegF) (s : State) : Out :=
  xMap (.xfp6j f) f s 2048 (width f.t1.toNat) [6] fun e =>
    roundV f.t1.toNat (s.rnd f.m e)
      ((fmtOf (16 + t2of f.m)).value (elem 4 (s.vreg f.a) e * 4 + elem 2 (s.vreg f.b) e))

/-- R182: the format selector is in t1; both planes land together. -/
def execXfp6s (f : RegF) (s : State) : Out :=
  let t2 := t2of f.m
  let code := fun e => roundV (16 + f.t1.toNat) (s.rnd f.m e) (valueOf t2 (elem (width t2) (s.vreg f.a) e) (bit f.m 9))
  let es := s.actives f.pr.toNat
  issue (.xfp6s f) s (do
    let u ← xStart s [6, width t2]
    pure ((u.pend (vPut f.d 4 es (fun e => code e / 4)) none 4).pend (vPut f.e 2 es (fun e => code e % 4)) none 4))

/-- x / s + 127.5 as an exact real (R183). -/
def sheafQ (x s : FVal) : RVal :=
  match s with
  | .fin false ms es =>
    if ms == 0 then .nan
    else match x with
    | .nan => .nan
    | .inf n => .inf n
    | .fin n m e =>
      let k := e - es
      let p := if 0 <= k then 2 ^ k.toNat else 1
      let q := if 0 <= k then 1 else 2 ^ (-k).toNat
      let big : Int := (2 * m * p : Nat)
      let num : Int := (if n then -big else big) + (255 * ms * q : Nat)
      if num == 0 then .zero false else quotReal (num < 0) num.natAbs (2 * ms * q) 0
  | _ => .nan

/-- R183: the three planes of a sheaf code. -/
def execXshenc (f : RegF) (s : State) : Out :=
  let t2 := t2of f.m
  let sc := f32 (bits (s.reg f.b) 31 0)
  let code := fun e => roundTo 1 (s.rnd f.m e) (sheafQ (valueOf t2 (elem (width t2) (s.vreg f.a) e) (bit f.m 9)) sc)
  let es := s.actives f.pr.toNat
  issue (.xshenc f) s (do
    let u ← xStart s [8, width t2]
    let put := fun (w at_ : Nat) (g : Nat → Nat) (k : Nat → Nat) =>
      (es.foldl (fun m e => m + (2 ^ w - 1) * 2 ^ (at_ + w * k e)) 0,
       es.foldl (fun v e => v + g e * 2 ^ (at_ + w * k e)) 0)
    let lead := put 2 0 (fun e => code e / 64) id
    let mid := put 2 4096 (fun e => code e / 16 % 4) id
    let tail := put 4 8192 (fun e => code e % 16) id
    pure (u.pend (.v (num f.d) (lead.1 + mid.1 + tail.1) (lead.2 + mid.2 + tail.2)) none 4))

/-- R184: v_k, or 2v_k for an integer type. -/
def execXshdec (f : RegF) (s : State) : Out :=
  let t := f.t1.toNat
  let k := match bits f.m 1 0 with | 0 => 8 | 1 => 4 | _ => 2
  let img := bit f.m 2
  let lead := s.vreg f.a
  let mid := s.vreg f.b / 2 ^ (if img then 4096 else 0)
  let tail := s.vreg f.e / 2 ^ (if img then 8192 else 0)
  xMap (.xshdec f) f s 2048 (width t) [8] fun e =>
    let c := elem 2 lead e * 64 + (if 4 <= k then elem 2 mid e * 16 else 0) + (if k == 8 then elem 4 tail e else 0)
    let v2 := sheaf2v c k
    if isFloat t then roundV t {} ((FVal.ofInt v2).shift (-1)) else intFit t false v2

end Sys2Proof.Machine
end

