-- ==== Sys2Proof/Machine/Parcel.lean ====
section
/-! DEFINITION. The parcels that stand for more than themselves: dictionary parcels (R85) and the repeat prefix (R86,
R87). Each leaves in the issuer what the rest of its bundle needs. -/

namespace Sys2Proof.Machine

/-- The word that a dictionary parcel stands for, with the parcel's stop bit; none where R85 makes it illegal. -/
def State.dictWord (s : State) (stop : Bool) (n : Nat) : Option Word :=
  let t := s.myTile
  let w : Word := SMap.get 0 t.dict n
  if n < t.dictN && bits w 1 0 == 0 then
    let w := if stop then w ||| 2 else w
    match decodeWord w with | .ok _ => some w | .error _ => none
  else none

/-- R85. -/
def execDictionaryParcel (stop : Bool) (n : BitVec 10) (s : State) : Out :=
  issue (.dictionaryParcel stop n) s (match s.dictWord stop n.toNat with
    | some w => .ok { s with iss := { s.iss with subst := some w } }
    | none => trap s cILLOP)

/-- What a repeat prefix has to stand before (R86): the word at the next parcel, which must carry stop = 1. -/
def State.repeated (s : State) : R Word :=
  let a := s.iss.wpc.toNat + 2
  let c := s.myCtx
  let bad := fun (e : Nat × Nat) => trapAt (α := Word) s e.1 (BitVec.ofNat 64 e.2)
  match fetchParcel s s.iss.peer s.iss.tile c.part c.vf a with
  | .error e => bad (e, a)
  | .ok h =>
    if isWord h then
      match fetchWord s s.iss.peer s.iss.tile c.part c.vf a with
      | .error e => bad e
      | .ok w => if bit w 1 then .ok w else trap s cILLOP
    else match decodeParcel h with
      | .ok (.dictionaryParcel stop n) =>
        (match s.dictWord stop n.toNat with
         | some w => if bit w 1 then .ok w else trap s cILLOP
         | none => trap s cILLOP)
      | _ => trap s cILLOP

/-- The register fields of a word, by the mask bit that steps each (R86): least significant bit and kind. -/
def stepFields (i : Instr) : List (Nat × Nat × Kind) :=
  let k := kinds i
  [(0, 13, k.d), (1, 21, k.a), (2, 29, k.b), (3, 37, k.e)]

/-- The stride of its code (R72). -/
def stride (c : BitVec 2) : Int := match c.toNat with | 0 => 1 | 1 => 2 | 2 => 4 | _ => -1

/-- The word that repeat `n` issues (R86); none when a number leaves its file. -/
def stepWord (i : Instr) (m : BitVec 4) (st : BitVec 2) (n : Nat) : Option Word :=
  (stepFields i).foldl (fun (o : Option Word) f =>
    match o with
    | none => none
    | some w =>
      if !bit m f.1 then some w
      else
        let k : Int := (bits w (f.2.1 + 5) f.2.1 : Nat) + stride st * n
        if k < 0 || 63 < k then none
        else some (w - BitVec.ofNat 64 (bits w (f.2.1 + 5) f.2.1 * 2 ^ f.2.1) + BitVec.ofNat 64 (k.toNat * 2 ^ f.2.1)))
    (some (encodeWord i))

/-- R86, R87: before repeat 0, ILLOP unless the prefix stands first, before one instruction that a repeat may take. -/
def execRep (c : BitVec 6) (m : BitVec 4) (st : BitVec 2) (s : State) : Out :=
  issue (.rep c m st) s (do
    legal s (s.iss.ipc == s.iss.wpc)
    let w ← s.repeated
    match decodeWord w with
    | .error _ => trap s cILLOP
    | .ok i => do
      legal s (s.me.rpi != 0 || (!repBarred i &&
        (stepFields i).all (fun f => !bit m f.1 || f.2.2.steps (field w f.2.1 8))))
      pure { s with iss := { s.iss with rep := some (m, st, c) } })

end Sys2Proof.Machine
end

