-- ==== Sys2Proof/Machine/Scalar.lean ====
section
/-! DEFINITION. Class S (R98 to R120): scalar arithmetic, steer registers, transfers, queues and the pipelined loop; and
the NOP, REP and dictionary parcels (R72, R73, R85 to R88). -/

namespace Sys2Proof.Machine

/-- A Reg form over A and B at the type's width (R98, R100). -/
def aluReg (i : Instr) (f : RegF) (s : State) (g : Nat → Nat → Nat → Nat) : Out :=
  let t := f.t1.toNat
  issue i s (.ok (s.sResult f.d (extT t (g t (lowW t (s.reg f.a)) (lowW t (s.reg f.b))))))

/-- An Imm form over A and an immediate (R104). -/
def aluImm (i : Instr) (f : ImmF) (s : State) (g : Nat → Nat → Nat → Nat) (b : Nat) : Out :=
  let t := f.t1.toNat
  issue i s (.ok (s.sResult f.d (extT t (g t (lowW t (s.reg f.a)) b))))

def addW (t a b : Nat) : Nat := (a + b) % 2 ^ width t
def subW (t a b : Nat) : Nat := modW t ((a : Int) - b)
def mulW (t a b : Nat) : Nat := a * b % 2 ^ width t
/-- Bits 2W−1:W of the product, as the type reads its operands (R100). -/
def mulhW (t a b : Nat) : Nat := modW t (intVal t a * intVal t b / (2 ^ width t : Nat))
def minW (t a b : Nat) : Nat := if intVal t b < intVal t a then b else a
def maxW (t a b : Nat) : Nat := if intVal t a < intVal t b then b else a
/-- The low 8 bits of the shift operand (R102). -/
def amount (b : Nat) : Nat := b % 256

def execAdd (f : RegF) (s : State) : Out := aluReg (.add f) f s addW
def execSub (f : RegF) (s : State) : Out := aluReg (.sub f) f s subW
def execMul (f : RegF) (s : State) : Out := aluReg (.mul f) f s mulW
def execMulh (f : RegF) (s : State) : Out := aluReg (.mulh f) f s mulhW
def execMulhn (f : RegF) (s : State) : Out := aluReg (.mulhn f) f s mulhW

/-- A division: it also holds its stream: no bundle issues in the 7 tile cycles after it (R99). -/
def divReg (i : Instr) (f : RegF) (s : State) (g : Nat → Nat → Nat → Nat) : Out :=
  let t := f.t1.toNat
  let u := s.sResult f.d (extT t (g t (lowW t (s.reg f.a)) (lowW t (s.reg f.b))))
  issue i s (.ok (u.setMe { u.me with hold := 8 }))

def execDiv (f : RegF) (s : State) : Out := divReg (.div f) f s divW
def execDivn (f : RegF) (s : State) : Out := divReg (.divn f) f s divW
def execRem (f : RegF) (s : State) : Out := divReg (.rem f) f s remW
def execRemn (f : RegF) (s : State) : Out := divReg (.remn f) f s remW
def execMin (f : RegF) (s : State) : Out := aluReg (.min f) f s minW
def execMax (f : RegF) (s : State) : Out := aluReg (.max f) f s maxW
def execMinn (f : RegF) (s : State) : Out := aluReg (.minn f) f s minW
def execMaxn (f : RegF) (s : State) : Out := aluReg (.maxn f) f s maxW
def execAnd (f : RegF) (s : State) : Out := aluReg (.and f) f s (fun _ a b => a &&& b)
def execOr (f : RegF) (s : State) : Out := aluReg (.or f) f s (fun _ a b => a ||| b)
def execXor (f : RegF) (s : State) : Out := aluReg (.xor f) f s (fun _ a b => a ^^^ b)
def execShl (f : RegF) (s : State) : Out := aluReg (.shl f) f s (fun t a b => shlW t a (amount b))
def execShr (f : RegF) (s : State) : Out := aluReg (.shr f) f s (fun t a b => shrW t a (amount b))
def execSra (f : RegF) (s : State) : Out := aluReg (.sra f) f s (fun t a b => sraW t a (amount b))

/-- R103: a + B × 2^sh at 64 bits, B extended as its type. -/
def execAddx (f : RegF) (s : State) : Out :=
  let t := f.t1.toNat
  issue (.addx f) s (.ok (s.sResult f.d (s.reg f.a + extT t (lowW t (s.reg f.b)) * BitVec.ofNat 64 (2 ^ f.m.toNat))))

/-- R108: reads cond only. -/
def execSel (f : RegF) (s : State) : Out :=
  issue (.sel f) s (.ok (s.sResult f.d (if (s.steer f.e).cond then s.reg f.a else s.reg f.b)))

/-- A count, zero-extended (R105). -/
def countReg (i : Instr) (f : RegF) (s : State) (g : Nat → Nat → Nat) : Out :=
  let t := f.t1.toNat
  issue i s (.ok (s.sResult f.d (BitVec.ofNat 64 (g (lowW t (s.reg f.a)) (width t)))))

def execClz (f : RegF) (s : State) : Out := countReg (.clz f) f s clzN
def execCtz (f : RegF) (s : State) : Out := countReg (.ctz f) f s (fun a w => ctzN a w 0)
def execPopc (f : RegF) (s : State) : Out := countReg (.popc f) f s popN

def execAddi (f : ImmF) (s : State) : Out := aluImm (.addi f) f s addW (immW f.t1.toNat f)
def execAndi (f : ImmF) (s : State) : Out := aluImm (.andi f) f s (fun _ a b => a &&& b) (immW f.t1.toNat f)
def execOri (f : ImmF) (s : State) : Out := aluImm (.ori f) f s (fun _ a b => a ||| b) (immW f.t1.toNat f)
def execXori (f : ImmF) (s : State) : Out := aluImm (.xori f) f s (fun _ a b => a ^^^ b) (immW f.t1.toNat f)
def execShli (f : ImmF) (s : State) : Out := aluImm (.shli f) f s shlW (amount f.imm.toNat)
def execShri (f : ImmF) (s : State) : Out := aluImm (.shri f) f s shrW (amount f.imm.toNat)
def execSrai (f : ImmF) (s : State) : Out := aluImm (.srai f) f s sraW (amount f.imm.toNat)

/-- R106: the field at pos of length len, extended by the type. -/
def execBext (f : ImmF) (s : State) : Out :=
  let pos := bits f.imm 5 0
  let len := bits f.imm 11 6 + 1
  let v := (s.reg f.a).toNat / 2 ^ pos % 2 ^ len
  issue (.bext f) s (.ok (s.sResult f.d (if isSigned f.t1.toNat then sext64 v len else BitVec.ofNat 64 v)))

/-- R106: d with the field at pos replaced by the low bits of a. -/
def execBins (f : ImmF) (s : State) : Out :=
  let pos := bits f.imm 5 0
  let len := bits f.imm 11 6 + 1
  let d := (s.reg f.d).toNat
  let old := d / 2 ^ pos % 2 ^ len
  issue (.bins f) s (.ok (s.sResult f.d
    (BitVec.ofNat 64 (d - old * 2 ^ pos + (s.reg f.a).toNat % 2 ^ len * 2 ^ pos))))

def execMovi (f : WideF) (s : State) : Out := issue (.movi f) s (.ok (s.sResult f.d (f.imm.signExtend 64)))
/-- R107: the upper half from the immediate, the lower from d. -/
def execMovh (f : WideF) (s : State) : Out :=
  issue (.movh f) s (.ok (s.sResult f.d (f.imm ++ (s.reg f.d).setWidth 32)))

/-- R109. -/
def execCmp (f : RegF) (s : State) : Out :=
  let t := f.t1.toNat
  issue (.cmp f) s (.ok (s.pend
    (.cond (num f.d) (condInt (bits f.m 2 0) t (lowW t (s.reg f.a)) (lowW t (s.reg f.b)))) none 1))
def execCmpi (f : ImmF) (s : State) : Out :=
  let t := f.t1.toNat
  issue (.cmpi f) s (.ok (s.pend (.cond (num f.d) (condInt (bits f.m 2 0) t (lowW t (s.reg f.a)) (immW t f))) none 1))

/-- Start fetching a new target (R110, R112): an earlier fetch on the register is abandoned. -/
def State.fetchStart (s : State) (j : Nat) : State :=
  let me := s.me
  s.setMe { me with j := SMap.set {} me.j j { SMap.get {} me.j j with ready := 4, again := false } }

/-- R110: the target is relative to the word's first parcel. -/
def execPrep (f : WideF) (s : State) : Out :=
  let target : Addr := s.iss.wpc + (f.imm.signExtend 57) * 2
  issue (.prep f) s (.ok ((s.fetchStart (num f.d)).pend (.target (num f.d) target) none 1))
def execPrepx (f : RegF) (s : State) : Out :=
  let a := s.reg f.a
  issue (.prepx f) s (do
    legal s (!bit a 0)
    pure ((s.fetchStart (num f.d)).pend (.target (num f.d) (a.setWidth 57)) none 1))

/-- Transfer after the bundle to a steer register's target (R111, R112). -/
def State.transfer (s : State) (j : Steer) : State :=
  { s with iss := { s.iss with go := some (j.target, j.ready) } }

/-- A transfer form (R111): ILLOP without a target, and a transfer when its condition holds. -/
def branch (i : Instr) (f : RegF) (s : State) (taken : Steer → Bool) : Out :=
  let j := s.steer f.a
  issue i s (do
    legal s j.tvalid
    pure (if taken j then s.transfer j else s))

def execBr (f : RegF) (s : State) : Out := branch (.br f) f s (fun j => j.cond)
def execBrf (f : RegF) (s : State) : Out := branch (.brf f) f s (fun j => !j.cond)
def execJmp (f : RegF) (s : State) : Out := branch (.jmp f) f s (fun _ => true)
def execRet (f : RegF) (s : State) : Out := branch (.ret f) f s (fun _ => true)
/-- R111: d := the address after the bundle. -/
def execCall (f : RegF) (s : State) : Out :=
  let j := s.steer f.a
  issue (.call f) s (do
    legal s j.tvalid
    pure ((s.transfer j).sResult f.d (s.iss.npc.setWidth 64)))

/-- R113, R114: the oldest bit of BQ into cond. -/
def execBqpop (f : RegF) (s : State) : Out :=
  issue (.bqpop f) s (do
    let (v, t) ← s.pop 5
    pure (t.pend (.cond (num f.d) (v != 0)) none 1))

/-- R116. -/
def execLoopset (f : ImmF) (s : State) : Out :=
  let n := f.imm.toNat
  let t := bits (s.reg f.a) 31 0
  issue (.loopset f) s (do
    legal s (1 <= n && n <= 4)
    pure (s.pend (.lctl (if 0 < t then mkLctl (t + n - 2) false n 0 0 else mkLctl 0 true n 0 0)) none 1))

/-- R117. -/
def execBrloop (f : RegF) (s : State) : Out :=
  let j := s.steer f.a
  let w := s.myCtx.lctl
  let sc := lctlSc w
  let bkb := bits w 1 0
  issue (.brloop f) s (do
    legal s (j.tvalid && sc != 0)
    pure (if 0 < lctlLeft w then
        (s.transfer j).pend (.lctl
          (mkLctl (lctlLeft w - 1) (lctlVoid w) sc (min (lctlWarm w + 1) (sc - 1)) ((bkb + 3) % 4))) none 1
      else s.pend (.lctl (mkLctl 0 false 0 0 bkb)) none 1))

/-- R114. -/
def execQpush (f : RegF) (s : State) : Out :=
  let q := num f.d
  let a := s.reg f.a
  issue (.qpush f) s (s.push q { val := if q == 5 then (if a == 0 then 0 else 1) else a })
def execQpop (f : RegF) (s : State) : Out :=
  issue (.qpop f) s (do
    let (v, t) ← s.pop (num f.a)
    pure (t.sResult f.d v))

/-- R88, R118: the stream idles for n tile cycles in all. -/
def State.idle (s : State) (n : Nat) : State := s.setMe { s.me with hold := n }
def execNop (f : WideF) (s : State) : Out := issue (.nop f) s (.ok (s.idle (f.imm.toNat + 1)))
def execNopShort (stop : Bool) (n : BitVec 4) (s : State) : Out :=
  issue (.nopShort stop n) s (.ok (s.idle (n.toNat + 1)))

end Sys2Proof.Machine
end

