-- ==== Sys2Proof/Machine/Dispatch.lean ====
section
/-! DEFINITION. The meaning of each instruction: one arm per constructor of `Instr`. -/

namespace Sys2Proof.Machine

def exec (i : Instr) (s : State) : Host.Outcome State Fault Refusal :=
  match i with
  | .nop f => Sys2Proof.Machine.execNop f s
  | .nopShort stop n => Sys2Proof.Machine.execNopShort stop n s
  | .rep c m st => Sys2Proof.Machine.execRep c m st s
  | .dictionaryParcel stop n => Sys2Proof.Machine.execDictionaryParcel stop n s
  | .add f => Sys2Proof.Machine.execAdd f s
  | .sub f => Sys2Proof.Machine.execSub f s
  | .mul f => Sys2Proof.Machine.execMul f s
  | .mulh f => Sys2Proof.Machine.execMulh f s
  | .mulhn f => Sys2Proof.Machine.execMulhn f s
  | .div f => Sys2Proof.Machine.execDiv f s
  | .divn f => Sys2Proof.Machine.execDivn f s
  | .rem f => Sys2Proof.Machine.execRem f s
  | .remn f => Sys2Proof.Machine.execRemn f s
  | .min f => Sys2Proof.Machine.execMin f s
  | .max f => Sys2Proof.Machine.execMax f s
  | .minn f => Sys2Proof.Machine.execMinn f s
  | .maxn f => Sys2Proof.Machine.execMaxn f s
  | .and f => Sys2Proof.Machine.execAnd f s
  | .or f => Sys2Proof.Machine.execOr f s
  | .xor f => Sys2Proof.Machine.execXor f s
  | .shl f => Sys2Proof.Machine.execShl f s
  | .shr f => Sys2Proof.Machine.execShr f s
  | .sra f => Sys2Proof.Machine.execSra f s
  | .addx f => Sys2Proof.Machine.execAddx f s
  | .sel f => Sys2Proof.Machine.execSel f s
  | .clz f => Sys2Proof.Machine.execClz f s
  | .ctz f => Sys2Proof.Machine.execCtz f s
  | .popc f => Sys2Proof.Machine.execPopc f s
  | .addi f => Sys2Proof.Machine.execAddi f s
  | .andi f => Sys2Proof.Machine.execAndi f s
  | .ori f => Sys2Proof.Machine.execOri f s
  | .xori f => Sys2Proof.Machine.execXori f s
  | .shli f => Sys2Proof.Machine.execShli f s
  | .shri f => Sys2Proof.Machine.execShri f s
  | .srai f => Sys2Proof.Machine.execSrai f s
  | .bext f => Sys2Proof.Machine.execBext f s
  | .bins f => Sys2Proof.Machine.execBins f s
  | .movi f => Sys2Proof.Machine.execMovi f s
  | .movh f => Sys2Proof.Machine.execMovh f s
  | .cmp f => Sys2Proof.Machine.execCmp f s
  | .cmpi f => Sys2Proof.Machine.execCmpi f s
  | .prep f => Sys2Proof.Machine.execPrep f s
  | .prepx f => Sys2Proof.Machine.execPrepx f s
  | .br f => Sys2Proof.Machine.execBr f s
  | .brf f => Sys2Proof.Machine.execBrf f s
  | .jmp f => Sys2Proof.Machine.execJmp f s
  | .call f => Sys2Proof.Machine.execCall f s
  | .ret f => Sys2Proof.Machine.execRet f s
  | .bqpop f => Sys2Proof.Machine.execBqpop f s
  | .loopset f => Sys2Proof.Machine.execLoopset f s
  | .brloop f => Sys2Proof.Machine.execBrloop f s
  | .qpush f => Sys2Proof.Machine.execQpush f s
  | .qpop f => Sys2Proof.Machine.execQpop f s
  | .ld f => Sys2Proof.Machine.execLd f s
  | .st f => Sys2Proof.Machine.execSt f s
  | .ldq f => Sys2Proof.Machine.execLdq f s
  | .vld f => Sys2Proof.Machine.execVld f s
  | .vst f => Sys2Proof.Machine.execVst f s
  | .atom f => Sys2Proof.Machine.execAtom f s
  | .cas f => Sys2Proof.Machine.execCas f s
  | .atomf f => Sys2Proof.Machine.execAtomf f s
  | .fence f => Sys2Proof.Machine.execFence f s
  | .acq f => Sys2Proof.Machine.execAcq f s
  | .rel f => Sys2Proof.Machine.execRel f s
  | .bind f => Sys2Proof.Machine.execBind f s
  | .unbind f => Sys2Proof.Machine.execUnbind f s
  | .publish f => Sys2Proof.Machine.execPublish f s
  | .waitv f => Sys2Proof.Machine.execWaitv f s
  | .cinc f => Sys2Proof.Machine.execCinc f s
  | .lnset f => Sys2Proof.Machine.execLnset f s
  | .lnclr f => Sys2Proof.Machine.execLnclr f s
  | .lnpeek f => Sys2Proof.Machine.execLnpeek f s
  | .vadd f => Sys2Proof.Machine.execVadd f s
  | .vsub f => Sys2Proof.Machine.execVsub f s
  | .vmul f => Sys2Proof.Machine.execVmul f s
  | .vfma f => Sys2Proof.Machine.execVfma f s
  | .vfms f => Sys2Proof.Machine.execVfms f s
  | .vmin f => Sys2Proof.Machine.execVmin f s
  | .vmax f => Sys2Proof.Machine.execVmax f s
  | .vabs f => Sys2Proof.Machine.execVabs f s
  | .vneg f => Sys2Proof.Machine.execVneg f s
  | .vand f => Sys2Proof.Machine.execVand f s
  | .vor f => Sys2Proof.Machine.execVor f s
  | .vxor f => Sys2Proof.Machine.execVxor f s
  | .vnot f => Sys2Proof.Machine.execVnot f s
  | .vshl f => Sys2Proof.Machine.execVshl f s
  | .vshr f => Sys2Proof.Machine.execVshr f s
  | .vsra f => Sys2Proof.Machine.execVsra f s
  | .vcmp f => Sys2Proof.Machine.execVcmp f s
  | .vsel f => Sys2Proof.Machine.execVsel f s
  | .vbcast f => Sys2Proof.Machine.execVbcast f s
  | .vrowb f => Sys2Proof.Machine.execVrowb f s
  | .vcolb f => Sys2Proof.Machine.execVcolb f s
  | .vrsum f => Sys2Proof.Machine.execVrsum f s
  | .vrmax f => Sys2Proof.Machine.execVrmax f s
  | .vcsum f => Sys2Proof.Machine.execVcsum f s
  | .vcmax f => Sys2Proof.Machine.execVcmax f s
  | .vtrans f => Sys2Proof.Machine.execVtrans f s
  | .vshuf f => Sys2Proof.Machine.execVshuf f s
  | .viota f => Sys2Proof.Machine.execViota f s
  | .vmovs f => Sys2Proof.Machine.execVmovs f s
  | .vins f => Sys2Proof.Machine.execVins f s
  | .vshape f => Sys2Proof.Machine.execVshape f s
  | .vexp2 f => Sys2Proof.Machine.execVexp2 f s
  | .vlog2 f => Sys2Proof.Machine.execVlog2 f s
  | .vrcp f => Sys2Proof.Machine.execVrcp f s
  | .vrsq f => Sys2Proof.Machine.execVrsq f s
  | .pand f => Sys2Proof.Machine.execPand f s
  | .por f => Sys2Proof.Machine.execPor f s
  | .pxor f => Sys2Proof.Machine.execPxor f s
  | .pandn f => Sys2Proof.Machine.execPandn f s
  | .pnot f => Sys2Proof.Machine.execPnot f s
  | .pset f => Sys2Proof.Machine.execPset f s
  | .pcnt f => Sys2Proof.Machine.execPcnt f s
  | .cspush f => Sys2Proof.Machine.execCspush f s
  | .cspop f => Sys2Proof.Machine.execCspop f s
  | .csbal f => Sys2Proof.Machine.execCsbal f s
  | .vdot4 f => Sys2Proof.Machine.execVdot4 f s
  | .cvt f => Sys2Proof.Machine.execCvt f s
  | .cvti f => Sys2Proof.Machine.execCvti f s
  | .xunp f => Sys2Proof.Machine.execXunp f s
  | .xpack f => Sys2Proof.Machine.execXpack f s
  | .xscale f => Sys2Proof.Machine.execXscale f s
  | .xfp6j f => Sys2Proof.Machine.execXfp6j f s
  | .xfp6s f => Sys2Proof.Machine.execXfp6s f s
  | .xshdec f => Sys2Proof.Machine.execXshdec f s
  | .xshenc f => Sys2Proof.Machine.execXshenc f s
  | .mnest f => Sys2Proof.Machine.execMnest f s
  | .mgo f => Sys2Proof.Machine.execMgo f s
  | .ldstat f => Sys2Proof.Machine.execLdstat f s
  | .mplane f => Sys2Proof.Machine.execMplane f s
  | .mma f => Sys2Proof.Machine.execMma f s
  | .attn f => Sys2Proof.Machine.execAttn f s
  | .aclr f => Sys2Proof.Machine.execAclr f s
  | .ard f => Sys2Proof.Machine.execArd f s
  | .awr f => Sys2Proof.Machine.execAwr f s
  | .ascl f => Sys2Proof.Machine.execAscl f s
  | .msmx f => Sys2Proof.Machine.execMsmx f s
  | .cnest f => Sys2Proof.Machine.execCnest f s
  | .cgo f => Sys2Proof.Machine.execCgo f s
  | .cpy f => Sys2Proof.Machine.execCpy f s
  | .gath f => Sys2Proof.Machine.execGath f s
  | .scat f => Sys2Proof.Machine.execScat f s
  | .decomp f => Sys2Proof.Machine.execDecomp f s
  | .slabmv f => Sys2Proof.Machine.execSlabmv f s
  | .dsend f => Sys2Proof.Machine.execDsend f s
  | .spull f => Sys2Proof.Machine.execSpull f s
  | .sdrop f => Sys2Proof.Machine.execSdrop f s
  | .sfwd f => Sys2Proof.Machine.execSfwd f s
  | .mcst f => Sys2Proof.Machine.execMcst f s
  | .fred f => Sys2Proof.Machine.execFred f s
  | .tierpf f => Sys2Proof.Machine.execTierpf f s
  | .nvrd f => Sys2Proof.Machine.execNvrd f s
  | .nvwr f => Sys2Proof.Machine.execNvwr f s
  | .netq f => Sys2Proof.Machine.execNetq f s
  | .waitb f => Sys2Proof.Machine.execWaitb f s
  | .enqr f => Sys2Proof.Machine.execEnqr f s
  | .join f => Sys2Proof.Machine.execJoin f s
  | .leave f => Sys2Proof.Machine.execLeave f s
  | .gbar f => Sys2Proof.Machine.execGbar f s
  | .tstart f => Sys2Proof.Machine.execTstart f s
  | .texit f => Sys2Proof.Machine.execTexit f s
  | .dorm f => Sys2Proof.Machine.execDorm f s
  | .hmsg f => Sys2Proof.Machine.execHmsg f s
  | .seqTree f => Sys2Proof.Machine.execSeqTree f s
  | .seqCheck f => Sys2Proof.Machine.execSeqCheck f s
  | .seqWinnow f => Sys2Proof.Machine.execSeqWinnow f s
  | .seqRoll f => Sys2Proof.Machine.execSeqRoll f s
  | .seqPreempt f => Sys2Proof.Machine.execSeqPreempt f s
  | .seqResume f => Sys2Proof.Machine.execSeqResume f s
  | .seqStat f => Sys2Proof.Machine.execSeqStat f s
  | .resv f => Sys2Proof.Machine.execResv f s
  | .flowq f => Sys2Proof.Machine.execFlowq f s
  | .getc f => Sys2Proof.Machine.execGetc f s
  | .setc f => Sys2Proof.Machine.execSetc f s
  | .trap f => Sys2Proof.Machine.execTrap f s
  | .eret f => Sys2Proof.Machine.execEret f s
  | .yield f => Sys2Proof.Machine.execYield f s
  | .opend f => Sys2Proof.Machine.execOpend f s
  | .tlbi f => Sys2Proof.Machine.execTlbi f s
  | .ckpt f => Sys2Proof.Machine.execCkpt f s
  | .resultWriteback p t c => Sys2Proof.Machine.execResultWriteback p t c s
  | .queueEntryPresent p t c q => Sys2Proof.Machine.execQueueEntryPresent p t c q s
  | .queuePlaceFreed p t c q => Sys2Proof.Machine.execQueuePlaceFreed p t c q s
  | .globalLoadDataArrival p t c x poisoned => Sys2Proof.Machine.execGlobalLoadDataArrival p t c x poisoned s
  | .ldqEntryFill p t c q => Sys2Proof.Machine.execLdqEntryFill p t c q s
  | .stalledReadProceeds p t c x => Sys2Proof.Machine.execStalledReadProceeds p t c x s
  | .waitTimeout p t c x => Sys2Proof.Machine.execWaitTimeout p t c x s
  | .waitOrphan p t c x => Sys2Proof.Machine.execWaitOrphan p t c x s
  | .waitbPass p t c x => Sys2Proof.Machine.execWaitbPass p t c x s
  | .waitvPass p t c x => Sys2Proof.Machine.execWaitvPass p t c x s
  | .publishSwap p t c x => Sys2Proof.Machine.execPublishSwap p t c x s
  | .acqGrant p o => Sys2Proof.Machine.execAcqGrant p o s
  | .gbarGenerationComplete p g => Sys2Proof.Machine.execGbarGenerationComplete p g s
  | .asyncInterrupt p t c cause => Sys2Proof.Machine.execAsyncInterrupt p t c cause s
  | .timingReplay p t c fails => Sys2Proof.Machine.execTimingReplay p t c fails s
  | .operatorEnd p o => Sys2Proof.Machine.execOperatorEnd p o s
  | .tillerThreadStart p t => Sys2Proof.Machine.execTillerThreadStart p t s
  | .handlerMessageReceive p => Sys2Proof.Machine.execHandlerMessageReceive p s
  | .enqrAccept p t => Sys2Proof.Machine.execEnqrAccept p t s
  | .engineCommandStart p t q => Sys2Proof.Machine.execEngineCommandStart p t q s
  | .copyCommandStart p t q => Sys2Proof.Machine.execCopyCommandStart p t q s
  | .engineCommandRetire p t q => Sys2Proof.Machine.execEngineCommandRetire p t q s
  | .copyCommandRetire p t q => Sys2Proof.Machine.execCopyCommandRetire p t q s
  | .engineLineFillResume p t q => Sys2Proof.Machine.execEngineLineFillResume p t q s
  | .backpressureWriteResume p t q => Sys2Proof.Machine.execBackpressureWriteResume p t q s
  | .slabMovePiece p t q => Sys2Proof.Machine.execSlabMovePiece p t q s
  | .launchTagWrite p v n => Sys2Proof.Machine.execLaunchTagWrite p v n s
  | .launchComplete p q => Sys2Proof.Machine.execLaunchComplete p q s
  | .operatorDispatch p q => Sys2Proof.Machine.execOperatorDispatch p q s
  | .stageFirstInput p o g => Sys2Proof.Machine.execStageFirstInput p o g s
  | .sqin d => Sys2Proof.Machine.execSqin d s
  | .sqout a => Sys2Proof.Machine.execSqout a s
  | .rebindingInterval p => Sys2Proof.Machine.execRebindingInterval p s
  | .periodStart p => Sys2Proof.Machine.execPeriodStart p s
  | .dispatchAgeLimit p q => Sys2Proof.Machine.execDispatchAgeLimit p q s
  | .gangTick p q => Sys2Proof.Machine.execGangTick p q s
  | .gangSwitch p q => Sys2Proof.Machine.execGangSwitch p q s
  | .overrun p o => Sys2Proof.Machine.execOverrun p o s
  | .overrunAbort p o => Sys2Proof.Machine.execOverrunAbort p o s
  | .zmonRelease p t c => Sys2Proof.Machine.execZmonRelease p t c s
  | .alloc w => Sys2Proof.Machine.execAlloc w s
  | .free w => Sys2Proof.Machine.execFree w s
  | .rule w => Sys2Proof.Machine.execRule w s
  | .slabnew w => Sys2Proof.Machine.execSlabnew w s
  | .slabfree w => Sys2Proof.Machine.execSlabfree w s
  | .reclaimTimeout p tier => Sys2Proof.Machine.execReclaimTimeout p tier s
  | .claimMet p tier => Sys2Proof.Machine.execClaimMet p tier s
  | .smPreemptApply p n => Sys2Proof.Machine.execSmPreemptApply p n s
  | .nvmeCompletion p t q status data => Sys2Proof.Machine.execNvmeCompletion p t q status data s
  | .nvmeCommandTimeout p t q => Sys2Proof.Machine.execNvmeCommandTimeout p t q s
  | .pageWalk p t v va => Sys2Proof.Machine.execPageWalk p t v va s
  | .pageMigration p v va => Sys2Proof.Machine.execPageMigration p v va s
  | .slotArrival p full => Sys2Proof.Machine.execSlotArrival p full s
  | .flitResend p => Sys2Proof.Machine.execFlitResend p s
  | .starvationLimit p tier => Sys2Proof.Machine.execStarvationLimit p tier s
  | .readRequest p => Sys2Proof.Machine.execReadRequest p s
  | .readResponse p => Sys2Proof.Machine.execReadResponse p s
  | .write p => Sys2Proof.Machine.execWrite p s
  | .writeAck p => Sys2Proof.Machine.execWriteAck p s
  | .atomic p => Sys2Proof.Machine.execAtomic p s
  | .atomicResponse p => Sys2Proof.Machine.execAtomicResponse p s
  | .nack p => Sys2Proof.Machine.execNack p s
  | .requestTimeout p tag => Sys2Proof.Machine.execRequestTimeout p tag s
  | .multicastWrite p => Sys2Proof.Machine.execMulticastWrite p s
  | .multicastAck p => Sys2Proof.Machine.execMulticastAck p s
  | .reductionContribution p => Sys2Proof.Machine.execReductionContribution p s
  | .syncRequest p => Sys2Proof.Machine.execSyncRequest p s
  | .control p => Sys2Proof.Machine.execControl p s
  | .create w => Sys2Proof.Machine.execCreate w s
  | .mgFree w => Sys2Proof.Machine.execMgFree w s
  | .addMember w => Sys2Proof.Machine.execAddMember w s
  | .del w => Sys2Proof.Machine.execDel w s
  | .handler w => Sys2Proof.Machine.execHandler w s
  | .query w => Sys2Proof.Machine.execQuery w s
  | .netPacketReceive p q k => Sys2Proof.Machine.execNetPacketReceive p q k s
  | .netRetransmitTimeout p t q => Sys2Proof.Machine.execNetRetransmitTimeout p t q s
  | .netSpaceTimeout p t q => Sys2Proof.Machine.execNetSpaceTimeout p t q s
  | .netRequestComplete p t q => Sys2Proof.Machine.execNetRequestComplete p t q s
  | .netRecordComplete p q => Sys2Proof.Machine.execNetRecordComplete p q s
  | .nrxheadWrite a => Sys2Proof.Machine.execNrxheadWrite a s
  | .stub p => Sys2Proof.Machine.execStub p s
  | .stubTouch p v va => Sys2Proof.Machine.execStubTouch p v va s
  | .pullRequest p => Sys2Proof.Machine.execPullRequest p s
  | .pullResponse p => Sys2Proof.Machine.execPullResponse p s
  | .pullAck p => Sys2Proof.Machine.execPullAck p s
  | .repointSlot p => Sys2Proof.Machine.execRepointSlot p s
  | .stubReleaseSlot p => Sys2Proof.Machine.execStubReleaseSlot p s
  | .stubRenewal p k => Sys2Proof.Machine.execStubRenewal p k s
  | .renewalReceive p => Sys2Proof.Machine.execRenewalReceive p s
  | .holderLeaseExpiry p k => Sys2Proof.Machine.execHolderLeaseExpiry p k s
  | .ownerLeaseExpiry p k => Sys2Proof.Machine.execOwnerLeaseExpiry p k s
  | .releaseResend p k => Sys2Proof.Machine.execReleaseResend p k s
  | .holdStall p t c x => Sys2Proof.Machine.execHoldStall p t c x s
  | .holdKeepalive p => Sys2Proof.Machine.execHoldKeepalive p s
  | .stubBind w => Sys2Proof.Machine.execStubBind w s
  | .stubUnbind w => Sys2Proof.Machine.execStubUnbind w s
  | .frecClear k => Sys2Proof.Machine.execFrecClear k s
  | .heartbeat p => Sys2Proof.Machine.execHeartbeat p s
  | .dieFailure p => Sys2Proof.Machine.execDieFailure p s
  | .tileFailure p t => Sys2Proof.Machine.execTileFailure p t s
  | .memoryEccError p sram corrected addr => Sys2Proof.Machine.execMemoryEccError p sram corrected addr s
  | .marginEvent p addr => Sys2Proof.Machine.execMarginEvent p addr s
  | .marginStep p => Sys2Proof.Machine.execMarginStep p s
  | .marginBackoffExpiry p => Sys2Proof.Machine.execMarginBackoffExpiry p s
  | .operatingPointChange p rail => Sys2Proof.Machine.execOperatingPointChange p rail s
  | .railsetWrite p w => Sys2Proof.Machine.execRailsetWrite p w s
  | .currentGrant p cl rail => Sys2Proof.Machine.execCurrentGrant p cl rail s
  | .boostGrant p => Sys2Proof.Machine.execBoostGrant p s
  | .boostExpiry p => Sys2Proof.Machine.execBoostExpiry p s
  | .coolmodeWrite p w => Sys2Proof.Machine.execCoolmodeWrite p w s
  | .coolFlow p z flow => Sys2Proof.Machine.execCoolFlow p z flow s
  | .coolTemp p z temp => Sys2Proof.Machine.execCoolTemp p z temp s
  | .coolPress p kpa => Sys2Proof.Machine.execCoolPress p kpa s
  | .coolVoid p z => Sys2Proof.Machine.execCoolVoid p z s
  | .flowEvacTimeout p z => Sys2Proof.Machine.execFlowEvacTimeout p z s
  | .zoneEvac p z => Sys2Proof.Machine.execZoneEvac p z s
  | .zvalveEvacWrite p z w => Sys2Proof.Machine.execZvalveEvacWrite p z w s
  | .parkTimeout p z => Sys2Proof.Machine.execParkTimeout p z s
  | .primeTimeout p z flow temp void => Sys2Proof.Machine.execPrimeTimeout p z flow temp void s
  | .fullReset => Sys2Proof.Machine.execFullReset s
  | .bootPhaseComplete phase code die svn => Sys2Proof.Machine.execBootPhaseComplete phase code die svn s
  | .dtimeSync now => Sys2Proof.Machine.execDtimeSync now s
  | .rackLinkUp pkg same => Sys2Proof.Machine.execRackLinkUp pkg same s
  | .lockInterfaceRequest p v => Sys2Proof.Machine.execLockInterfaceRequest p v s
  | .startInterfaceRequest p v => Sys2Proof.Machine.execStartInterfaceRequest p v s
  | .stopInterfaceRequest p v => Sys2Proof.Machine.execStopInterfaceRequest p v s
  | .vfConfigChange p v => Sys2Proof.Machine.execVfConfigChange p v s
  | .getMeasurements p k => Sys2Proof.Machine.execGetMeasurements p k s
  | .keyDelivery p slot q v => Sys2Proof.Machine.execKeyDelivery p slot q v s
  | .teardown p v => Sys2Proof.Machine.execTeardown p v s
  | .hostWrite p tgt addr data => Sys2Proof.Machine.execHostWrite p tgt addr data s
  | .hostRead p tgt addr len => Sys2Proof.Machine.execHostRead p tgt addr len s
  | .dirtyLineEviction p home line => Sys2Proof.Machine.execDirtyLineEviction p home line s
  | .powerRemoval => Sys2Proof.Machine.execPowerRemoval s
  | .renewalAcknowledgement p => Sys2Proof.Machine.execRenewalAcknowledgement p s
  | .releaseAcknowledgement p => Sys2Proof.Machine.execReleaseAcknowledgement p s
  | .holdKeepaliveArrival p => Sys2Proof.Machine.execHoldKeepaliveArrival p s
  | .heartbeatArrival p => Sys2Proof.Machine.execHeartbeatArrival p s
  | .netAcknowledgement p t q first count ready => Sys2Proof.Machine.execNetAcknowledgement p t q first count ready s
  | .ideKmKeySet p v => Sys2Proof.Machine.execIdeKmKeySet p v s
  | .teardownComplete p v => Sys2Proof.Machine.execTeardownComplete p v s
  | .zmonHold p q => Sys2Proof.Machine.execZmonHold p q s
  | .conditionCleared p z cause => Sys2Proof.Machine.execConditionCleared p z cause s
  | .slotInjection p => Sys2Proof.Machine.execSlotInjection p s

end Sys2Proof.Machine
end

