-- ==== Sys2Proof/Machine/Issue.lean ====
section
/-! DEFINITION. From a program counter to a bundle and its outcome (R83, R251, R252, R263): fetching, running the bundle's
instructions, and the choice of the stream that issues next. -/

namespace Sys2Proof.Machine

/-! ### Fetching a bundle (R78, R83) -/

/-- An instruction as fetched: its address, and its word or its one parcel. -/
structure Raw where
  addr : Addr
  word : Option Word
  parcel : BitVec 16
  deriving DecidableEq, Repr

/-- Whether the instruction ends its bundle (R79, R85, R88): a parcel of kind 10 or 11 ends it too (log 13). -/
def Raw.stops (r : Raw) : Bool :=
  match r.word with
  | some w => bit w 1
  | none => if bits r.parcel 1 0 == 1 then bit r.parcel 2
    else if bits r.parcel 3 2 == 1 then bit r.parcel 4
    else bits r.parcel 3 2 != 0

/-- Fetch instructions until one ends the bundle, at most four; and the address after them. Of a run of more than four without a stop
bit nothing is fetched behind the fourth: DESIGN CHOICE, log 115. -/
def gather (s : State) (p t part vf : Nat) : Nat → Addr → Except (Nat × Nat) (List Raw × Addr)
  | 0, a => .ok ([], a)
  | n + 1, a => do
    let h ← match fetchParcel s p t part vf a.toNat with | .ok h => .ok h | .error c => .error (c, a.toNat)
    let r ← if isWord h then do
          let w ← fetchWord s p t part vf a.toNat
          pure { addr := a, word := some w, parcel := h }
        else pure { addr := a, word := none, parcel := h }
    let next := a + (if r.word.isSome then 8 else 2)
    if r.stops then pure ([r], next)
    else do
      let (rs, e) ← gather s p t part vf n next
      pure (r :: rs, e)

/-- The instruction of what was fetched. -/
def Raw.decode (r : Raw) : Except Reject Instr :=
  match r.word with | some w => decodeWord w | none => decodeParcel r.parcel

/-- The slot group of an instruction of a bundle (R64): a dictionary parcel takes that of its word (R85). -/
def State.groupOf (s : State) (i : Instr) : Option Nat :=
  match i with
  | .dictionaryParcel stop n => (match s.dictWord stop n.toNat with
      | some w => (match decodeWord w with | .ok j => some (slotGroup j) | .error _ => none)
      | none => none)
  | i => some (slotGroup i)

/-- Whether the groups rise, each at most once (R64, R83). -/
def rising : List Nat → Bool
  | a :: b :: l => a < b && rising (b :: l)
  | _ => true

/-- The instructions of a fetched bundle, or none where its form is illegal (R83, R86, R97). -/
def State.bundle (s : State) (rs : List Raw) : Option (List (Addr × Instr)) :=
  let is := rs.filterMap (fun r => match r.decode with | .ok i => some (r.addr, i) | .error _ => none)
  let body := match is with
    | (_, .rep _ _ _) :: l => l
    | l => l
  let gs := body.filterMap (fun x => s.groupOf x.2)
  if is.length == rs.length && gs.length == body.length && rising gs && (match rs.getLast? with | some r => r.stops | none => false)
  then some is else none

/-! ### Running a bundle -/

/-- The outcome of an instruction that has already been rejected: ILLOP. -/
def illop (s : State) : Out := finish s (trap s cILLOP)

/-- Run a word that a dictionary parcel or a repeat has made. -/
def runWord (s : State) (w : Word) : Out :=
  match decodeWord w with | .ok i => exec i s | .error _ => illop s

/-- Step a word under the repeat in hand (R86, R87). -/
def runStepped (s : State) (i : Instr) : Out :=
  match s.iss.rep with
  | none => exec i s
  | some (m, st, _) => match stepWord i m st s.me.rpi.toNat with | some w => runWord s w | none => illop s

/-- Run one instruction of a bundle: a dictionary parcel and then its word (R85). -/
def runItem (s : State) (x : Addr × Instr) : Out :=
  let s := { s with iss := { s.iss with wpc := x.1 } }
  match x.2 with
  | .dictionaryParcel stop n =>
    (match exec (.dictionaryParcel stop n) s with
     | .next t => (match t.iss.subst with
        | none => .next t
        | some w => let t := s.keepWait { t with iss := { t.iss with subst := none } }
          match decodeWord w with | .ok j => runStepped t j | .error _ => illop t)
     | o => o)
  | i => runStepped s i

/-- What the instruction came to. -/
def lastOf (o : Out) : Last := match o with | .next t => t.iss.last | .fault _ => .idle | .refused _ => .idle

/-- The traps that the instructions of a bundle raise on the state before it, in slot order (R262). -/
def trapsOf (s : State) (is : List (Addr × Instr)) : List (Nat × Out) :=
  is.filterMap fun x =>
    let o := runItem s x
    match lastOf o with
    | .trapped c => some (c, o)
    | _ => none

/-- Run the instructions one after another from the state before the bundle `s`, which a read of a control register still
sees; a wait or a stall leaves the bundle
without effect, but for what it has asked for. -/
def runList (s : State) (t : State) : List (Addr × Instr) → Out
  | [] => .next t
  | [x] => (match runItem t x with
    | .next u => .next (settleWait s u)
    | o => o)
  | x :: xs => (match runItem t x with
    | .next u => (match u.iss.last with
      | .done => runList s (s.keepWait u) xs
      | _ => .next (settleWait s u))
    | o => o)
where
  /-- A waiting bundle's state, from the state before the bundle. -/
  settleWait (s u : State) : State :=
    match u.iss.last with
    | .waiting => (match u.me.wait with
      | some w => { s.beginWait w.kind w.limited with iss := { s.iss with last := .waiting } }
      | none => u)
    | .stalled => { s.setMyCtx { s.myCtx with stalled := true } with iss := { s.iss with last := .stalled } }
    | _ => u

/-- Whether the stream stands before a bundle that needs an outstanding access (R126). -/
def awaitsLoad (o : Out) : Bool :=
  match o with | .next t => t.iss.last == .waiting && t.me.wait.any (·.kind == .gload) | _ => false

/-- Run a bundle's instructions (R83, R262, R263): nothing before an outstanding access that one of them needs has come
(R126); then ILLOP of any of them first, then the first other trap in slot order; `SOFT_TRAP` lets the others take effect. -/
def runBody (s : State) (is : List (Addr × Instr)) : Out :=
  match is with
  | [x] => runItem s x
  | _ =>
    match if s.me.gload.isSome || s.me.snapLoad.isSome then is.find? (fun x => awaitsLoad (runItem s x)) else none with
    | some x => runItem s x
    | none =>
      let ts := trapsOf s is
      match ts.find? (fun e => e.1 == cILLOP) with
      | some e => e.2
      | none => match ts.find? (fun e => e.1 != cSOFT_TRAP) with
        | some e => e.2
        | none =>
          match is.find? (fun x => lastOf (runItem s x) == .waiting) with
          | some x => runItem s x
          | none => runList s { s with iss := { s.iss with was := some s.myTile } } is

/-- Run a bundle, its prefix first (R86). -/
def runBundle (s : State) (is : List (Addr × Instr)) : Out :=
  match is with
  | (a, .rep c m st) :: rest =>
    (match runItem s (a, .rep c m st) with
     | .next t => if t.iss.last == .done then runBody (s.keepWait t) rest else .next t
     | o => o)
  | is => runBody s is

/-! ### One issue -/

/-- After a bundle has taken effect (R86, R111, R112): the next `PC`, the repeat index, and the fetch of a target. -/
def advance (s : State) : State :=
  if s.me.status != .running then s else
  let me := s.me
  let again := match s.iss.rep with | some (_, _, c) => me.rpi != c | none => false
  if again then s.setMe { me with rpi := me.rpi + 1 }
  else
    let me := if s.iss.rep.isSome then { me with rpi := 0 } else me
    match s.iss.go with
    | some (a, n) => s.setMe { me with pc := a, fhold := n }
    | none => s.setMe { me with pc := s.iss.npc }

/-- A bundle of a context has issued: streams that yield to it have one less to wait for (R238). -/
def Stream.yielded (c : Nat) (x : Stream) : Stream := { x with yield := x.yield.filter (· != c) }
def Tile.yielded (t : Tile) (c : Nat) : Tile :=
  { t with ctxs := t.ctxs.map (fun e => (e.1, { e.2 with acc := e.2.acc.yielded c, exe := e.2.exe.yielded c })) }

/-- The state after an issue: the stream has tried in this tile cycle; the issuer is put back. -/
def conclude (s : State) : State :=
  let s := if s.iss.last == .done then (advance s) else s
  let t := s.myTile
  let s := s.setMyTile { t with tried := t.tried ++ [s.iss.ctx * 2 + b2n s.iss.exe] }
  { s with iss := {} }

/-- The issuer set to a stream, at its `PC`. -/
def State.aim (s : State) (p t c : Nat) (exe : Bool) : State :=
  let pc := (s.stream p t c exe).pc
  { s with iss := { peer := p, tile := t, ctx := c, exe := exe, ipc := pc, wpc := pc, npc := pc } }

/-- Fetch and run the bundle at a stream's `PC`. -/
def issueRaw (s : State) (p t c : Nat) (exe : Bool) : Out :=
  let s := s.aim p t c exe
  let x := s.myCtx
  match gather s p t x.part x.vf 4 s.iss.ipc with
  | .error e => finish s (trapAt s e.1 (BitVec.ofNat 64 e.2))
  | .ok (rs, npc) =>
    -- a bundle that goes on, or is repeated, has been fetched before
    let s := if s.me.wait.isSome || s.me.rpi != 0 then s else s.fetched p t x.part x.vf s.iss.ipc.toNat npc.toNat
    let s := { s with iss := { s.iss with npc := npc } }
    match s.bundle rs with
    | none => illop s
    | some is => runBundle s is

/-- Whether a stream's `YIELD` is over (R238): its bundle completes before any other of the cycle, and the stream may issue its
next one in the same cycle. -/
def Stream.yieldOver (x : Stream) : Bool := match x.wait with | some w => w.kind == .yield && w.ready | none => false

/-- One issue, whole. -/
def issueAt (s : State) (p t c : Nat) (exe : Bool) : Out :=
  match issueRaw s p t c exe with
  | .next u =>
    -- the first bundle that issues after an `ERET` starts the count of the restored results (R269)
    let first := (s.ctx p t c).resuming && (u.iss.last == .done || u.iss.last == .waiting)
    let ends := (s.stream p t c exe).yieldOver && u.iss.last == .done
    let v := conclude u
    let v := if ends then v.modTile p t (·.untry c exe) else v
    .next (if first then v.modCtx p t c (fun x => { x with resuming := false }) else v)
  | o => o

/-! ### Choosing the stream (R251, R252) -/

/-- Whether a waiting stream tries again now: what it waits for has come, or it looks again in each tile cycle. -/
def Stream.retries (x : Stream) : Bool :=
  match x.wait with
  | none => false
  | some w => w.ready || w.kind == .poll || w.kind == .gload || w.kind == .ckpt || w.kind == .edit || w.kind == .manager || (match w.kind with | .hold _ => true | _ => false)

def Tile.untried (t : Tile) (c : Nat) (exe : Bool) : Bool := !t.tried.contains (c * 2 + b2n exe)

/-- Whether a stream goes on with a bundle that waits, or may issue its next one, in this tile cycle. -/
def Tile.retry (t : Tile) (c : Nat) (exe : Bool) : Bool :=
  let x := t.ctx c
  x.free exe && (x.stream exe).retries && t.untried c exe
def Tile.fresh (t : Tile) (c : Nat) (exe : Bool) : Bool :=
  let x := t.ctx c
  x.free exe && (x.stream exe).wait.isNone && t.untried c exe

/-- The context of a kind that issues next (R251): the first eligible one after the last that issued. -/
def Tile.pick (t : Tile) (exe : Bool) : Option Nat :=
  let last := if exe then t.lastExe else t.lastAcc
  if (if exe then t.issExe else t.issAcc) then none
  else ((List.range 8).map (fun k => (last + 1 + k) % 8)).find? (fun c => t.fresh c exe)

/-- Mark the issue slot of a kind as used in this tile cycle: a bundle of the context has issued (R238, R251). -/
def Tile.slotUsed (t : Tile) (c : Nat) (exe : Bool) : Tile :=
  if exe then { t.yielded c with issExe := true, lastExe := c } else { t.yielded c with issAcc := true, lastAcc := c }
/-- Whether a bundle of a context has issued in this tile cycle: then the context is not stalled in it (R251, R252). -/
def Tile.hasIssued (t : Tile) (c : Nat) : Bool := (t.issAcc && t.lastAcc == c) || (t.issExe && t.lastExe == c)

/-- What a tile does next with its streams: an issue of a stream of a context, and whether it takes the issue slot; a
context's stall; the issue of both streams of a context of which the access stream's bundle traps (R263), and whether
each takes its slot; or nothing for a stream that stays before its next bundle in this cycle (R126, R252). -/
inductive Turn where
  | issue (c : Nat) (exe slot : Bool)
  | stall (c : Nat)
  | pair (c : Nat) (slotA slotE : Bool)
  | bar (c : Nat) (exe : Bool)
  deriving DecidableEq, Repr

/-- Whether the partition's vector budget for the period is spent on a context's pipe, if the partition owns it (R323). -/
def State.spentPipe (s : State) (p t c : Nat) : Bool :=
  let x := s.ctx p t c
  let n := s.cfg.pipeOf p t c x.part
  let k : Pipe := SMap.get {} (s.tile p t).pipes n
  s.cfg.engineOwner p t (5 + n) == x.part && ((s.die p).part x.part).vbud <= k.used
/-- Whether a bundle of a context could find no room: its pipe is occupied (R149), or its results in flight come near to
64 (R253). -/
def State.crowded (s : State) (p t c : Nat) : Bool :=
  let x := s.ctx p t c
  let k : Pipe := SMap.get {} (s.tile p t).pipes (s.cfg.pipeOf p t c x.part)
  k.left != 0 || 56 < x.count

/-- Whether a context stalls in this tile cycle (R149, R252, R253, R323), in which no bundle of it has issued: the budget of its
pipe is spent, or a bundle that one of its streams would go on with finds its pipe occupied or the results in flight at their
limit. -/
def State.stalls (s : State) (p t c : Nat) : Bool :=
  let tl := s.tile p t
  let wants := fun (exe : Bool) => tl.retry c exe || (tl.fresh c exe && !(if exe then tl.issExe else tl.issAcc))
  (tl.ctx c).live && !tl.hasIssued c && (s.spentPipe p t c ||
    (s.crowded p t c && [false, true].any (fun exe => wants exe && lastOf (issueRaw s p t c exe) == .stalled)))

/-- The issues that a tile may make in this tile cycle, in ascending order of context, the access stream first: bundles
that go on, and the ones picked (R125, R169, R187, R207, R239, R246, R251, R254). -/
def Tile.turns (t : Tile) : List (Nat × Bool × Bool) :=
  (List.range 8).flatMap fun c => [false, true].filterMap fun exe =>
    if t.retry c exe then some (c, exe, false) else if t.pick exe == some c then some (c, exe, true) else none

/-- Whether a stream stays before its next bundle in this cycle: the bundle needs an outstanding access (R126), or finds no
room where a bundle of the context has already issued in the cycle. -/
def State.barred (s : State) (p t c : Nat) (exe : Bool) : Bool :=
  let x := s.stream p t c exe
  let o := issueRaw s p t c exe
  ((x.gload.isSome || x.snapLoad.isSome) && awaitsLoad o) || ((s.spentPipe p t c || s.crowded p t c) && lastOf o == .stalled)

/-- A stream whose `YIELD` is over. -/
def Tile.yieldEnd (t : Tile) : Option (Nat × Bool) :=
  ((List.range 8).flatMap (fun c => [(c, false), (c, true)])).find? (fun e => t.retry e.1 e.2 && ((t.ctx e.1).stream e.2).yieldOver)

/-- A tile's next turn. Of a context's two streams the access stream goes first; where its bundle would trap, both are
looked at together (R263). -/
def nextOnTile (s : State) (p t : Nat) : Option Turn :=
  let tl := s.tile p t
  if tl.failed || tl.evac || tl.closed then none
  else match (List.range 8).find? (s.stalls p t) with
  | some c => some (.stall c)
  | none => match tl.yieldEnd with
  | some (c, exe) => some (.issue c exe false)
  | none => match tl.turns.find? (fun e => s.barred p t e.1 e.2.1) with
  | some (c, exe, _) => some (.bar c exe)
  | none => match tl.turns with
    | [] => none
    | [(c, exe, slot)] => some (.issue c exe slot)
    | (c, exe, slot) :: (c', _, slot') :: _ =>
      if c == c' then match lastOf (issueRaw s p t c false) with
        | .trapped _ => some (.pair c slot slot')
        | _ => some (.issue c exe slot)
      else some (.issue c exe slot)

/-- The next turn of the domain. -/
def nextIssue (s : State) : Option (Nat × Nat × Turn) :=
  s.dies.findSome? fun d =>
    if s.fenced.contains d.1 then none
    else d.2.tiles.findSome? fun t => (nextOnTile s d.1 t.1).map (fun x => (d.1, t.1, x))

/-- The access stream's trap of a cycle in which the execute stream's bundle, which raised none, has been run: the cause that the
bundle raised before it (R239, R263), with what its reads leave where it raises that still. -/
def trapAfter (s u : State) (p t c : Nat) : Out :=
  match issueRaw s p t c false with
  | .next v =>
    let x := v.stream p t c false
    let same := fun (w : State) => let y := w.stream p t c false; y.ecause == x.ecause && y.eaddr == x.eaddr && y.epc == x.epc
    match issueRaw u p t c false with
    | .next w =>
      if w.iss.last == v.iss.last && same w then .next (conclude w)
      else .next (conclude ((u.takeTrap p t c false (bits x.ecause 7 0) x.eaddr (bits x.ecause 15 8) false x.dfr (x.epc.setWidth 57)).aim
        p t c false))
    | o => o
  | o => o

/-- Run both streams of a context whose access stream's bundle traps (R263): the execute stream's bundle first; where it
traps too, its trap is taken and the access stream's bundle counts as not issued. -/
def issuePair (s : State) (p t c : Nat) (slotA slotE : Bool) : Out :=
  let use := fun (s : State) (slot exe : Bool) => if slot then s.setTile p t ((s.tile p t).slotUsed c exe) else s
  let s := use s slotE true
  match issueAt s p t c true with
  | .next u => (match lastOf (issueRaw s p t c true) with
    | .trapped _ => .next u
    | _ => trapAfter (use s slotA false) (use u slotA false) p t c)
  | o => o

/-- Make a turn of the schedule. -/
def issueNext (s : State) (n : Nat × Nat × Turn) : Out :=
  let (p, t, turn) := n
  match turn with
  | .issue c exe slot => issueAt (if slot then s.setTile p t ((s.tile p t).slotUsed c exe) else s) p t c exe
  | .stall c => .next (s.modCtx p t c fun x => { x with stalled := true })
  | .pair c slotA slotE => issuePair s p t c slotA slotE
  | .bar c exe => .next (s.modTile p t fun x => { x with tried := x.tried ++ [c * 2 + b2n exe] })

end Sys2Proof.Machine
end

