-- ==== Sys2Proof/Machine/Agenda.lean ====
section
/-! DEFINITION. What the device does by itself next: the events that are due, in one order (log 1), and which events only
the outside causes. -/

namespace Sys2Proof.Machine

/-- An event that may be due, as what it does. -/
abbrev Act := State → Out

/-! ### Events of a context, a tile, a command -/

/-- A wait's end (R125, R139, R140, R145, R229, R230, R389). -/
def waitEvents (s : State) (p t c : Nat) (x : Bool) : List Act :=
  let tl := s.tile p t
  match (s.stream p t c x).wait with
  | none => []
  | some w =>
    if w.ready then []
    else
      (if tl.linesCome w.kind then [execStalledReadProceeds p t c x] else []) ++
      (if tl.counterCome w.kind then [execWaitbPass p t c x] else []) ++
      (if tl.versionCome w.kind then [execWaitvPass p t c x] else []) ++
      (if tl.publishCome w.kind then [execPublishSwap p t c x] else []) ++
      (if w.hopeless && tl.orphaned w.kind then [execWaitOrphan p t c x] else []) ++
      (match w.kind with
       | .hold _ => [execHoldStall p t c x]
       | _ => if s.timedOut p t c x then [execWaitTimeout p t c x] else [])

/-- A queue's changes (R19, R127). -/
def queueEvents (tl : Tile) (p t c q : Nat) (u : Queue) : List Act :=
  (if u.entries.any (·.age == 1) then [execQueueEntryPresent p t c q] else []) ++
  (if u.freeing.contains 1 then [execQueuePlaceFreed p t c q] else []) ++
  (if u.entries.any (fun e => e.fillable tl || e.unmade) then [execLdqEntryFill p t c q] else [])

/-- Whether a stream's access has its data and no cause (R126). -/
def Stream.arrived (x : Stream) : Bool := match x.gload with | some g => g.data.isSome && g.cause == 0 | none => false

def ctxEvents (s : State) (p t c : Nat) (x : Ctx) : List Act :=
  (if x.inflight.any (·.due) then [execResultWriteback p t c] else []) ++
  x.queues.flatMap (fun q => queueEvents (s.tile p t) p t c q.1 q.2) ++
  (if x.acc.arrived && !x.longInFlight false then [execGlobalLoadDataArrival p t c false false] else []) ++
  (if x.exe.arrived && !x.longInFlight true then [execGlobalLoadDataArrival p t c true false] else []) ++
  -- of two causes of one cycle the execute stream's is taken (R263)
  waitEvents s p t c true ++ waitEvents s p t c false ++
  (match x.asyncs with | k :: _ => if x.takesAsync then [execAsyncInterrupt p t c k] else [] | [] => [])

/-- A command's events (R187 to R190, R207 to R210, R226, R380, R382). -/
def cmdEvents (s : State) (p t : Nat) (k : Cmd) : List Act :=
  let tl := s.tile p t
  let copy := k.queues.contains 4
  match k.st with
  | .finished => if tl.retirable k then [if copy then execCopyCommandRetire p t k.seq else execEngineCommandRetire p t k.seq] else []
  | .queued => if s.starts p t k then [if copy then execCopyCommandStart p t k.seq else execEngineCommandStart p t k.seq] else []
  | .running =>
    (if tl.lineCame k then [execEngineLineFillResume p t k.seq] else []) ++
    (if tl.lineLeft k then [execBackpressureWriteResume p t k.seq] else []) ++
    (match k.i with
     | .nvrd _ => [execNvmeCommandTimeout p t k.seq]
     | .nvwr _ => [execNvmeCommandTimeout p t k.seq]
     | .netq _ => [execNetRequestComplete p t k.seq, execNetSpaceTimeout p t k.seq]
     | _ => [])

def tileEvents (s : State) (p t : Nat) (tl : Tile) : List Act :=
  tl.ctxs.flatMap (fun c => ctxEvents s p t c.1 c.2) ++
  tl.cmds.flatMap (cmdEvents s p t)

/-! ### Events of the fabric (R363 to R370) -/

/-- The event of a control slot, by what it carries. -/
def controlEvent (p sort : Nat) : Act :=
  match sort with
  | 3 => execPullAck p
  | 4 => execRepointSlot p
  | 5 => execStubReleaseSlot p
  | 6 => execRenewalReceive p
  | 7 => execRenewalAcknowledgement p
  | 8 => execReleaseAcknowledgement p
  | 9 => execHoldKeepaliveArrival p
  | 11 => execHeartbeatArrival p
  | _ => execControl p

/-- The event of a slot that a station has taken, by its kind. -/
def packetEvent (k : Packet) : Act :=
  match k.kind with
  | 0x01 => execReadRequest k.dst
  | 0x02 => execReadResponse k.dst
  | 0x03 => execWrite k.dst
  | 0x04 => execWriteAck k.dst
  | 0x05 => execAtomic k.dst
  | 0x06 => execAtomicResponse k.dst
  | 0x07 => execNack k.dst
  | 0x08 => execMulticastWrite k.dst
  | 0x09 => execMulticastAck k.dst
  | 0x0A => execReductionContribution k.dst
  | 0x0C => execStub k.dst
  | 0x0D => execPullRequest k.dst
  | 0x0E => execPullResponse k.dst
  | 0x0F => execHandlerMessageReceive k.dst
  | 0x10 => execSyncRequest k.dst
  | _ => controlEvent k.dst (k.arg 0)

def netEvents (s : State) : List Act :=
  s.net.map fun k => if k.taken then
      -- a line that starts a thread is taken once the tile's streams have issued (R260)
      (if k.kind == 0x08 && (s.threadLine k.dst).isSome then (fun s => event s s) else packetEvent k)
    else if !k.injected then execSlotInjection k.src
    else if k.hops.isEmpty then execSlotArrival k.dst false else slotHop k

/-! ### Events of a die -/

/-- The graph sequencer and the stage scheduler (R236, R310 to R325). -/
def schedEvents (s : State) (p : Nat) (d : Die) : List Act :=
  d.ops.flatMap (fun o =>
    -- a stage that is owed a context gains the one that comes free before the operator's end is looked at (R236, R317): DESIGN
    -- CHOICE, log 130
    (List.range o.2.stages.length).flatMap (fun g =>
      let st : Stage := o.2.stages.getD g {}
      if st.owed || (!st.begun && !st.q.isEmpty) then [execStageFirstInput p o.1 g] else []) ++
    (if s.opDone p o.1 then [execOperatorEnd p o.1] else []) ++
    (if o.2.since + 400000 <= s.now && !o.2.overrun then [execOverrun p o.1] else []) ++
    (if o.2.since + 500000 <= s.now && o.2.overrun then [execOverrunAbort p o.1] else [])) ++
  d.launches.flatMap (fun l =>
    [execLaunchComplete p l.1] ++ (if l.2.any (fun x => !(x.aging s.now).isEmpty) then [execDispatchAgeLimit p l.1] else []) ++
    [execOperatorDispatch p l.1]) ++
  (List.range 4).flatMap (fun q =>
    (if (d.part q).tickDue s.now && (d.part q).switch.isNone then [execGangTick p q] else []) ++
    (match (d.part q).switch with | some (t, _) => if t + 25000 <= s.now then [execGangSwitch p q] else [] | none => []))

/-- Slots, claims, stubs, holds and requests (R340 to R343, R354, R370, R381, R387 to R391). -/
def tableEvents (s : State) (p : Nat) (d : Die) : List Act :=
  d.sync.flatMap (fun o => if o.2.queue.isEmpty then [] else [execAcqGrant p o.1]) ++
  d.groups.flatMap (fun g => if g.2.isOpen then [execGbarGenerationComplete p g.1] else []) ++
  d.claims.flatMap (fun c => [execClaimMet p c.1, execReclaimTimeout p c.1]) ++
  d.slots.flatMap (fun x => if x.2.doomed then [execSmPreemptApply p x.1] else []) ++
  d.swaps.map (fun w => execNvmeCommandTimeout p managerTile w.id) ++
  d.migDue.map (fun m => execPageMigration p m.1 (BitVec.ofNat 64 m.2)) ++
  d.reqs.flatMap (fun r => if r.since + 100000 <= s.now then [execRequestTimeout p r.tag] else []) ++
  d.stubs.flatMap (fun b => [execStubRenewal p b.1, execHolderLeaseExpiry p b.1]) ++
  d.holds.map (fun h => execOwnerLeaseExpiry p h.1) ++
  (List.range d.resends.length).map (fun k => execReleaseResend p k) ++
  (if (s.heldReqs p).isEmpty then [] else [execHoldKeepalive p]) ++
  d.rx.map (fun r => execNetRecordComplete p r.part)

/-- Rails, current and coolant (R425, R431 to R438). -/
def powerEvents (s : State) (p : Nat) (d : Die) : List Act :=
  let w := d.power
  w.due.map (fun r => execOperatingPointChange p r) ++
  d.askCur.map (fun r => execCurrentGrant p (r.tile / 8) r.rail) ++
  (if w.boosts.any (fun b => b.ends <= s.now) then [execBoostExpiry p] else []) ++
  (if w.boosts.any (fun b => !b.granted) then [execBoostGrant p] else []) ++
  (if w.backoff.isSome then [execMarginBackoffExpiry p] else []) ++
  w.zones.flatMap (fun z =>
    (if z.2.state == 1 then [execZoneEvac p z.1] else []) ++
    (if z.2.state == 2 || (z.2.state == 3 && !z.2.primed) then [execParkTimeout p z.1] else []) ++
    (if z.2.state == 3 then [execPrimeTimeout p z.1 z.2.flow z.2.temp z.2.void] else []) ++
    (match z.2.lowSince with
     | some t => (if t + 100000 <= s.now then [execCoolFlow p z.1 z.2.flow] else []) ++
         (if t + 2100000 <= s.now then [execFlowEvacTimeout p z.1] else [])
     | none => []) ++
    z.2.clearAt.map (fun c => execConditionCleared p z.1 c.1)) ++
  (if w.pressClear.isSome then [execConditionCleared p 0 cCOOL_PRESS] else [])

/-- What comes round by the clock on every die (R316, R321, R323, R421, R433), listed or not. -/
def clockEvents (s : State) (p : Nat) : List Act :=
  let d := s.die p
  (if d.periodAt < s.now / 1000 then [execPeriodStart p] else []) ++
  (if d.rebindAt < s.now / 10000 then [execRebindingInterval p] else []) ++
  (if d.power.marginAt < s.now / 10 ^ 10 then [execMarginStep p] else []) ++
  (if d.beatAt + beatTime <= s.now then [execHeartbeat p] else []) ++
  (if 3 * beatTime < s.now && (s.silent p || s.spent p) then [execDieFailure p] else [])

/-! ### The agenda -/

/-- Every event that may be due, in the order in which they are tried. -/
def candidates (s : State) : List Act :=
  let up := fun (p : Nat) => !s.fenced.contains p
  let dies := s.dies.filter (fun d => up d.1)
  dies.flatMap (fun d => d.2.tiles.flatMap (fun t => tileEvents s d.1 t.1 t.2)) ++
  netEvents s ++
  dies.flatMap (fun d => schedEvents s d.1 d.2 ++ tableEvents s d.1 d.2 ++ powerEvents s d.1 d.2 ++
    d.2.tdisp.flatMap (fun v => if v.2.tearing then [execTeardownComplete d.1 v.1] else [])) ++
  ((List.range s.peers).filter up).flatMap (clockEvents s)

/-- What the next event that changes anything makes of the state. -/
def nextEvent (s : State) : Option State :=
  (candidates s).findSome? fun f => match f s with | .next t => if t == s then none else some t | _ => none

/-- What a tile takes from outside once its streams have issued in the cycle (R232, R254, R260): an entry, a message for a dormant
context, or a multicast line that starts a thread. -/
def lateActs (s : State) (p t : Nat) (tl : Tile) : List Act :=
  (if tl.enqr.isEmpty then [] else [execEnqrAccept p t]) ++ (if tl.handlers.isEmpty then [] else [execTillerThreadStart p t]) ++
    (if s.threadLine p == some t then [execMulticastWrite p] else [])

/-- The first of these that changes anything. Nothing issues on the tile after it in the same cycle. -/
def lateEvent (s : State) : Option State :=
  s.dies.findSome? fun d =>
    if s.fenced.contains d.1 then none
    -- the handler's tile of a multicast, even where nothing has touched it yet
    else
      let tiles : SMap Tile := match s.threadLine d.1 with | some t => d.2.tiles.put t (d.2.tile t) | none => d.2.tiles
      tiles.findSome? fun t =>
        (lateActs s d.1 t.1 t.2).findSome? fun (f : Act) =>
          match f s with
          | .next u => if u == s then none else some (u.modTile d.1 t.1 fun x => { x with closed := true })
          | _ => none

/-- The launches whose tag words have been completed in this cycle, lowest VF first in each partition (R309). -/
def dueLaunch (s : State) : Option Act :=
  s.dies.findSome? fun d =>
    if s.fenced.contains d.1 then none
    else (d.2.launchDue.foldl (fun (m : Option (Nat × Nat × Nat)) x =>
        match m with
        | some y => if s.cfg.partOf d.1 x.1 == s.cfg.partOf d.1 y.1 && x.1 < y.1 then some x else some y
        | none => some x) none).map (fun x => execLaunchTagWrite d.1 x.1 x.2.1)

/-! ### What the outside causes -/

/-- The events that come from outside the device, or from its physics: hosts, drivers, sensors, storage, networks,
errors, failures. Every other event follows from the state. -/
def outside (i : Instr) : Bool :=
  match i with
  | .nvmeCompletion .. | .flitResend .. | .timingReplay .. | .memoryEccError .. | .marginEvent .. | .coolFlow .. | .coolTemp ..
  | .coolPress .. | .coolVoid .. | .primeTimeout .. | .netPacketReceive .. | .netAcknowledgement .. | .netRetransmitTimeout ..
  | .zmonHold .. | .zmonRelease .. | .lockInterfaceRequest .. | .startInterfaceRequest .. | .stopInterfaceRequest ..
  | .vfConfigChange .. | .ideKmKeySet .. | .keyDelivery .. | .getMeasurements .. | .hostWrite .. | .hostRead .. | .fullReset
  | .bootPhaseComplete .. | .dtimeSync .. | .rackLinkUp .. | .powerRemoval | .dieFailure .. | .tileFailure ..
  | .dirtyLineEviction .. | .pageWalk .. | .railsetWrite .. | .coolmodeWrite .. | .zvalveEvacWrite .. | .teardown ..
  | .globalLoadDataArrival .. | .slotArrival .. => true
  | _ => false

end Sys2Proof.Machine
end

