-- ==== Sys2Proof/Machine/Tick.lean ====
section
/-! DEFINITION. The end of a tile cycle (R99, R112, R149, R251 to R253, R269): everything that counts cycles counts one,
running commands make a micro-step, and `DTIME` goes on by 5/9 ns (R7, log 3). -/

namespace Sys2Proof.Machine

/-! ### Contexts -/

/-- A result one counted cycle later (R149). -/
def Pending.count (e : Pending) : Pending := { e with left := e.left - 1 }

/-- Whether a context counts this cycle: it is not stalled, not replaying, and a bundle has issued since `ERET` (R252, R269,
R414). -/
def Ctx.counts (c : Ctx) : Bool := c.status == .running && !c.stalled && c.replay == 0 && !c.resuming

/-- A result that its cycle's writes and changes decide, once they are made (R130, R142). -/
def Pending.look (t : Tile) (e : Pending) : Pending :=
  match e.peek with
  | none => e
  | some k => { e with w := e.w.withVal (t.peeked k), shift := e.shift.map (fun x => (x.1, t.peeked k)), peek := none }

/-- One stream at the end of a cycle: idling and target fetches go on (R88, R112), and a `YIELD` is over for the next cycle where
the others have issued or its 8 cycles have passed (R238). -/
def Stream.tick (x : Stream) : Stream :=
  { x with
    hold := x.hold - 1, fhold := x.fhold - 1, yhold := x.yhold - 1
    wait := x.wait.map (fun w => if w.kind == .yield && (x.yield.isEmpty || x.yhold <= 1) then { w with ready := true } else w)
    j := x.j.map (fun e => (e.1, { e.2 with ready := e.2.ready - 1 })) }

/-- A queue at the end of a cycle: windows close and places come free (R19). -/
def Queue.tick (q : Queue) : Queue :=
  { entries := q.entries.map (fun e => if 1 < e.age then { e with age := e.age - 1 } else e)
    freeing := q.freeing.map (fun n => if 1 < n then n - 1 else n) }

/-- One context at the end of a cycle. -/
def Ctx.tick (t : Tile) (c : Ctx) : Ctx :=
  let l := c.inflight.map (·.look t)
  { c with
    acc := c.acc.tick, exe := c.exe.tick
    queues := c.queues.map (fun q => (q.1, q.2.tick))
    snapshot := c.snapshot.map (·.look t)
    inflight := l.map (fun e => if e.soon || c.counts then e.count else e)
    stalled := false
    replay := c.replay - 1 }

/-! ### Pipes -/

/-- One pipe at the end of a cycle: `MSTEP` counts the completed passes (R36, R149). -/
def Pipe.tick (p : Pipe) : Pipe :=
  if p.left == 0 then p
  else { p with left := p.left - 1, mstep := if (p.left - 1) % p.per == 0 then p.mstep + 1 else p.mstep }

/-- Go on with the passes that a trap has stopped (R36, R269): they take the pipe once it is free and the budget is not
spent, and count against both; where either has held them back, the context stalls until they are done. `spent` says
whether a count is at the partition's budget. -/
def Tile.restart (cfg : Cfg) (spent : Nat → Nat → Bool) (p n : Nat) (t : Tile) (c : Nat) : Tile :=
  let x := t.ctx c
  match x.owed with
  | none => t
  | some o =>
    let k := cfg.pipeOf p n c x.part
    let u : Pipe := SMap.get {} t.pipes k
    if o.passes == 0 then
      t.setCtx c (if u.ctx == c && u.left != 0 then { x with stalled := true } else { x with owed := none })
    else if u.left != 0 || spent x.part u.used then t.setCtx c { x with stalled := true, owed := some { o with late := true } }
    else
      let u' : Pipe := { u with
        ctx := c, left := o.passes * o.per, per := o.per, cyc := o.cyc, mstep := o.done, used := u.used + o.passes * o.cyc }
      { t with pipes := t.pipes.put k u' }.setCtx c
        (if o.late then { x with stalled := true, owed := some { o with passes := 0 } } else { x with owed := none })

/-! ### Tiles -/

/-- Whether nothing can end a stream's wait on a counter any more, for the next tile cycle to see (R231). -/
def Stream.markHopeless (t : Tile) (x : Stream) : Stream :=
  { x with wait := x.wait.map (fun w => { w with hopeless := t.orphaned w.kind }) }

/-- One tile at the end of a cycle. -/
def Tile.tick (cfg : Cfg) (spent : Nat → Nat → Bool) (p n : Nat) (t : Tile) : Tile :=
  let t : Tile := { t with
    ctxs := t.ctxs.map (fun c => (c.1, { c.2 with acc := c.2.acc.markHopeless t, exe := c.2.exe.markHopeless t }.tick t))
    pipes := t.pipes.map (fun k => (k.1, k.2.tick)) }
  let t := (t.ctxs.map (·.1)).foldl (fun t c => t.restart cfg spent p n c) t
  { t with tried := [], issAcc := false, issExe := false, closed := false, usedBufs := [], cyc := [] }

/-- The current that a command at the head of its queues asks for, once (R428, R430). -/
def Die.askFor (d : Die) (t at_ : Nat) (tl : Tile) (c : Cmd) : Die :=
  match c.current with
  | none => d
  | some (rail, u) =>
    if u == 0 || !tl.startable c || c.badCurrent d.power t then d
    else c.queues.foldl (fun d q =>
      let r : Reserve := { tile := t, eng := grantEngine q, id := c.seq, rail := rail, units := u, part := c.part, at_ := at_ }
      let same := fun (x : Reserve) => x.tile == t && x.eng == r.eng && x.id == r.id
      if d.askCur.any same || d.inForce.any same then d else { d with askCur := d.askCur ++ [r] }) d

/-! ### The machine -/

/-- The values pushed in a cycle enter the stage's queue at its end (R320). -/
def Stage.merge (g : Stage) : Stage := if g.new.isEmpty then g else { g with q := g.q ++ g.new, new := [] }

/-- The running commands of a die's working tiles, each a micro-step (R36). -/
def State.runCmds (s : State) (p t : Nat) : State :=
  let tl := s.tile p t
  if tl.failed || tl.evac then s
  else ((tl.cmds.filter (·.st == .running)).map (·.seq)).foldl (fun s n => s.microStep p t n) s

/-- Whether whoever asked for pages still waits for them (R341): a stream, or a move that has not begun. -/
def Die.stillAsks (d : Die) (tier : Nat) (k : PageClaim) : Bool :=
  if 2 ^ 20 <= k.asker then
    (d.tile ((k.asker - 2 ^ 20) / 2 ^ 32)).cmds.any (fun c => c.seq == (k.asker - 2 ^ 20) % 2 ^ 32 && c.st == .running && c.step == 0)
  else match (((d.tile (k.asker / 16)).ctx (k.asker / 2 % 8)).stream (k.asker % 2 == 1)).wait with
    | some w => w.kind == .pages tier || w.got.contains (.pages tier)
    | none => false
/-- Claims whose askers have given them up are gone. -/
def Die.liveClaims (d : Die) : Die :=
  { d with claims := d.claims.filterMap fun e =>
      let l := e.2.filter (d.stillAsks e.1)
      if l.isEmpty then none else some (e.1, l) }

/-- The contexts of a die that are still ending, as tile and context. -/
def Die.endings (d : Die) : List (Nat × Nat) :=
  d.tiles.flatMap (fun t => (t.2.ctxs.filter (·.2.status == .ending)).map (fun c => (t.1, c.1)))

/-- One tile cycle of one die. -/
def State.tickDie (s : State) (p : Nat) : State :=
  let s := (s.die p).endings.foldl (fun s e => s.letGo p e.1 e.2) s
  let s := s.submitSwaps p
  let ts := (s.die p).tiles.map (·.1)
  let s := ts.foldl (fun s t => s.modTile p t Tile.applySets) s
  let s := ts.foldl (fun s t => s.runCmds p t) s
  let s := ts.foldl (fun s t => (s.tile p t).cmds.foldl (fun s c => s.modDie p fun d => d.askFor t s.ninths (d.tile t) c) s) s
  let s := ts.foldl (fun s t => s.modTile p t (·.tick s.cfg (fun q used => ((s.die p).part q).vbud <= used) p t)) s
  let s := s.modDie p fun d => { d.liveClaims with ops := d.ops.map (fun o => (o.1, { o.2 with stages := o.2.stages.map Stage.merge })) }
  ((s.die p).claims.map (·.1)).foldl (fun s tier => s.openClaim p tier) s

/-- `DTIME` after a tile cycle: it gains 5 ns in 9 cycles (R7). -/
def State.passTime (s : State) : State :=
  { s with dtime := s.dtime + BitVec.ofNat 64 ((s.frac + 5) / 9), frac := (s.frac + 5) % 9 }

/-- The end of a tile cycle. -/
def State.tick (s : State) : State :=
  let s := { s with nvOrder := s.nvOrder.filter (fun e => (s.unsubmitted (e.1 / 64 * 8) (e.1 % 64)).contains e) }
  (((s.dies.map (·.1)).filter (fun p => !s.fenced.contains p)).foldl (fun s p => s.tickDie p) s).passTime

/-! ### One step -/

/-- The operators of stopped contexts are aborted after whatever stopped them (R266, R413). -/
def State.settled_ (s : State) : State := s.settleStops ((s.dies.map (fun d => d.2.ops.length)).sum)
def settle (o : Out) : Out := match o with | .next t => .next t.settled_ | o => o

/-- What one step does: an event from outside, an event that is due, a bundle, a launch of this cycle, what tiles take from
outside after their own issues, or the end of the tile cycle. -/
def State.action (s : State) : Out :=
  match s.inputs with
  | i :: l =>
    let s := { s with inputs := l }
    if outside i then exec i s else .next s
  | [] =>
    if !s.powered then .fault .unpowered
    else match nextEvent s with
    | some t => .next t
    | none => match nextIssue s with
      | some n => issueNext s n
      | none => match dueLaunch s with
        | some f => f s
        | none => match lateEvent s with
          | some t => .next t
          | none => .next s.tick

end Sys2Proof.Machine
end

