-- ==== Sys2Proof/Machine/Place.lean ====
section
/-! DEFINITION. An instruction placed where the machine fetches next (log 2): VF 0 of die 0 maps one 2 MiB code page, and
context 0 of tile 0 runs at its first byte, as a dispatched operator's context would. -/

namespace Sys2Proof.Machine

/-- The nodes of the placed page table, from level 4 down, and the frame of the code. -/
def placeNode : Nat := 16
def placeFrame : Nat := 512

/-- The leaf of the code page: key slot 1, writable, executable, on the die itself (R350). -/
def placeLeaf : Word := BitVec.ofNat 64 (2 ^ 50 + placeFrame * 4096 + 2 ^ 9 + 2 ^ 8 + 3)

/-- The placed page table: three nodes that each point at the next, and the leaf. -/
def placeTable (m : Memory) : Memory :=
  let ptr := fun (k : Nat) => (placeNode + k + 1) * 4096 + 1
  let m := [0, 1, 2].foldl (fun m k => Memory.write m ((placeNode + k) * 4096) 8 (ptr k)) m
  Memory.write m ((placeNode + 3) * 4096) 8 placeLeaf.toNat

/-- A word that ends a bundle and reads one register into X0, which discards it. -/
def placeEnd : Word := encodeWord (.getc { stop := true, m := 0, imm := 0x014, t1 := 0, a := 0, d := 0 })
/-- A full word that a repeat or a dictionary parcel may stand for: `NOP`, with or without stop. -/
def placeNop (stop : Bool) : Word := encodeWord (.nop { stop := stop, imm := 0, d := 0 })

/-- What follows the placed instruction, so that its bundle is one (R83, R86). -/
def placeRest (bs : List Byte) : List Byte :=
  let h := BitVec.ofNat 16 (leNat (bs.take 2))
  let r : Raw := { addr := 0, word := if isWord h then some (BitVec.ofNat 64 (leNat bs)) else none, parcel := h }
  match r.decode with
  | .ok (.rep _ _ _) => leBytes 8 (placeNop true).toNat
  | _ => if r.stops then [] else leBytes 8 placeEnd.toNat

/-- The stream that may issue an instruction: the execute stream where it may. -/
def placeExe (bs : List Byte) : Bool :=
  match decode (bs ++ List.replicate 8 0) with | .ok (i, _) => streamOk true i | .error _ => true

/-- Place the bytes of an instruction. -/
def State.placeCode (s : State) (bs : List Byte) : State :=
  let d := s.die 0
  let all := bs ++ placeRest bs
  let exe := placeExe bs
  let run : Stream := { status := .running }
  let c : Ctx := { status := .running, part := s.cfg.partOf 0 0, acc := if exe then {} else run, exe := if exe then run else {} }
  let n := BitVec.ofNat 10 (leNat (bs.take 2) / 8)
  let t : Tile := { ctxs := [(0, c)], dict := SMap.set 0 [] n.toNat (placeNop false), dictN := 1024 }
  { s with powered := true, inputs := [] }.setDie 0 { d.setTile 0 t with
    dram := Memory.write (placeTable d.dram) (placeFrame * 4096) all.length (leNat all)
    vfroot := SMap.set 0 d.vfroot 0 (BitVec.ofNat 64 (2 ^ 63 + placeNode * 4096))
    keys := SMap.set none d.keys 1 (some (s.cfg.tenantOf 0 0)) }

end Sys2Proof.Machine
end

