-- ==== Sys2Proof/Machine/Step.lean ====
section
/-! DEFINITION. One step of the domain, and an instruction placed where the next step fetches it. -/

namespace Sys2Proof.Machine

/-- One step (log 1): the action that is due, and the aborts that follow a stop. -/
def step (s : State) : Host.Outcome State Fault Refusal := settle s.action

/-- The state with an instruction of `nbits` bits `w` where the next step fetches (log 2): the bits as the opcode table
numbers them, with zeros above up to a full word. -/
def State.withFetchWord (s : State) (nbits w : Nat) : State :=
  s.placeCode (leBytes (if nbits ≤ 16 then 2 else 8) (w % 2 ^ nbits))

end Sys2Proof.Machine
end

