-- ==== Sys2Proof/Safety.lean ====
section
/-! DEFINITION. What counts as a safe run, in the terms of the statements: when an encoded instruction executes normally,
how its effect stands in the state, and the invariants of the machine. -/

namespace Sys2Proof.Machine

/-! ### Normal execution -/

/-- An encoded instruction executes normally when the device has power (R441), the issuing stream may issue it (R84),
no outstanding access holds it back (R126, R279), and fewer than 64 results are in flight (R253). -/
def Ready (i : Instr) (s : State) : Prop :=
  s.powered = true ∧ streamOk s.iss.exe i = true ∧ loadCheck i s = .ok () ∧ s.myCtx.count < 64

/-- The state in which the issuing stream's instruction has taken effect: it waits no longer. -/
def State.complete (t : State) : State := { t.setMe { t.me with wait := none } with iss := { t.iss with last := .done } }

/-- The state in which the issuing stream waits, from the state `t` that its bundle has come to (R145, R252). -/
def State.waits (s t : State) (k : WaitKind) (limited : Bool) : State :=
  { t.beginWait k limited with iss := { s.iss with last := .waiting } }

/-- The state in which the issuing stream has taken a precise trap at its bundle (R263). -/
def State.trapped (s t : State) (cause : Nat) (addr : Word) : State :=
  { t.takeTrap s.iss.peer s.iss.tile s.iss.ctx s.iss.exe cause addr 0 false false s.iss.ipc with
    iss := { s.iss with last := .trapped cause } }

/-! ### One step -/

/-- The state in which a stream's bundle is run: its issue slot is used, and the bundle is the one at its `PC` (R251). -/
def State.atIssue (s : State) (p t c : Nat) (exe slot : Bool) : State :=
  (if slot then s.setTile p t ((s.tile p t).slotUsed c exe) else s).aim p t c exe
/-- The same for the instruction that is the whole bundle at `PC`, the next bundle at `npc`: its lines have been fetched, once for
a bundle that waits or is repeated (R288, R354, R356). -/
def State.running (u : State) (npc : Addr) : State :=
  let x := u.myCtx
  let v := if u.me.wait.isSome || u.me.rpi != 0 then u
    else u.fetched u.iss.peer u.iss.tile x.part x.vf u.iss.ipc.toNat npc.toNat
  { v with iss := { v.iss with npc := npc, wpc := v.iss.ipc } }
/-- What a step adds around the bundle that stream has run from `s` (R83, R111, R112, R238, R269): `PC` moves on, a taken transfer
goes to its target, and the stream has tried in this tile cycle, unless it was a `YIELD` that is over; the first bundle that issues
after an `ERET` starts the count of the restored results. -/
def State.afterIssue (s : State) (p t c : Nat) (exe : Bool) (o : Out) : Out :=
  match o with
  | .next u =>
    let v := conclude u
    let v := if (s.stream p t c exe).yieldOver && u.iss.last == .done then v.modTile p t (·.untry c exe) else v
    .next (if (s.ctx p t c).resuming && (u.iss.last == .done || u.iss.last == .waiting)
      then v.modCtx p t c (fun x => { x with resuming := false }) else v)
  | o => o

/-! ### Scalar results, by exact arithmetic (R98 to R107) -/

/-- A and B of a scalar form: the low W bits of an operand as its type reads them (R98). -/
def State.intOf (s : State) (t : BitVec 4) (f : BitVec 8) : Int := intVal t.toNat (lowW t.toNat (s.reg f))
/-- The low W bits of an operand, unsigned. -/
def State.natOf (s : State) (t : BitVec 4) (f : BitVec 8) : Int := (lowW t.toNat (s.reg f) : Nat)
/-- A result modulo 2^W, extended to 64 bits by the type (R98). -/
def wrapT (t : BitVec 4) (v : Int) : Word := extT t.toNat (modW t.toNat v)
/-- The shift amount of a register form: the low 8 bits of B, never masked to the width (R102). -/
def State.amountOf (s : State) (f : BitVec 8) : Nat := (s.reg f).toNat % 256

/-- What R100, R102 to R104 and R107 give as the result of a scalar form: destination and value. Division stands in
`divisionResult`, bit fields and counts in statements of their own. -/
def scalarResult (i : Instr) (s : State) : Option (BitVec 8 × Word) :=
  match i with
  | .add f => some (f.d, wrapT f.t1 (s.intOf f.t1 f.a + s.intOf f.t1 f.b))
  | .sub f => some (f.d, wrapT f.t1 (s.intOf f.t1 f.a - s.intOf f.t1 f.b))
  | .mul f => some (f.d, wrapT f.t1 (s.intOf f.t1 f.a * s.intOf f.t1 f.b))
  | .mulh f => some (f.d, wrapT f.t1 (s.intOf f.t1 f.a * s.intOf f.t1 f.b / 2 ^ width f.t1.toNat))
  | .mulhn f => some (f.d, wrapT f.t1 (s.intOf f.t1 f.a * s.intOf f.t1 f.b / 2 ^ width f.t1.toNat))
  | .min f => some (f.d, wrapT f.t1 (min (s.intOf f.t1 f.a) (s.intOf f.t1 f.b)))
  | .max f => some (f.d, wrapT f.t1 (max (s.intOf f.t1 f.a) (s.intOf f.t1 f.b)))
  | .minn f => some (f.d, wrapT f.t1 (min (s.intOf f.t1 f.a) (s.intOf f.t1 f.b)))
  | .maxn f => some (f.d, wrapT f.t1 (max (s.intOf f.t1 f.a) (s.intOf f.t1 f.b)))
  | .and f => some (f.d, extT f.t1.toNat (lowW f.t1.toNat (s.reg f.a &&& s.reg f.b)))
  | .or f => some (f.d, extT f.t1.toNat (lowW f.t1.toNat (s.reg f.a ||| s.reg f.b)))
  | .xor f => some (f.d, extT f.t1.toNat (lowW f.t1.toNat (s.reg f.a ^^^ s.reg f.b)))
  | .shl f => some (f.d, wrapT f.t1 (s.natOf f.t1 f.a * 2 ^ s.amountOf f.b))
  | .shr f => some (f.d, wrapT f.t1 (s.natOf f.t1 f.a / 2 ^ s.amountOf f.b))
  | .sra f => some (f.d, wrapT f.t1 (sint (lowW f.t1.toNat (s.reg f.a)) (width f.t1.toNat) / 2 ^ s.amountOf f.b))
  | .addx f => some (f.d, s.reg f.a + extT f.t1.toNat (lowW f.t1.toNat (s.reg f.b)) <<< f.m.toNat)
  | .addi f => some (f.d, wrapT f.t1 (s.intOf f.t1 f.a + f.imm.toInt))
  | .andi f => some (f.d, extT f.t1.toNat (lowW f.t1.toNat (s.reg f.a &&& f.imm.signExtend 64)))
  | .ori f => some (f.d, extT f.t1.toNat (lowW f.t1.toNat (s.reg f.a ||| f.imm.signExtend 64)))
  | .xori f => some (f.d, extT f.t1.toNat (lowW f.t1.toNat (s.reg f.a ^^^ f.imm.signExtend 64)))
  | .shli f => some (f.d, wrapT f.t1 (s.natOf f.t1 f.a * 2 ^ (f.imm.toNat % 256)))
  | .shri f => some (f.d, wrapT f.t1 (s.natOf f.t1 f.a / 2 ^ (f.imm.toNat % 256)))
  | .srai f => some (f.d, wrapT f.t1 (sint (lowW f.t1.toNat (s.reg f.a)) (width f.t1.toNat) / 2 ^ (f.imm.toNat % 256)))
  | .movi f => some (f.d, f.imm.signExtend 64)
  | .movh f => some (f.d, BitVec.ofNat 64 (f.imm.toNat * 2 ^ 32 + (s.reg f.d).toNat % 2 ^ 32))
  | _ => none

/-- Quotient and remainder of R101, by the form's type: destination and value. -/
def divisionResult (i : Instr) (s : State) : Option (BitVec 8 × Word) :=
  let quot := fun (f : RegF) => (f.d, if s.natOf f.t1 f.b = 0 then wrapT f.t1 (-1)
    else wrapT f.t1 ((s.intOf f.t1 f.a).tdiv (s.intOf f.t1 f.b)))
  let rest := fun (f : RegF) => (f.d, if s.natOf f.t1 f.b = 0 then wrapT f.t1 (s.intOf f.t1 f.a)
    else wrapT f.t1 ((s.intOf f.t1 f.a).tmod (s.intOf f.t1 f.b)))
  match i with
  | .div f => some (quot f)
  | .divn f => some (quot f)
  | .rem f => some (rest f)
  | .remn f => some (rest f)
  | _ => none

/-- The conditions of R109 on A and B. -/
def condHolds (cc : Nat) (a b : Int) (x y : Nat) : Prop :=
  match cc with
  | 0 => a = b
  | 1 => a ≠ b
  | 2 => a < b
  | 3 => a ≥ b
  | 4 => a ≤ b
  | 5 => a > b
  | 6 => x &&& y ≠ 0
  | _ => x &&& y = 0

/-! ### Memory accesses -/

/-- A line's data may be used: it is not poisoned, and its crc agrees (R129). -/
def Tile.good (t : Tile) (n : Nat) : Bool := !(t.lineInfo n).poison && (t.lineInfo n).crcDiff == 0
/-- A line agrees with the writes that this tile cycle has made to it, each within the line (R33). -/
def Tile.lineOk (t : Tile) (n : Nat) : Prop :=
  match t.cyc.find n with
  | none => True
  | some c => (∀ w ∈ c.writes, w.off + w.bytes.length ≤ 128) ∧
      Memory.read t.scr (128 * n) 128 = (c.writes.foldl applyWrite (c.data, c.info)).1
/-- No atomic is among the writes that this tile cycle has made: an atomic's value may hang on bytes that another write of the
cycle puts in place (R33, R130). -/
def Tile.noAtom (t : Tile) : Prop := ∀ n c, t.cyc.find n = some c → ∀ w ∈ c.writes, w.rmw = none
/-- A byte of scratchpad (R32). -/
def Tile.byte (t : Tile) (a : Nat) : Byte := Memory.byte t.scr a
/-- A byte of a die's memory: tier 0 stacked SRAM, tier 1 DRAM. -/
def State.byteOf (s : State) (p tier a : Nat) : Byte := Memory.byte ((s.die p).bytes tier) a
/-- An entry at the tail of a queue of the issuing context (R19). -/
def State.pushed (s : State) (q : Nat) (e : QEntry) : State :=
  s.setMyCtx (s.myCtx.setQueue q { s.myCtx.queue q with entries := (s.myCtx.queue q).entries ++ [{ e with age := 5 }] })
/-- What a queue load puts into its queue: `BQ` holds one bit (R127). -/
def queueValue (q t v : Nat) : Word := if q = 5 then (if v = 0 then 0 else 1) else extT t v
/-- The operation of an atomic form on its operands (R130 to R132): expected value, operand and kind. -/
def atomicOp (i : Instr) (s : State) : Option (MemF × GOp) :=
  match i with
  | .atom f => some (f, .atom (bits f.m 3 0) (s.reg f.b))
  | .cas f => some (f, .cas (s.reg f.d) (s.reg f.b))
  | .atomf f => some (f, .atomf (bits f.m 3 0) (s.reg f.b))
  | _ => none

/-! ### Vector results, element by element (R146 to R163, R170) -/

/-- Element `e` of width `w` of a vector register. -/
def Ctx.velem (c : Ctx) (w : Nat) (r : BitVec 8) (e : Nat) : Nat := elem w (SMap.get 0 c.v (num r)).toNat e
/-- An exact integer written to a type: modulo 2^W, or clamped to the type's range (R150). -/
def fitInt (t : Nat) (sat : Bool) (x : Int) : Nat :=
  let lo : Int := if isSigned t then -(2 ^ (width t - 1)) else 0
  let hi : Int := if isSigned t then 2 ^ (width t - 1) - 1 else 2 ^ width t - 1
  ((if sat then max lo (min hi x) else x) % 2 ^ width t).toNat
/-- A sub-element of a vector field, exactly: as an integer of the type, and as a value of the format (R150, R151). -/
def State.vint (s : State) (f : RegF) (r : BitVec 8) (q : Nat) : Int := intVal f.t1.toNat (elem (width f.t1.toNat) (s.vreg r) q)
def State.vval (s : State) (f : RegF) (r : BitVec 8) (q : Nat) : FVal :=
  valueOf f.t1.toNat (elem (width f.t1.toNat) (s.vreg r) q) (bit f.m 9)

/-- The arithmetic forms (R150, R151, R163, R170): whether sub-elements and twice the pipe time, the latency, and what
sub-element q becomes. -/
def laneResult (i : Instr) (s : State) : Option (RegF × Bool × Bool × Nat × (Nat → Nat)) :=
  let arith := fun (f : RegF) (gi : Int → Int → Int → Int) (gf : FVal → FVal → FVal → FVal) =>
    let t := f.t1.toNat
    some (f, true, false, 4, fun q =>
      if isFloat t then roundV t (s.rnd f.m q) (gf (s.vval f f.a q) (s.vval f f.b q) (s.vval f f.e q))
      else fitInt t (bit f.m 7) (gi (s.vint f f.a q) (s.vint f f.b q) (s.vint f f.e q)))
  let real := fun (f : RegF) (g : FVal → RVal) =>
    some (f, true, true, 8, fun q => roundTo f.t1.toNat (s.rnd f.m q) (g (s.vval f f.a q)))
  -- a sum of opposite values is −0 only under RDN (R42)
  let down := fun (f : RegF) => bits f.m 6 4 == 3
  match i with
  | .vadd f => arith f (fun a b _ => a + b) (fun a b _ => FVal.add a b (down f))
  | .vsub f => arith f (fun a b _ => a - b) (fun a b _ => FVal.add a b.neg (down f))
  | .vmul f => arith f (fun a b _ => a * b) (fun a b _ => FVal.mul a b)
  | .vfma f => arith f (fun a b c => a * b + c) (fun a b c => FVal.add (FVal.mul a b) c (down f))
  | .vfms f => arith f (fun a b c => a * b - c) (fun a b c => FVal.add (FVal.mul a b) c.neg (down f))
  | .vmin f => arith f (fun a b _ => min a b) (fun a b _ => FVal.minMax false a b)
  | .vmax f => arith f (fun a b _ => max a b) (fun a b _ => FVal.minMax true a b)
  | .vabs f => arith f (fun a _ _ => max a (-a)) (fun a _ _ => a.abs)
  | .vneg f => arith f (fun a _ _ => -a) (fun a _ _ => a.neg)
  | .vexp2 f => real f FVal.exp2
  | .vlog2 f => real f FVal.log2
  | .vrcp f => real f FVal.rcp
  | .vrsq f => real f FVal.rsq
  | .vdot4 f =>
    let byte := fun (n : Bool) (r : BitVec 8) (q : Nat) =>
      if n then (elem 8 (s.vreg r) q : Int) else (BitVec.ofNat 8 (elem 8 (s.vreg r) q)).toInt
    let p := fun q => byte (bit f.m 0) f.a q * byte (bit f.m 1) f.b q
    some (f, false, false, 4, fun q => fitInt 4 (bit f.m 7)
      ((BitVec.ofNat 32 (elem 32 (s.vreg f.e) q)).toInt + p (4 * q) + p (4 * q + 1) + p (4 * q + 2) + p (4 * q + 3)))
  | _ => none

/-- The shifts of R153 on sub-element q: the amount is the low 8 bits of b's, never masked. -/
def shiftResult (i : Instr) (s : State) : Option (RegF × (Nat → Nat)) :=
  let val := fun (f : RegF) (r : BitVec 8) (q : Nat) => elem (width f.t1.toNat) (s.vreg r) q
  match i with
  | .vshl f => some (f, fun q => val f f.a q * 2 ^ (val f f.b q % 256) % 2 ^ width f.t1.toNat)
  | .vshr f => some (f, fun q => val f f.a q / 2 ^ (val f f.b q % 256))
  | .vsra f => some (f, fun q => ((sint (val f f.a q) (width f.t1.toNat) / 2 ^ (val f f.b q % 256)) % 2 ^ width f.t1.toNat).toNat)
  | _ => none

/-- The bitwise forms of R152 on elements of width w. -/
def bitwise (i : Instr) : Option (RegF × (Nat → Nat → Nat → Nat)) :=
  match i with
  | .vand f => some (f, fun _ a b => a &&& b)
  | .vor f => some (f, fun _ a b => a ||| b)
  | .vxor f => some (f, fun _ a b => a ^^^ b)
  | .vnot f => some (f, fun w a _ => 2 ^ w - 1 - a)
  | _ => none

/-- The conversions of class X but for `CVTI`, `XFP6S` and `XSHENC` (R176 to R184): the limit on N, the widths of the operands,
and what element e becomes. -/
def convResult (i : Instr) (s : State) : Option (RegF × Nat × List Nat × (Nat → Nat)) :=
  let val := fun (f : RegF) (e : Nat) => valueOf (t2of f.m) (elem (width (t2of f.m)) (s.vreg f.a) e) (bit f.m 9)
  let put := fun (f : RegF) (e : Nat) (v : FVal) => roundV f.t1.toNat (s.rnd f.m e) v
  match i with
  | .cvt f => some (f, 2048, [width (t2of f.m)], fun e =>
      let c := elem (width (t2of f.m)) (s.vreg f.a) e
      if isFloat f.t1.toNat || isFloat (t2of f.m) then put f e (val f e)
      else fitInt f.t1.toNat (bit f.m 7) (intVal (t2of f.m) c))
  | .xunp f => some (f, 256, [width (t2of f.m)], fun e => put f e ((val f e).scale8 (elem 8 (s.reg f.b).toNat (e / 32))))
  | .xpack f => some (f, 256, [width (t2of f.m)], fun e => put f e ((val f e).unscale8 (elem 8 (s.reg f.b).toNat (e / 32))))
  | .xscale f => some (f, 2048, [width (t2of f.m)], fun e => put f e ((val f e).scale8 (elem 8 (s.vreg f.b) (e / 32))))
  | .xfp6j f => some (f, 2048, [6], fun e =>
      put f e ((fmtOf (16 + t2of f.m)).value (elem 4 (s.vreg f.a) e * 4 + elem 2 (s.vreg f.b) e)))
  | .xshdec f =>
    let k := match bits f.m 1 0 with | 0 => 8 | 1 => 4 | _ => 2
    let at_ := fun (w r o e : Nat) => r / 2 ^ (if bit f.m 2 then o else 0) / 2 ^ (w * e) % 2 ^ w
    some (f, 2048, [8], fun e =>
      let c := at_ 2 (s.vreg f.a) 0 e * 64 + (if k = 2 then 0 else at_ 2 (s.vreg f.b) 4096 e * 16) +
        (if k = 8 then at_ 4 (s.vreg f.e) 8192 e else 0)
      if isFloat f.t1.toNat then roundV f.t1.toNat {} ((FVal.ofInt (sheaf2v c k)).shift (-1))
      else fitInt f.t1.toNat false (sheaf2v c k))
  | _ => none

/-! ### Engine commands (R186, R187, R192, R207, R212) -/

/-- The command that an M or C form makes of its operands once its checks pass, or the cause and address of the check that
fails; whether the current entry is that of the matrix arrays, and whether the copy engine takes it. -/
def engineCmd (i : Instr) (s : State) : Option (Bool × Chk Cmd) :=
  let e := s.site
  match i with
  | .ldstat f => some (true, prepLdstat f e (s.reg f.a) 0 0)
  | .mma f => some (true, prepMma f e (s.reg f.a) (s.reg f.b) 0)
  | .attn f => some (true, prepAttn f e (s.reg f.a) (s.reg f.b) (s.reg f.e))
  | .aclr f => some (true, prepAclr f e 0 0 0)
  | .ard f => some (true, prepArd f e (s.reg f.a) 0 0)
  | .awr f => some (true, prepAwr f e (s.reg f.a) 0 0)
  | .ascl f => some (true, prepAscl f e (s.reg f.a) (s.reg f.b) 0)
  | .msmx f => some (true, prepMsmx f e (s.reg f.a) (s.reg f.b) 0)
  | .mgo f => some (true, prepMgo f e 0 0 0)
  | .cgo f => some (false, prepCgo f e 0 0 0)
  | .cpy f => some (false, prepCpy f e (s.reg f.a) (s.reg f.b) (s.reg f.e))
  | .gath f => some (false, prepGath f e (s.reg f.a) (s.reg f.b) (s.reg f.e))
  | .scat f => some (false, prepScat f e (s.reg f.a) (s.reg f.b) (s.reg f.e))
  | .decomp f => some (false, prepDecomp f e (s.reg f.a) (s.reg f.b) (s.reg f.e))
  | .slabmv f => some (false, prepSlabmv f e (s.reg f.a) (s.reg f.b) 0)
  | .dsend f => some (false, prepDsend f e (s.reg f.a) (s.reg f.b) (s.reg f.e))
  | .spull f => some (false, prepSpull f e (s.reg f.a) (s.reg f.b) 0)
  | .sdrop f => some (false, prepSdrop f e (s.reg f.a) 0 0)
  | .sfwd f => some (false, prepSfwd f e (s.reg f.a) (s.reg f.b) 0)
  | .mcst f => some (false, prepMcst f e (s.reg f.a) (s.reg f.b) 0)
  | .fred f => some (false, prepFred f e (s.reg f.a) (s.reg f.b) (s.reg f.e))
  | .tierpf f => some (false, prepTierpf f e (s.reg f.a) (s.reg f.b) 0)
  | .nvrd f => some (false, prepNvrd f e (s.reg f.a) (s.reg f.b) (s.reg f.e))
  | .nvwr f => some (false, prepNvwr f e (s.reg f.a) (s.reg f.b) (s.reg f.e))
  | .netq f => some (false, prepNetq f e (s.reg f.a) (s.reg f.b) 0 (s.cfg.sendQueue s.iss.peer))
  | _ => none

/-- The command as the issuing stream queues it (R51, R187, R207, R245), for the operator that the tile is bound to (R228). -/
def State.asQueued (s : State) (matrix : Bool) (c : Cmd) : Cmd :=
  { c with ctx := s.iss.ctx, exe := s.iss.exe, vf := s.myCtx.vf, part := s.myCtx.part, op := s.myCtx.op, seed := s.myCtx.srseed,
           salt := s.me.salt, current := s.currentFor matrix }
/-- The state with a command in its queues; the copy engine numbers reductions by group (R224) and storage commands by queue pair
(R226), and notes what a multicast waits for (R280). -/
def State.withCmd (s : State) (matrix : Bool) (c : Cmd) : State :=
  let u := s.setMyTile (s.myTile.enqueue (s.asQueued matrix c))
  if matrix then u else u.numbered s.iss.peer s.iss.tile

/-! ### Control registers (R8, R9, R25, R247) -/

/-- What `GETC` reads of the registers of the issuing context and stream, its tile's counters and buffers, and its VF's
registers of the die, as they stood before the bundle (R83). -/
def controlValue (n : Nat) (s : State) : Option Word :=
  let t := s.iss.was.getD s.myTile
  let c := t.ctx s.iss.ctx
  let x := c.stream s.iss.exe
  if n = 0x010 then (if s.iss.exe = true then some c.vshape else none)
  else if n = 0x011 then (if s.iss.exe = true then some c.lctl else none)
  else if n = 0x013 then some c.waitto
  else if n = 0x015 then some c.srseed
  else if n = 0x016 then some (x.salt.setWidth 64)
  else if n = 0x017 then some c.lparam
  else if n = 0x019 then some c.sbind
  else if 0x020 ≤ n ∧ n ≤ 0x02B then
    let j : Steer := SMap.get {} x.j (n - 0x020)
    some (BitVec.ofNat 64 ((if j.tvalid then 2 ^ 63 else 0) + (if j.cond then 2 ^ 62 else 0) + j.target.toNat))
  else if n = 0x030 then some x.tvec
  else if n = 0x031 then some x.epc
  else if n = 0x032 then some x.ecause
  else if n = 0x033 then some x.eaddr
  else if 0x100 ≤ n ∧ n ≤ 0x13F then some ((t.counter (n - 0x100)).val.setWidth 64)
  else if 0x140 ≤ n ∧ n ≤ 0x17F then
    let k := t.counter (n - 0x140)
    some (BitVec.ofNat 64 (k.pending.toNat * 2 ^ 32 + k.rights.toNat * 2 ^ 16 + (if k.err then 1 else 0)))
  else if 0x200 ≤ n ∧ n ≤ 0x2FF then
    let b := t.buffer (n - 0x200)
    some (if b.valid then b.version.setWidth 64 else 0)
  else if n = 0x321 then some c.smarg
  else if n = 0x322 then some c.smres
  else if n = 0x3C0 then some (SMap.get 0 s.myDie.vfroot c.vf)
  else if n = 0x3D1 then some c.mgarg
  else if n = 0x3D2 then some c.mgres
  else if n = 0x3F0 then some (t.chaffs.setWidth 64)
  else if n = 0x401 then some c.curst
  else none

/-- What `SETC` leaves, of the registers that a program may write: a per-tile register takes the write at the end of the tile cycle,
and a read-only register ignores it. -/
def controlWrite (n : Nat) (v : Word) (s : State) : Option State :=
  let c := s.myCtx
  let x := s.me
  if n = 0x013 then some (s.setMyCtx { c with waitto := v })
  else if n = 0x016 then some (s.setMe { x with salt := v.setWidth 32 })
  else if n = 0x030 then (if bit v 0 = false ∧ bits v 63 57 = 0 then some (s.setMe { x with tvec := v }) else none)
  else if n = 0x031 then (if bit v 0 = false ∧ bits v 63 57 = 0 then some (s.setMe { x with epc := v }) else none)
  else if 0x140 ≤ n ∧ n ≤ 0x17F then some (s.setLater n v)
  else if 0x1C8 ≤ n ∧ n ≤ 0x1D1 then
    some (if n % 2 = 0 ∧ s.cfg.engineOwner s.iss.peer s.iss.tile ((n - 0x1C8) / 2) = s.myCtx.part then s.setLater n v else s)
  else if n = 0x321 then some (s.setMyCtx { c with smarg := v })
  else if n = 0x3D1 then some (s.setMyCtx { c with mgarg := v })
  else if n = 0x012 ∨ n = 0x014 ∨ n = 0x015 ∨ n = 0x017 ∨ n = 0x018 ∨ n = 0x019 ∨ n = 0x032 ∨ n = 0x033 ∨ n = 0x034 ∨
      (0x020 ≤ n ∧ n ≤ 0x02B) ∨ (0x100 ≤ n ∧ n ≤ 0x13F) ∨ (0x180 ≤ n ∧ n ≤ 0x187) ∨ (0x200 ≤ n ∧ n ≤ 0x2FF) ∨
      n = 0x322 ∨ n = 0x3C0 ∨ n = 0x401 then some s
  else none

/-! ### Slots of the sequence manager (R239) -/

/-- The issuing partition's slot n, in use. -/
def State.ownSlot (s : State) (n : Nat) (x : Slot) : Prop :=
  s.myDie.slot n = x ∧ x.state ≠ 0 ∧ s.cfg.partOf s.iss.peer x.vf = s.myCtx.part
/-- A slot written, and the form's result. -/
def State.slotResult (s : State) (n : Nat) (x : Slot) (d : BitVec 8) (v : Nat) : State :=
  (s.setMyDie (s.myDie.setSlot n x)).yResult d (BitVec.ofNat 64 v) 1

/-! ### Invariants -/

/-- Every memory of a tile in canonical form. -/
def Tile.memOk (t : Tile) : Bool := t.scr.wf

/-- Every memory of a die in canonical form. -/
def Die.memOk (d : Die) : Bool :=
  d.dram.wf && d.sram.wf && d.swap.wf && d.tiles.all (fun t => t.2.memOk) && d.windows.all (fun w => w.2.bytes.wf) &&
    d.netwin.all (fun w => w.2.wf)

/-- Every memory of the domain in canonical form, so that equal memories are equal data. -/
def State.memOk (s : State) : Bool := s.dies.all fun d => d.2.memOk

/-- A context whose shape R20 allows, now and once the results that wait for it have landed. -/
def Ctx.shapeOk (c : Ctx) : Bool :=
  vsOk c.vshape && (c.inflight ++ c.snapshot).all fun e => match e.w with | .vshape w => vsOk w | _ => true
/-- Every context's shape is legal. -/
def State.shapesOk (s : State) : Bool := s.dies.all fun d => d.2.tiles.all fun t => t.2.ctxs.all fun c => c.2.shapeOk

/-- The configuration block and the number of packages (R2, R444): fixed from reset on. -/
def State.fixed (s : State) : Cfg × Nat := (s.cfg, s.packages)

end Sys2Proof.Machine
end

