-- ==== Sys2Proof/Certificates/Slice0/Obligations.lean ====
section
/-! DEFINITION. The statements for the provers. "Ready" says when an encoded instruction executes normally (Safety.lean); the
state after it is given in full, so that each such statement is a completion and a frame at once. -/

open Sys2Proof Sys2Proof.Machine

/-! ### Encoding -/

/-- R79 to R97: decoding a full word and encoding a well-formed instruction undo each other, and nothing else decodes. R78,
R79: the bytes of a well-formed instruction decode to it, whatever follows, and the rest is left. -/
def Obligations.DecodeInvertsEncode : Prop :=
  (∀ (w : Word) (i : Instr),
    decodeWord w = .ok i ↔ (opcode i).1 < 7 ∧ isParcel i = false ∧ wf i = true ∧ encodeWord i = w) ∧
  (∀ (i : Instr) (rest : List Byte), wf i = true → ((opcode i).1 < 7 ∨ isParcel i = true) →
    decode (encode i ++ rest) = .ok (i, rest))

/-- Words written out from the encoding tables decode to what they stand for (chapters 5 to 11), and a word of a class or an
operation that no table gives does not decode. -/
def Obligations.TableWordsDecode : Prop :=
  -- nop #20; sub.i32 x4, x5, x6; srai.i32 x4, x5, #40; prep j2, 64 bytes back
  decodeWord 0x0000000002600002 = .ok (.nop ⟨true, 19, 0⟩) ∧
  decodeWord 0x00008000C0A08042 = .ok (.sub ⟨true, 0, 0, 4, 0, 6, 5, 4⟩) ∧
  decodeWord 0x0000005080A084C2 = .ok (.srai ⟨true, 0, 40, 4, 5, 4⟩) ∧
  decodeWord 0x001FFFFFFC184802 = .ok (.prep ⟨true, -32, 0xC2⟩) ∧
  -- ld.n16 x9, [x4 + 256] {sp=1, fe=take}; vfma v1, v2, v3, v4; cvti.i32.f32 x4, x5 {rtz}
  decodeWord 0x2022006000812006 = .ok (.ld ⟨true, true, 1, 256, 3, 0, 4, 9⟩) ∧
  decodeWord 0x000100806040206A = .ok (.vfma ⟨true, 0, 0, 8, 4, 3, 2, 1⟩) ∧
  decodeWord 0x0030800000A0802E = .ok (.cvti ⟨true, 0, 24, 4, 0, 0, 5, 4⟩) ∧
  -- mma.i8 c2, x5, x6 {unit=a0, zero=1}; cpy c1, x4, x5, x6; waitb c3, x5, #4
  decodeWord 0x08002000C0B84092 = .ok (.mma ⟨true, 128, 0, false, 1, 0, 6, 5, 0xC2⟩) ∧
  decodeWord 0x000000C0A0982056 = .ok (.cpy ⟨true, 0, 0, false, 0, 6, 5, 4, 0xC1⟩) ∧
  decodeWord 0x0000000800B8601A = .ok (.waitb ⟨true, 0, 4, 0, 5, 0xC3⟩) ∧
  -- class 7, and operation 0xFF of class S
  (∀ i, decodeWord 0x000000000000001E ≠ .ok i) ∧ (∀ i, decodeWord 0x0000000000001FE2 ≠ .ok i)

/-! ### Steps and reset -/

/-- A step runs the instruction that is the bundle at the `PC` of the stream whose turn it is (R78, R83, R251); of two bundles
of a context that trap in one cycle, the execute stream's is run and the access stream's counts as not issued (R263). A bundle
of several instructions, a prefix or a dictionary parcel runs its words one after another. -/
def Obligations.StepRunsDecoded : Prop :=
  ∀ (s : State) (p t c : Nat) (exe slot : Bool) (r : Raw) (npc : Addr) (i : Instr),
    s.inputs = [] → s.powered = true → nextEvent s = none →
    gather (s.atIssue p t c exe slot) p t (s.ctx p t c).part (s.ctx p t c).vf 4 (s.stream p t c exe).pc = .ok ([r], npc) →
    r.decode = .ok i → (∀ n m k, i ≠ .rep n m k) → (∀ b n, i ≠ .dictionaryParcel b n) →
    let u := s.atIssue p t c exe slot
    let after := Machine.exec i (u.running npc)
    (nextIssue s = some (p, t, .issue c exe slot) → Machine.step s = settle (u.afterIssue p t c exe after)) ∧
    -- where the access stream's bundle would trap, and the execute stream's traps too
    (∀ (slotA : Bool) (k : Nat), nextIssue s = some (p, t, .pair c slotA slot) → exe = true → lastOf after = .trapped k →
      Machine.step s = settle (u.afterIssue p t c exe after))

/-- Where an instruction does not execute normally (R84, R441): without power everything but a full reset and a removal of
power stops by name, with no effect; an encoded instruction that its stream may not issue is ILLOP and does nothing else. -/
def Obligations.WhereNothingRuns : Prop :=
  (∀ (i : Instr) (s : State), s.powered = false → i ≠ .fullReset → i ≠ .powerRemoval →
    Machine.exec i s = .fault .unpowered) ∧
  (∀ (i : Instr) (s : State), (opcode i).1 < 7 → s.powered = true → streamOk s.iss.exe i = false →
    Machine.exec i s = .next (s.trapped s cILLOP 0)) ∧
  (∀ i : Instr, (2 ≤ (opcode i).1 ∧ (opcode i).1 ≤ 4 → ∀ exe, streamOk exe i = exe) ∧ ((opcode i).1 = 5 → ∀ exe, streamOk exe i = !exe)) ∧
  (∀ (f : MemF) (exe : Bool), streamOk exe (.vld f) = exe ∧ streamOk exe (.vst f) = exe ∧ streamOk exe (.ldq f) = !exe ∧
    ∀ i, i = .ld f ∨ i = .st f ∨ i = .atom f ∨ i = .cas f ∨ i = .atomf f → streamOk exe i = (!exe || f.sp))

/-- The state right after reset (R14, R20, R33, R104, R441): power, no context running, memory without a byte listed, the
shape of 4 rows of 128 columns of 32 bits, and no line full. -/
def Obligations.AfterReset : Prop :=
  State.reset.powered = true ∧ State.reset.memOk = true ∧ State.reset.fixed = ({}, 1) ∧
  (∀ p t n, ((State.reset.tile p t).lineInfo n).full = false ∧ ((State.reset.tile p t).lineInfo n).poison = false) ∧
  (∀ p t a, (State.reset.tile p t).byte a = 0) ∧ (∀ p tier a, State.reset.byteOf p tier a = 0) ∧
  (∀ p t c, bits (State.reset.ctx p t c).vshape 4 0 + 1 = 4 ∧ bits (State.reset.ctx p t c).vshape 11 5 + 1 = 128 ∧
    bits (State.reset.ctx p t c).vshape 13 12 = 2 ∧ (State.reset.ctx p t c).count = 0)

/-- No step changes the configuration block or the number of packages (R2, R444), whatever it runs. -/
def Obligations.StepKeepsConfiguration : Prop :=
  ∀ (s t : State), Machine.step s = .next t → t.fixed = s.fixed

/-- No step loses the canonical form of a memory, so that equal memories stay equal data (the model's own form, log 18). -/
def Obligations.StepKeepsMemories : Prop :=
  ∀ (s t : State), s.memOk = true → Machine.step s = .next t → t.memOk = true

/-- Every shape that a context holds, or that is on its way to it, is one that R20 allows, and no step changes that: a form
that would write another takes ILLOP. -/
def Obligations.StepKeepsShapes : Prop :=
  State.reset.shapesOk = true ∧ (∀ s : State, s.shapesOk = true → vsOk s.myCtx.vshape = true) ∧
  (∀ (s t : State), s.shapesOk = true → Machine.step s = .next t → t.shapesOk = true)

/-! ### Scalar instructions -/

/-- `ADD`, `SUB`, `MUL`, `MULH`, `MULHN`, `MIN`, `MAX`, `MINN`, `MAXN`, `AND`, `OR`, `XOR`, `SHL`, `SHR`, `SRA`, `ADDX`,
`ADDI`, `ANDI`, `ORI`, `XORI`, `SHLI`, `SHRI`, `SRAI`, `MOVI`, `MOVH`: the exact result modulo 2^W, extended by the type, is
put in flight and nothing else changes (R98 to R100, R102 to R104, R107). -/
def Obligations.ScalarResults : Prop :=
  ∀ (i : Instr) (s : State) (d : BitVec 8) (v : Word), scalarResult i s = some (d, v) → Ready i s →
    Machine.exec i s = .next (s.sResult d v).complete

/-- `DIV`, `DIVN`, `REM`, `REMN` (R101), and the 7 tile cycles without a bundle (R99). -/
def Obligations.DivisionResults : Prop :=
  ∀ (i : Instr) (s : State) (d : BitVec 8) (v : Word), divisionResult i s = some (d, v) → Ready i s →
    Machine.exec i s = .next (((s.sResult d v).setMe { (s.sResult d v).me with hold := 8 }).complete)

/-- `CLZ`, `CTZ`, `POPC` (R105). `BEXT` and `BINS`, bit by bit (R106). -/
def Obligations.BitOperations : Prop :=
  (∀ (f : RegF) (s : State),
    let w := width f.t1.toNat
    let a := lowW f.t1.toNat (s.reg f.a)
    (Ready (.clz f) s → ∃ n, Machine.exec (.clz f) s = .next (s.sResult f.d (BitVec.ofNat 64 n)).complete ∧
      (a = 0 → n = w) ∧ (a ≠ 0 → n < w ∧ 2 ^ (w - 1 - n) ≤ a ∧ a < 2 ^ (w - n))) ∧
    (Ready (.ctz f) s → ∃ n, Machine.exec (.ctz f) s = .next (s.sResult f.d (BitVec.ofNat 64 n)).complete ∧
      (a = 0 → n = w) ∧ (a ≠ 0 → n < w ∧ a % 2 ^ n = 0 ∧ a % 2 ^ (n + 1) ≠ 0)) ∧
    (Ready (.popc f) s → Machine.exec (.popc f) s =
      .next (s.sResult f.d (BitVec.ofNat 64 ((List.range w).countP a.testBit))).complete)) ∧
  (∀ (f : ImmF) (s : State),
    let pos := (f.imm.extractLsb' 0 6).toNat
    let len := (f.imm.extractLsb' 6 6).toNat + 1
    ((wf (.bext f) = true ∨ wf (.bins f) = true) → pos + len ≤ 64 ∧ (f.t1 = 6 ∨ f.t1 = 7)) ∧
    (wf (.bext f) = true → Ready (.bext f) s →
      ∃ v : Word, Machine.exec (.bext f) s = .next (s.sResult f.d v).complete ∧
        ∀ k, k < 64 → v.getLsbD k =
          if k < len then (s.reg f.a).getLsbD (pos + k) else (f.t1 == 6 && (s.reg f.a).getLsbD (pos + len - 1))) ∧
    (wf (.bins f) = true → Ready (.bins f) s →
      ∃ v : Word, Machine.exec (.bins f) s = .next (s.sResult f.d v).complete ∧
        ∀ k, k < 64 → v.getLsbD k =
          if pos ≤ k ∧ k < pos + len then (s.reg f.a).getLsbD (k - pos) else (s.reg f.d).getLsbD k))

/-- `SEL` (R108): cond alone chooses. `CMP` and `CMPI` write cond of the named steer register by R109, and nothing else. -/
def Obligations.ConditionsChoose : Prop :=
  (∀ (f : RegF) (s : State), Ready (.sel f) s →
    Machine.exec (.sel f) s = .next (s.sResult f.d (if (s.steer f.e).cond = true then s.reg f.a else s.reg f.b)).complete) ∧
  ((∀ (f : RegF) (s : State), Ready (.cmp f) s →
    ∃ c : Bool, (c = true ↔ condHolds (bits f.m 2 0) (s.intOf f.t1 f.a) (s.intOf f.t1 f.b) (lowW f.t1.toNat (s.reg f.a))
        (lowW f.t1.toNat (s.reg f.b))) ∧
      Machine.exec (.cmp f) s = .next (s.pend (.cond (num f.d) c) none 1).complete) ∧
  (∀ (f : ImmF) (s : State), Ready (.cmpi f) s →
    ∃ c : Bool, (c = true ↔ condHolds (bits f.m 2 0) (s.intOf f.t1 f.a)
        (intVal f.t1.toNat (lowW f.t1.toNat (f.imm.signExtend 64))) (lowW f.t1.toNat (s.reg f.a))
        (lowW f.t1.toNat (f.imm.signExtend 64))) ∧
      Machine.exec (.cmpi f) s = .next (s.pend (.cond (num f.d) c) none 1).complete))

/-- `PREP` and `PREPX` write the target of R110 and start its fetch of 4 tile cycles (R112). An odd target of `PREPX` is
ILLOP, and the steer register is unchanged. `BR`, `BRF`, `JMP`, `CALL`, `RET` (R111): when the register's target is set, the
bundle's successor is the target if the condition holds, and `CALL` returns the address after its bundle. A transfer form is
ILLOP when its register has no target (R111). -/
def Obligations.PreparedTransfers : Prop :=
  ((∀ (f : WideF) (s : State), Ready (.prep f) s →
    Machine.exec (.prep f) s = .next ((s.fetchStart (num f.d)).pend
      (.target (num f.d) (BitVec.ofInt 57 (s.iss.wpc.toNat + 2 * f.imm.toInt))) none 1).complete) ∧
  (∀ (f : RegF) (s : State), Ready (.prepx f) s →
    Machine.exec (.prepx f) s =
      if (s.reg f.a).getLsbD 0 = true then .next (s.trapped s cILLOP 0)
      else .next ((s.fetchStart (num f.d)).pend (.target (num f.d) ((s.reg f.a).setWidth 57)) none 1).complete)) ∧
  (∀ (f : RegF) (s : State), (s.steer f.a).tvalid = true →
    let j := s.steer f.a
    (Ready (.br f) s → Machine.exec (.br f) s = .next (if j.cond = true then s.transfer j else s).complete) ∧
    (Ready (.brf f) s → Machine.exec (.brf f) s = .next (if j.cond = true then s else s.transfer j).complete) ∧
    (Ready (.jmp f) s → Machine.exec (.jmp f) s = .next (s.transfer j).complete) ∧
    (Ready (.ret f) s → Machine.exec (.ret f) s = .next (s.transfer j).complete) ∧
    (Ready (.call f) s → Machine.exec (.call f) s =
      .next ((s.transfer j).sResult f.d (BitVec.ofNat 64 s.iss.npc.toNat)).complete)) ∧
  (∀ (i : Instr) (f : RegF) (s : State), (i = .br f ∨ i = .brf f ∨ i = .jmp f ∨ i = .call f ∨ i = .ret f) →
    Ready i s → (s.steer f.a).tvalid = false → Machine.exec i s = .next (s.trapped s cILLOP 0))

/-- `LOOPSET` and `BRLOOP` (R116, R117): the next value of `LCTL`, and the transfer while iterations are left. -/
def Obligations.LoopControl : Prop :=
  (∀ (f : ImmF) (s : State), wf (.loopset f) = true → Ready (.loopset f) s →
    let n := f.imm.toNat
    let trips := (s.reg f.a).toNat % 2 ^ 32
    Machine.exec (.loopset f) s = .next (s.pend
      (.lctl (if trips = 0 then mkLctl 0 true n 0 0 else mkLctl (trips + n - 2) false n 0 0)) none 1).complete) ∧
  (∀ (f : RegF) (s : State), Ready (.brloop f) s → (s.steer f.a).tvalid = true → lctlSc s.myCtx.lctl ≠ 0 →
    let w := s.myCtx.lctl
    Machine.exec (.brloop f) s =
      if lctlLeft w = 0 then .next (s.pend (.lctl (mkLctl 0 false 0 0 (bits w 1 0))) none 1).complete
      else .next ((s.transfer (s.steer f.a)).pend (.lctl (mkLctl (lctlLeft w - 1) (lctlVoid w) (lctlSc w)
        (min (lctlWarm w + 1) (lctlSc w - 1)) ((bits w 1 0 + 3) % 4))) none 1).complete)

/-- `QPUSH`, `QPOP` and `BQPOP` (R19, R113, R114): a value goes to the tail of a queue with room, and the oldest present entry
comes out; `BQ` holds one bit an entry. -/
def Obligations.QueueTransfer : Prop :=
  (∀ (f : RegF) (s : State), Ready (.qpush f) s →
    let q := num f.d
    (s.myCtx.queue q).taken < queueDepth q →
    ∃ t, Machine.exec (.qpush f) s = .next t ∧ t.iss.last = .done ∧
      (t.myCtx.queue q).entries.map (·.val) = (s.myCtx.queue q).entries.map (·.val) ++
        [if q = 5 then (if s.reg f.a = 0 then 0 else 1) else s.reg f.a] ∧
      (∀ r, r ≠ q → t.myCtx.queue r = s.myCtx.queue r)) ∧
  (∀ (f : RegF) (s : State) (e : QEntry) (es : List QEntry), Ready (.qpop f) s →
    (s.myCtx.queue (num f.a)).entries = e :: es → e.present = true → e.poison = false →
    Machine.exec (.qpop f) s = .next ((s.setMyCtx (s.myCtx.setQueue (num f.a)
      ⟨es, (s.myCtx.queue (num f.a)).freeing ++ [5]⟩)).sResult f.d e.val).complete) ∧
  (∀ (f : RegF) (s : State) (e : QEntry) (es : List QEntry), Ready (.bqpop f) s →
    (s.myCtx.queue 5).entries = e :: es → e.present = true → e.poison = false →
    Machine.exec (.bqpop f) s = .next ((s.setMyCtx (s.myCtx.setQueue 5
      ⟨es, (s.myCtx.queue 5).freeing ++ [5]⟩)).pend (.cond (num f.d) (decide (e.val ≠ 0))) none 1).complete)

/-- `NOP`, short and full (R118): the stream idles for n tile cycles in all, and nothing else changes. `DICTIONARY_PARCEL` and
`REP` (R31, R85, R86): a loaded entry that may stand as a word is run in the parcel's place, an index at or beyond the loaded
count is ILLOP, and a prefix that stands first before a word it may repeat sets the repeat. -/
def Obligations.IdlingAndParcels : Prop :=
  ((∀ (f : WideF) (s : State), Ready (.nop f) s →
    Machine.exec (.nop f) s = .next (s.setMe { s.me with hold := f.imm.toNat + 1 }).complete) ∧
  (∀ (b : Bool) (n : BitVec 4) (s : State), Ready (.nopShort b n) s →
    Machine.exec (.nopShort b n) s = .next (s.setMe { s.me with hold := n.toNat + 1 }).complete)) ∧
  ((∀ (b : Bool) (n : BitVec 10) (s : State) (w : Word), Ready (.dictionaryParcel b n) s → s.dictWord b n.toNat = some w →
    ∃ t, Machine.exec (.dictionaryParcel b n) s = .next t ∧ t.iss.subst = some w ∧ t.dies = s.complete.dies) ∧
  (∀ (b : Bool) (n : BitVec 10) (s : State), Ready (.dictionaryParcel b n) s → s.myTile.dictN ≤ n.toNat →
    Machine.exec (.dictionaryParcel b n) s = .next (s.trapped s cILLOP 0)) ∧
  (∀ (c : BitVec 6) (m : BitVec 4) (k : BitVec 2) (s : State) (w : Word) (i : Instr), Ready (.rep c m k) s →
    s.iss.ipc = s.iss.wpc → s.repeated = .ok w → decodeWord w = .ok i → repBarred i = false →
    (∀ f ∈ stepFields i, bit m f.1 = true → f.2.2.steps (field w f.2.1 8) = true) →
    ∃ t, Machine.exec (.rep c m k) s = .next t ∧ t.iss.rep = some (m, k, c) ∧ t.dies = s.complete.dies))

/-- A scalar result lands in its register alone: `X0` reads 0 whatever is written, and every other scalar register of the
stream keeps its value (R15, R16). The last-result file (R17): an S-slot result shifts into L0 and L1, an L-slot result into
L2 and L3. -/
def Obligations.ResultsLand : Prop :=
  (∀ (c : Ctx) (exe : Bool) (d g : BitVec 8) (v : Word),
    ((c.land exe (c.dest exe d v)).reg exe 0 = 0) ∧
    (Kind.sd.ok d = true → d ≠ 0 → (c.land exe (c.dest exe d v)).reg exe d = v) ∧
    (Kind.s.ok g = true → g ≠ d → (c.land exe (c.dest exe d v)).reg exe g = c.reg exe g)) ∧
  (∀ (x : Stream) (v : Word),
    let l := fun (y : Stream) (n : Nat) => SMap.get 0 y.l n
    (l (x.shift false v) 0 = v ∧ l (x.shift false v) 1 = l x 0 ∧ l (x.shift false v) 2 = l x 2 ∧ l (x.shift false v) 3 = l x 3) ∧
    (l (x.shift true v) 2 = v ∧ l (x.shift true v) 3 = l x 2 ∧ l (x.shift true v) 0 = l x 0 ∧ l (x.shift true v) 1 = l x 1))

/-! ### Scratchpad and global memory -/

/-- `LD` of scratchpad (R121, R122, R124, R125, R129): when the line's data may be taken, the value of W bits, extended by the
type, is put in flight with a latency of 4; `take` empties the line. `LNSET`, `LNCLR` and `LNPEEK` (R142). -/
def Obligations.ScratchReads : Prop :=
  (∀ (f : MemF) (s u : State) (a : Nat), f.sp = true → Ready (.ld f) s →
    (s.ea f).toNat % sizeOf_ f.t1.toNat = 0 → s.scratch (s.ea f) = .ok (a, u) →
    (bits f.m 1 0 = 2 ∨ (u.myTile.lineInfo (a / 128)).full = true) → u.myTile.good (a / 128) = true →
    Machine.exec (.ld f) s =
      .next ((if bits f.m 1 0 = 1 then u.setMyTile (u.myTile.takeFull (a / 128)) else u).lResult f.d
        (extT f.t1.toNat (u.myTile.rd a (sizeOf_ f.t1.toNat)))).complete) ∧
  (∀ (f : MemF) (s u : State) (a : Nat), s.scratch (s.ea f) = .ok (a, u) →
    (Ready (.lnset f) s → Machine.exec (.lnset f) s = .next (u.setMyTile (u.myTile.setFull (a / 128) true)).complete) ∧
    (Ready (.lnclr f) s → Machine.exec (.lnclr f) s = .next (u.setMyTile (u.myTile.setFull (a / 128) false)).complete) ∧
    (Ready (.lnpeek f) s → Machine.exec (.lnpeek f) s = .next (u.setMyCtx { u.myCtx with
      inflight := u.myCtx.inflight ++ [⟨s.iss.exe, u.myCtx.dest s.iss.exe f.d 0, some (true, 0), 4, false,
        some (.line (a / 128))⟩] }).complete) ∧
    ((u.myTile.setFull (a / 128) true).lineNow (a / 128)).full = true ∧
    ((u.myTile.setFull (a / 128) false).lineNow (a / 128)).full = false)

/-- `ST` to scratchpad (R33, R124): the low W bits go to the address; every other byte and every other line's metadata are as
before, where no atomic of the tile cycle is among the writes. In a line not yet written in this tile cycle the stored bytes
read back, full is set, tag and poison are kept. A line and the writes that this tile cycle has made to it stay in agreement
(R33): right after reset, and over every operation that changes a line. -/
def Obligations.ScratchStores : Prop :=
  (∀ (f : MemF) (s u : State) (a : Nat), f.sp = true → wf (.st f) = true → Ready (.st f) s →
    let n := sizeOf_ f.t1.toNat
    (s.ea f).toNat % n = 0 → s.scratch (s.ea f) = .ok (a, u) → u.scratchClash a n = false →
    let t := u.myTile.wrLine (coreRank s.iss.ctx s.iss.exe) a (leBytes n (lowW f.t1.toNat (s.reg f.d))) 0 false
    Machine.exec (.st f) s = .next (u.setMyTile t).complete ∧
    (∀ b, u.myTile.lineOk (a / 128) → u.myTile.noAtom → (b < a ∨ a + n ≤ b) → t.byte b = u.myTile.byte b) ∧
    (u.myTile.cyc.find (a / 128) = none → Memory.read t.scr a n = lowW f.t1.toNat (s.reg f.d) ∧
      t.lineNow (a / 128) = { u.myTile.lineNow (a / 128) with full := true, crcDiff := 0 }) ∧
    (∀ k, k ≠ a / 128 → t.lineNow k = u.myTile.lineNow k)) ∧
  ((∀ p t n, (State.reset.tile p t).lineOk n) ∧
  (∀ (t : Tile) (rank addr n : Nat) (bs : List Byte) (tag : BitVec 3) (poison : Bool),
    (∀ n, t.lineOk n) → addr % 128 + bs.length ≤ 128 → (t.wrLine rank addr bs tag poison).lineOk n) ∧
  (∀ (t : Tile) (rank addr m ty n : Nat) (op : GOp), (∀ n, t.lineOk n) → addr % 128 + m ≤ 128 →
    (t.wrAtom rank addr m op ty).lineOk n) ∧
  (∀ (t : Tile) (k n : Nat) (b : Bool), (∀ n, t.lineOk n) →
    (t.setFull k b).lineOk n ∧ (t.takeFull k).lineOk n ∧ (t.poisonLine k).lineOk n))

/-- `LDQ` (R127): the entry takes its place at issue; data that is there fills it at once, a scratchpad line that is not full
and a global access fill it later. -/
def Obligations.QueueLoad : Prop :=
  ∀ (f : MemF) (s u : State), Ready (.ldq f) s → (s.ea f).toNat % sizeOf_ f.t1.toNat = 0 →
    let q := num f.d
    let n := sizeOf_ f.t1.toNat
    let val := fun v => queueValue q f.t1.toNat v
    (s.myCtx.queue q).taken < queueDepth q → (u.myCtx.queue q).taken < queueDepth q → u.myCtx.count = s.myCtx.count →
    (∀ a, f.sp = true → s.scratch (s.ea f) = .ok (a, u) →
      Machine.exec (.ldq f) s = .next (if (u.myTile.lineInfo (a / 128)).full = true then
          (u.setMyTile (u.myTile.checkLine (a / 128)).2).pushed q
            { addr := s.ea f, val := val ((u.myTile.checkLine (a / 128)).2.rd a n), poison := (u.myTile.checkLine (a / 128)).1 }
        else u.pushed q { addr := s.ea f, src := .scratch (s.ea f) f.t1.toNat }).complete) ∧
    (∀ (tier addr key : Nat), let l := Loc.mem s.iss.peer tier addr key
      f.sp = false → s.xlate (s.ea f) .load = .ok (l, u) → u.iss = s.iss → u.clash l n = false →
      let bad := u.badLoc s.iss.peer l n
      let e : QEntry := { addr := s.ea f, val := val (u.readLoc s.iss.peer l n), poison := bad != 0,
                          src := .global s.iss.peer addr f.t1.toNat none }
      Machine.exec (.ldq f) s = .next ((u.pushed q e).kvRead s.iss.peer (s.ea f).toNat bad).complete)

/-- `VLD` (R128): each active element gets the bytes at its own address; the other elements are not written. `VST` (R128): it
stores nowhere but at the bytes of its active elements; elements that all lie in one line without covering it are partial
writes in ascending order of element. -/
def Obligations.VectorMemory : Prop :=
  (∀ (f : MemF) (s u : State) (es : List (Nat × Nat × Word)), wf (.vld f) = true → Ready (.vld f) s →
    vSpots s f = .ok (es, u) →
    (∀ x ∈ es, (u.myTile.lineInfo (x.2.1 / 128)).full = true ∧ u.myTile.good (x.2.1 / 128) = true) →
    let w := width f.t1.toNat
    ∃ mask val, Machine.exec (.vld f) s = .next (u.pend (.v (num f.d) mask val) none 6).complete ∧
      (∀ x ∈ es, elem w mask x.1 = 2 ^ w - 1 ∧ elem w val x.1 = u.myTile.rd x.2.1 (sizeOf_ f.t1.toNat)) ∧
      (∀ e, (∀ x ∈ es, x.1 ≠ e) → elem w mask e = 0 ∧ elem w val e = 0)) ∧
  (∀ (f : MemF) (s u : State) (es : List (Nat × Nat × Word)), wf (.vst f) = true → Ready (.vst f) s → vSpots s f = .ok (es, u) →
    let n := sizeOf_ f.t1.toNat
    ∃ t, Machine.exec (.vst f) s = .next t ∧ t.iss.last = .done ∧
      (∀ b, (∀ k, u.myTile.lineOk k) → u.myTile.noAtom → (∀ x ∈ es, b < x.2.1 ∨ x.2.1 + n ≤ b) → t.myTile.byte b = u.myTile.byte b) ∧
      (∀ l, (∀ x ∈ es, x.2.1 / 128 = l) → es.length * n < 128 →
        t = (es.foldl (fun (s : State) x => s.setMyTile (s.myTile.wrLine (coreRank u.iss.ctx u.iss.exe) x.2.1
          (leBytes n (elem (8 * n) (u.vreg f.d) x.1)) 0 false)) u).complete))

/-- `ATOM`, `CAS` and `ATOMF` on scratchpad (R33, R130 to R133): the operation takes its place among the writes of the tile
cycle, and the destination receives the value that it finds there; in a line not yet written in the cycle that is the value
that a load reads, and the new one, if any, is in place. What the integer atomics write (R130, R131): eight
read-modify-writes, and a `CAS` that writes only where it finds what it expects. -/
def Obligations.ScratchAtomics : Prop :=
  (∀ (i : Instr) (f : MemF) (op : GOp) (s u : State) (a : Nat), atomicOp i s = some (f, op) → f.sp = true → Ready i s →
    (s.ea f).toNat % sizeOf_ f.t1.toNat = 0 → (2 ≤ bits f.m 7 6 → s.storesDone = true ∧ s.loadsDone = true) →
    let t := f.t1.toNat
    let n := sizeOf_ t
    s.scratch (s.ea f) = .ok (a, u) → u.scratchClash a n = false → u.myTile.good (a / 128) = true →
    let rank := coreRank s.iss.ctx s.iss.exe
    let v := u.myTile.wrAtom rank a n op t
    let old := v.found a rank n
    let w := u.setMyTile v
    Machine.exec i s = .next (w.setMyCtx { w.myCtx with
      inflight := w.myCtx.inflight ++ [⟨s.iss.exe, w.myCtx.dest s.iss.exe f.d (gopOld op t old), some (true, gopOld op t old), 4,
        false, some (.old a rank t op)⟩] }).complete ∧
    (u.myTile.cyc.find (a / 128) = none →
      old = u.myTile.rd a n ∧ Memory.read v.scr a n = (gopNew op t old).getD old % 2 ^ (8 * n))) ∧
  (∀ (t old : Nat) (b e : Word), old < 2 ^ width t →
    let w := 2 ^ width t
    let x := lowW t b
    gopNew (.atom 0 b) t old = some ((old + x) % w) ∧ gopNew (.atom 1 b) t old = some (old &&& x) ∧
    gopNew (.atom 2 b) t old = some (old ||| x) ∧ gopNew (.atom 3 b) t old = some (old ^^^ x) ∧
    (∃ v, gopNew (.atom 4 b) t old = some v ∧ sint v (width t) = min (sint old (width t)) (sint x (width t))) ∧
    (∃ v, gopNew (.atom 5 b) t old = some v ∧ sint v (width t) = max (sint old (width t)) (sint x (width t))) ∧
    gopNew (.atom 6 b) t old = some (min old x) ∧ gopNew (.atom 7 b) t old = some (max old x) ∧
    gopNew (.atom 8 b) t old = some x ∧
    gopNew (.cas e b) t old = (if old = e.toNat % w then some x else none) ∧
    gopOld (.cas e b) t old = extT t old)

/-- `LD`, `ST` and the atomics of the die's own memory (R124, R126, R130 to R133, R352): the load takes its data now and
delivers it later; the store writes its bytes and no other of that memory. -/
def Obligations.GlobalAccess : Prop :=
  ∀ (f : MemF) (s u : State) (tier addr key : Nat), f.sp = false → (s.ea f).toNat % sizeOf_ f.t1.toNat = 0 →
    let p := s.iss.peer
    let t := f.t1.toNat
    let n := sizeOf_ t
    let l := Loc.mem p tier addr key
    u.iss = s.iss → u.myCtx.count = s.myCtx.count → u.me = s.me → u.clash l n = false →
    (Ready (.ld f) s → s.xlate (s.ea f) .load = .ok (l, u) → u.badLoc p l n = 0 →
      Machine.exec (.ld f) s = .next (u.startGlobal .load t f.d (s.ea f) l (some (u.readLoc p l n)) 0 0 1).complete) ∧
    (Ready (.st f) s → s.xlate (s.ea f) .store = .ok (l, u) → u.heldLoc l = false →
      let v := u.writeLoc p l (leBytes n (lowW t (s.reg f.d))) false
      Machine.exec (.st f) s = .next v.complete ∧
      (wf (.st f) = true → addr % n = 0 → Memory.read ((v.die p).bytes tier) addr n = lowW t (s.reg f.d)) ∧
      (∀ q r b, (q = p → (r = 0 ↔ tier = 0) → b < addr ∨ addr + n ≤ b) → v.byteOf q r b = u.byteOf q r b)) ∧
    (∀ i op, atomicOp i s = some (f, op) → Ready i s → s.xlate (s.ea f) .atomic = .ok (l, u) → u.heldLoc l = false →
      u.badLoc p l n = 0 → (2 ≤ bits f.m 7 6 → s.storesDone = true ∧ s.loadsDone = true) →
      Machine.exec i s = .next ((match gopNew op t (u.readLoc p l n) with
        | some v => u.writeLoc p l (leBytes n v) false
        | none => u).startGlobal op t f.d (s.ea f) l (some (u.readLoc p l n)) 0 (bits f.m 7 6) 5).complete)

/-- `FENCE` (R134): once the stream's earlier accesses of the fenced kind have been performed, it changes nothing. `BIND` and
`UNBIND` (R135, R136): a region that fits is added to its object, which the partition then owns if nobody did; the last region
gone frees the object; otherwise `SYNC_FAULT`, and the table is unchanged. The owner's realm may use it from other dies (log
107). `ACQ` and `REL` (R135, R137, R138, R279): a granted request lets the stream go on; a release gives up this context's
hold, once its earlier accesses have been performed, after the die's dirty copies have been written back; a partition that may
not use the object takes `PERM_FAULT`. -/
def Obligations.SyncForms : Prop :=
  (∀ (f : ImmF) (s : State), Ready (.fence f) s → s.storesDone = true → s.loadsDone = true →
    Machine.exec (.fence f) s = .next s.complete) ∧
  (∀ (f : RegF) (s : State),
    let a := s.reg f.a
    let obj := bits a 13 0
    let home := bits a 22 14
    let o : SyncObj := SMap.get {} (s.die home).sync obj
    let b := (s.reg f.b).toNat
    let e := (s.reg f.e).toNat
    let me := (s.iss.peer, s.myCtx.part)
    bits a 63 23 = 0 → home < s.peers → (∀ w, o.owner = some w → s.cfg.syncUser w me.1 me.2 = true) →
    (Ready (.bind f) s → Machine.exec (.bind f) s =
      if b % 128 = 0 ∧ e % 128 = 0 ∧ 128 ≤ e ∧ e ≤ 2 ^ 40 ∧ o.regions.length < 4 ∧ o.holders = [] ∧
          (∀ x ∈ (s.die home).sync, ∀ r ∈ x.2.regions, r.2.1 + r.2.2 ≤ b ∨ b + e ≤ r.2.1)
      then .next (s.setSync home obj { o with owner := some (o.owner.getD me), regions := o.regions ++ [(s.myCtx.vf, b, e)] }).complete
      else .next (s.trapped s cSYNC_FAULT 0)) ∧
    (Ready (.unbind f) s → Machine.exec (.unbind f) s =
      let rest := o.regions.filter (fun r => r.2.1 != b)
      if o.holders = [] ∧ rest.length < o.regions.length
      then .next (s.setSync home obj (if rest = [] then {} else { o with regions := rest })).complete
      else .next (s.trapped s cSYNC_FAULT 0))) ∧
  (∀ (s : State) (a : Word),
    let obj := bits a 13 0
    let home := bits a 22 14
    let o : SyncObj := SMap.get {} (s.die home).sync obj
    let mine := ∀ w, o.owner = some w → s.cfg.syncUser w s.iss.peer s.myCtx.part = true
    bits a 63 23 = 0 → home < s.peers →
    (∀ (f : ImmF) (g : RegF), ¬mine → (s.reg f.a = a → (Ready (.acq f) s → Machine.exec (.acq f) s = .next (s.trapped s cPERM_FAULT 0)) ∧
        (Ready (.rel f) s → Machine.exec (.rel f) s = .next (s.trapped s cPERM_FAULT 0))) ∧
      (s.reg g.a = a → (Ready (.bind g) s → Machine.exec (.bind g) s = .next (s.trapped s cPERM_FAULT 0)) ∧
        (Ready (.unbind g) s → Machine.exec (.unbind g) s = .next (s.trapped s cPERM_FAULT 0)))) ∧
    (∀ f : ImmF, mine → s.reg f.a = a → Ready (.acq f) s → s.me.granted (.sync home obj (bit f.m 0)) = true →
      Machine.exec (.acq f) s = .next s.complete) ∧
    (∀ f : ImmF, mine → s.reg f.a = a → Ready (.rel f) s → o.heldBy s.iss.peer s.iss.tile s.iss.ctx = true →
      s.storesDone = true → s.loadsDone = true → (s.myCtx.stream (!s.iss.exe)).answered_ = true → s.flushHeld s.iss.peer = false →
      Machine.exec (.rel f) s = .next ((s.flushCopies s.iss.peer false).setSync home obj { o with
        holders := o.holders.filter (fun h =>
          !(h.peer == s.iss.peer && h.tile == s.iss.tile && h.ctx == s.iss.ctx)) }).complete) ∧
    (∀ f : ImmF, mine → s.reg f.a = a → Ready (.rel f) s → o.heldBy s.iss.peer s.iss.tile s.iss.ctx = false →
      Machine.exec (.rel f) s = .next (s.trapped s cSYNC_FAULT 0)))

/-- `PUBLISH`, `WAITV` and `CINC` (R28, R139, R140, R141, R279), once the stream's earlier accesses have been performed: the
copies of a buffer change places, its version rises, and the tile's streams that wait on lines look their addresses up again
(R122); a version that has come lets the stream go on; a counter rises modulo 2^32, or `PERM_FAULT` without its rights bit. -/
def Obligations.BuffersAndCounters : Prop :=
  ∀ (f : ImmF) (s : State),
    let b := s.myTile.buffer f.imm.toNat
    (Ready (.publish f) s → b.valid = true → b.overlap = false → s.storesDone = true → s.loadsDone = true → s.myTile.shadowBusy b = false →
      s.myTile.usedBufs.contains f.imm.toNat = false →
      Machine.exec (.publish f) s = .next (s.setMyTile ({ s.myTile with
        bufs := SMap.set {} s.myTile.bufs f.imm.toNat
          { b with cur := b.shd, shd := b.cur, version := b.version + 1 } } : Tile).remap).complete) ∧
    (Ready (.waitv f) s → b.valid = true → (b.version - (s.reg f.a).setWidth 32).toInt ≥ 0 →
      Machine.exec (.waitv f) s = .next s.complete) ∧
    (Ready (.cinc f) s → (s.myTile.counter (num f.d)).rights.getLsbD s.iss.ctx = true → s.storesDone = true → s.loadsDone = true →
      Machine.exec (.cinc f) s = .next (s.setMyTile (s.myTile.setCounter (num f.d)
        { s.myTile.counter (num f.d) with val := (s.myTile.counter (num f.d)).val + BitVec.ofNat 32 f.imm.toNat })).complete) ∧
    (Ready (.cinc f) s → (s.myTile.counter (num f.d)).rights.getLsbD s.iss.ctx = false →
      Machine.exec (.cinc f) s = .next (s.trapped s cPERM_FAULT 0))

/-! ### Vectors, predicates and conversions -/

/-- How a vector result lands (R148, R149): the elements that the form computed are replaced, every other element of the
register and every other register keeps its value. When a V form finds its pipe free, and what becomes of it otherwise (R149,
R171, R317, R323): one pass for each 512 bytes, twice the time for a transcendental form; without a pipe `PERM_FAULT`, on a
busy one or without budget a stall. -/
def Obligations.VectorIssue : Prop :=
  (∀ (c : Ctx) (exe : Bool) (d r : BitVec 8) (w : Nat) (es : List Nat) (g : Nat → Nat), 1 ≤ w → es.Nodup →
    (∀ e ∈ es, w * (e + 1) ≤ 16384 ∧ g e < 2 ^ w) →
    (∀ e, w * (e + 1) ≤ 16384 → (c.land exe (vPut d w es g)).velem w d e = if e ∈ es then g e else c.velem w d e) ∧
    (num r ≠ num d → SMap.get 0 (c.land exe (vPut d w es g)).v (num r) = SMap.get 0 c.v (num r))) ∧
  (∀ (s : State) (double : Bool),
    let passes := (s.shapeN * s.shapeW / 8 + 511) / 512
    let cyc := if double then 2 else 1
    let per := cyc * (if s.myCtx.grant.isSome then 1 else 4)
    (s.myPipe = none → s.occupy double = trap s cPERM_FAULT) ∧
    (∀ k, s.myPipe = some k →
      let p : Pipe := SMap.get {} s.myTile.pipes k
      s.occupy double =
        if p.left ≠ 0 ∨ (s.myDie.part s.myCtx.part).vbud ≤ p.used then .error .stall
        else .ok (s.setMyTile { s.myTile with
          pipes := s.myTile.pipes.put k ⟨s.iss.ctx, passes * per, per, cyc, 0, p.used + passes * cyc⟩ })))

/-- The arithmetic, transcendental and dot-product forms (R150, R151, R163, R170): the exact result of each active
sub-element, fitted or rounded once, is put in flight with the form's latency. `VSHL`, `VSHR` and `VSRA` (R153). -/
def Obligations.VectorArithmetic : Prop :=
  (∀ (i : Instr) (f : RegF) (sub double : Bool) (lat : Nat) (g : Nat → Nat) (s u : State),
    laneResult i s = some (f, sub, double, lat, g) → Ready i s →
    (width f.t1.toNat = s.shapeW ∨ (sub = true ∧ width f.t1.toNat < s.shapeW)) → s.occupy double = .ok u →
    Machine.exec i s = .next (u.pend
      (vPut f.d (width f.t1.toNat) (subs (s.shapeW / width f.t1.toNat) (s.actives f.pr.toNat)) g) none lat).complete) ∧
  (∀ (i : Instr) (f : RegF) (g : Nat → Nat) (s u : State), shiftResult i s = some (f, g) → Ready i s →
    width f.t1.toNat ≤ s.shapeW → s.occupy false = .ok u →
    Machine.exec i s = .next (u.pend
      (vPut f.d (width f.t1.toNat) (subs (s.shapeW / width f.t1.toNat) (s.actives f.pr.toNat)) g) none 4).complete)

/-- `VAND`, `VOR`, `VXOR` and `VNOT` (R152): bitwise on whole elements, whatever the type. `VSEL` (R155): it copies bits. -/
def Obligations.VectorBits : Prop :=
  (∀ (i : Instr) (f : RegF) (op : Nat → Nat → Nat → Nat) (s u : State), bitwise i = some (f, op) → wf i = true → Ready i s →
    vsOk s.myCtx.vshape = true → width f.t1.toNat ≤ s.shapeW → s.occupy false = .ok u →
    let w := s.shapeW
    ∃ r, Machine.exec i s = .next (u.pend r none 4).complete ∧
      ∀ e, w * (e + 1) ≤ 16384 → (u.myCtx.land true r).velem w f.d e =
        if e < s.shapeN ∧ bit (s.myCtx.pred f.pr.toNat) e = true then op w (s.myCtx.velem w f.a e) (s.myCtx.velem w f.b e)
        else u.myCtx.velem w f.d e) ∧
  (∀ (f : RegF) (s u : State), Ready (.vsel f) s → vsOk s.myCtx.vshape = true → width f.t1.toNat = s.shapeW →
    s.occupy false = .ok u →
    let w := s.shapeW
    ∃ r, Machine.exec (.vsel f) s = .next (u.pend r none 4).complete ∧
      ∀ e, w * (e + 1) ≤ 16384 → (u.myCtx.land true r).velem w f.d e =
        if e < s.shapeN ∧ bit (s.myCtx.pred f.pr.toNat) e = true then
          (if bit (s.myCtx.pred (num f.e)) e = true then s.myCtx.velem w f.a e else s.myCtx.velem w f.b e)
        else u.myCtx.velem w f.d e)

/-- `VCMP` (R148, R154): bit e of the predicate is the pr bit and the condition for e < N, and 0 from N on. A stage predicate
as destination is ILLOP (R24). The predicate forms (R164) act on all 2,048 bits; a stage predicate as destination is ILLOP
(R24). -/
def Obligations.PredicateResults : Prop :=
  (∀ (f : RegF) (s : State), Ready (.vcmp f) s → width f.t1.toNat = s.shapeW →
    let w := s.shapeW
    let cc := bits f.m 2 0
    (∀ u, s.myCtx.isStage (num f.d) = false → s.occupy false = .ok u →
      ∃ v : PReg, Machine.exec (.vcmp f) s = .next (u.pend (.p (num f.d) v) none 4).complete ∧
        ∀ e, e < 2048 → (v.getLsbD e = true ↔ e < s.shapeN ∧ bit (s.myCtx.pred f.pr.toNat) e = true ∧
          (if isFloat f.t1.toNat then condFloat cc (s.vval f f.a e) (s.vval f f.b e) = true
           else condHolds cc (s.vint f f.a e) (s.vint f f.b e) (s.myCtx.velem w f.a e) (s.myCtx.velem w f.b e)))) ∧
    (s.myCtx.isStage (num f.d) = true → Machine.exec (.vcmp f) s = .next (s.trapped s cILLOP 0))) ∧
  (∀ (s : State),
    (∀ (i : Instr) (f : RegF) (op : Bool → Bool → Bool),
      ((i = .pand f ∧ op = fun a b => a && b) ∨ (i = .por f ∧ op = fun a b => a || b) ∨ (i = .pxor f ∧ op = fun a b => a != b) ∨
        (i = .pandn f ∧ op = fun a b => a && !b) ∨ (i = .pnot f ∧ op = fun a _ => !a)) → Ready i s →
      (s.myCtx.isStage (num f.d) = false →
        ∃ v : PReg, Machine.exec i s = .next (s.pend (.p (num f.d) v) none 1).complete ∧
          ∀ e, e < 2048 → v.getLsbD e = op ((s.myCtx.pred (num f.a)).getLsbD e) ((s.myCtx.pred (num f.b)).getLsbD e)) ∧
      (s.myCtx.isStage (num f.d) = true → Machine.exec i s = .next (s.trapped s cILLOP 0))) ∧
    (∀ (f : ImmF), Ready (.pset f) s → s.myCtx.isStage (num f.d) = false →
      ∃ v : PReg, Machine.exec (.pset f) s = .next (s.pend (.p (num f.d) v) none 1).complete ∧
        ∀ e, e < 2048 → (v.getLsbD e = true ↔ e < f.imm.toNat)) ∧
    (∀ (f : RegF), Ready (.pcnt f) s → Machine.exec (.pcnt f) s = .next (s.yResult f.d
      (BitVec.ofNat 64 ((List.range s.shapeN).countP (fun e => bit (s.myCtx.pred (num f.a)) e))) 4).complete))

/-- `VTRANS` (R158): position j × r + i receives a(i, j); more than 32 columns are ILLOP. `VSHUF` (R159). -/
def Obligations.VectorPermutes : Prop :=
  (∀ (f : RegF) (s : State), Ready (.vtrans f) s → vsOk s.myCtx.vshape = true → width f.t1.toNat = s.shapeW →
    let w := s.shapeW
    (∀ u, s.shapeC ≤ 32 → s.occupy false = .ok u →
      ∃ r, Machine.exec (.vtrans f) s = .next (u.pend r none 8).complete ∧
        ∀ i j, i < s.shapeR → j < s.shapeC →
          (u.myCtx.land true r).velem w f.d (j * s.shapeR + i) = s.myCtx.velem w f.a (i * s.shapeC + j)) ∧
    (32 < s.shapeC → Machine.exec (.vtrans f) s = .next (s.trapped s cILLOP 0))) ∧
  (∀ (f : RegF) (s : State), Ready (.vshuf f) s → vsOk s.myCtx.vshape = true → width f.t1.toNat = s.shapeW →
    let w := s.shapeW
    (∀ u, s.shapeN ≤ 1024 → s.occupy false = .ok u →
      ∃ r, Machine.exec (.vshuf f) s = .next (u.pend r none 8).complete ∧
        ∀ e, w * (e + 1) ≤ 16384 → (u.myCtx.land true r).velem w f.d e =
          if e < s.shapeN ∧ bit (s.myCtx.pred f.pr.toNat) e = true then
            (if s.myCtx.velem 16 f.b e < s.shapeN then s.myCtx.velem w f.a (s.myCtx.velem 16 f.b e) else 0)
          else u.myCtx.velem w f.d e) ∧
    (1024 < s.shapeN → Machine.exec (.vshuf f) s = .next (s.trapped s cILLOP 0)))

/-- `VBCAST`, `VROWB` and `VCOLB` (R156). `VIOTA` (R160). `VRSUM`, `VCSUM`, `VRMAX` and `VCMAX` (R157): the selected elements
of a row or column, in ascending order, reduced to its first element; an integer sum is exact. -/
def Obligations.RowsAndColumns : Prop :=
  (∀ (f : RegF) (s u : State), vsOk s.myCtx.vshape = true → s.occupy false = .ok u →
    let w := width f.t1.toNat
    let active := fun e => e < s.shapeN ∧ bit (s.myCtx.pred f.pr.toNat) e = true
    (Ready (.vbcast f) s → wf (.vbcast f) = true → w ≤ s.shapeW →
      ∃ r, Machine.exec (.vbcast f) s = .next (u.pend r none 4).complete ∧
        ∀ q, w * (q + 1) ≤ 16384 → (u.myCtx.land true r).velem w f.d q =
          if active (q / (s.shapeW / w)) then (s.reg f.a).toNat % 2 ^ w else u.myCtx.velem w f.d q) ∧
    (Ready (.vrowb f) s → w = s.shapeW →
      ∃ r, Machine.exec (.vrowb f) s = .next (u.pend r none 4).complete ∧
        ∀ e, w * (e + 1) ≤ 16384 → (u.myCtx.land true r).velem w f.d e =
          if active e then s.myCtx.velem w f.a (e / s.shapeC * s.shapeC) else u.myCtx.velem w f.d e) ∧
    (Ready (.vcolb f) s → w = s.shapeW →
      ∃ r, Machine.exec (.vcolb f) s = .next (u.pend r none 4).complete ∧
        ∀ e, w * (e + 1) ≤ 16384 → (u.myCtx.land true r).velem w f.d e =
          if active e then s.myCtx.velem w f.a (e % s.shapeC) else u.myCtx.velem w f.d e)) ∧
  (∀ (f : RegF) (s u : State), wf (.viota f) = true → Ready (.viota f) s → vsOk s.myCtx.vshape = true →
    width f.t1.toNat = s.shapeW → s.occupy false = .ok u →
    let w := s.shapeW
    bits f.m 1 0 ≠ 3 ∧
    ∃ r, Machine.exec (.viota f) s = .next (u.pend r none 4).complete ∧
      ∀ i j, i < s.shapeR → j < s.shapeC → bit (s.myCtx.pred f.pr.toNat) (i * s.shapeC + j) = true →
        (u.myCtx.land true r).velem w f.d (i * s.shapeC + j) =
          (if bits f.m 1 0 = 0 then i * s.shapeC + j else if bits f.m 1 0 = 1 then i else j) % 2 ^ w) ∧
  (∀ (f : RegF) (s u : State), width f.t1.toNat = s.shapeW → s.occupy false = .ok u →
    let t := f.t1.toNat
    let sel := fun (l : List Nat) => (l.filter (fun e => bit (s.myCtx.pred f.pr.toNat) e)).map (elem s.shapeW (s.vreg f.a))
    let row := fun d => sel ((List.range s.shapeC).map (fun j => d + j))
    let col := fun d => sel ((List.range s.shapeR).map (fun k => k * s.shapeC + d))
    let rows := (List.range s.shapeR).map (fun k => k * s.shapeC)
    let cols := List.range s.shapeC
    let value := fun c => valueOf t c (bit f.m 9)
    let sum := fun (l : List Nat) (pos : Nat) =>
      if isFloat t then roundV t (s.rnd f.m pos) (match l.map value with
        | [] => FVal.fin false 0 0
        | x :: xs => xs.foldl (fun a b => f32Step (bit f.m 8) (FVal.add a b false)) x)
      else fitInt t (bit f.m 7) (l.map (intVal t)).sum
    let greatest := fun (l : List Nat) =>
      if isFloat t then roundV t { fl0 := bit f.m 8 } ((l.map value).foldl (FVal.minMax true) (.inf true))
      else fitInt t false ((l.map (intVal t)).foldl max (if isSigned t then -(2 ^ (width t - 1)) else 0))
    (Ready (.vrsum f) s → Machine.exec (.vrsum f) s =
      .next (u.pend (vPut f.d s.shapeW rows (fun d => sum (row d) d)) none 8).complete) ∧
    (Ready (.vcsum f) s → Machine.exec (.vcsum f) s =
      .next (u.pend (vPut f.d s.shapeW cols (fun d => sum (col d) d)) none 8).complete) ∧
    (Ready (.vrmax f) s → Machine.exec (.vrmax f) s =
      .next (u.pend (vPut f.d s.shapeW rows (fun d => greatest (row d))) none 8).complete) ∧
    (Ready (.vcmax f) s → Machine.exec (.vcmax f) s =
      .next (u.pend (vPut f.d s.shapeW cols (fun d => greatest (col d))) none 8).complete))

/-- `VMOVS`, `VINS` and `VSHAPE` (R161, R162): one element out, one element in, and a shape that R20 allows. -/
def Obligations.ElementsAndShape : Prop :=
  (∀ (f : RegF) (s u : State), width f.t1.toNat = s.shapeW → s.occupy false = .ok u →
    let n := (s.reg f.b).toNat
    (Ready (.vmovs f) s → Machine.exec (.vmovs f) s =
      .next (u.yResult f.d (if n < s.shapeN then extT f.t1.toNat (s.myCtx.velem s.shapeW f.a n) else 0) 4).complete) ∧
    (Ready (.vins f) s → Machine.exec (.vins f) s =
      .next (u.pend (vPut f.d s.shapeW (if n < s.shapeN then [n] else []) (fun _ => (s.reg f.a).toNat % 2 ^ s.shapeW))
        none 4).complete)) ∧
  (∀ (f : ImmF) (s : State), Ready (.vshape f) s →
    let v : Word := f.imm.setWidth 64
    Machine.exec (.vshape f) s =
      if bits v 13 12 ≠ 3 ∧ (bits v 4 0 + 1) * (bits v 11 5 + 1) * 2 ^ bits v 13 12 ≤ 2048
      then .next (s.pend (.vshape v) none 1).complete else .next (s.trapped s cILLOP 0))

/-- `CSPUSH`, `CSPOP` and `CSBAL` (R165 to R169): records go to the lanes in ascending order of element and come out in that
order, an empty lane gives 0, and a balance spreads the records in canonical order. -/
def Obligations.ConditionalStreams : Prop :=
  ∀ (f : RegF) (s u : State), s.occupy false = .ok u →
    let lane := fun (t : Tile) (w l : Nat) => t.lane w l
    (Ready (.cspush f) s → width f.t1.toNat = s.shapeW → wf (.cspush f) = true →
      let w := num f.d
      let new := fun l => ((s.actives f.pr.toNat).filter (fun e => e % 128 == l)).map (fun e =>
        BitVec.ofNat 32 (elem 32 (s.vreg f.a) e))
      ((∀ l, l < 128 → (lane u.myTile w l).length + (new l).length ≤ 16) →
        ∃ t, Machine.exec (.cspush f) s = .next t ∧ t.iss.last = .done ∧
          (∀ l, l < 128 → lane t.myTile w l = lane u.myTile w l ++ new l) ∧
          (∀ x l, x ≠ w → l < 128 → lane t.myTile x l = lane u.myTile x l)) ∧
      ((∃ l, l < 128 ∧ 16 < (lane u.myTile w l).length + (new l).length) →
        Machine.exec (.cspush f) s = .next (s.trapped s cSTREAM_FULL 0))) ∧
    (Ready (.cspop f) s → width f.t1.toNat = s.shapeW → wf (.cspop f) = true →
      let w := num f.a
      let es := s.actives f.pr.toNat
      let rank := fun e => (es.filter (fun x => x % 128 == e % 128 && x < e)).length
      ∃ t g, Machine.exec (.cspop f) s = .next t ∧ t.iss.last = .done ∧
        t.myCtx.inflight = u.myCtx.inflight ++ [⟨s.iss.exe, vPut f.d 32 es g, none, 4, false, none⟩] ∧
        (∀ e ∈ es, g e = match (lane u.myTile w (e % 128))[rank e]? with | some x => x.toNat | none => 0) ∧
        (∀ l, l < 128 → lane t.myTile w l = (lane u.myTile w l).drop (es.filter (fun x => x % 128 == l)).length)) ∧
    (Ready (.csbal f) s → let w := num f.a
      ∃ t, Machine.exec (.csbal f) s = .next t ∧ t.iss.last = .done ∧
        ∀ l d, l < 128 → (lane t.myTile w l)[d]? =
          if bit f.m 0 = true then none else (u.myTile.records w)[d * 128 + l]?)

/-- The elementwise conversions (R172, R174, R176, R178 to R181, R184): the code of each active element is put in flight, when
no operand reaches beyond its register. `CVTI` (R177), and the forms that write planes, `XFP6S` and `XSHENC` (R182, R183). -/
def Obligations.Conversions : Prop :=
  (∀ (i : Instr) (f : RegF) (limit : Nat) (ws : List Nat) (g : Nat → Nat) (s u : State),
    convResult i s = some (f, limit, ws, g) → Ready i s → s.shapeN ≤ limit → xStart s (width f.t1.toNat :: ws) = .ok u →
    Machine.exec i s = .next (u.pend (vPut f.d (width f.t1.toNat) (s.actives f.pr.toNat) g) none 4).complete) ∧
  (∀ (f : RegF) (s u : State),
    let t2 := t2of f.m
    let val := fun e => valueOf t2 (elem (width t2) (s.vreg f.a) e) (bit f.m 9)
    let es := s.actives f.pr.toNat
    (Ready (.cvti f) s → s.occupyFor 1 false = .ok u →
      let c := lowW t2 (s.reg f.a)
      let r := if isFloat f.t1.toNat || isFloat t2 then roundV f.t1.toNat (s.rnd f.m 0) (valueOf t2 c (bit f.m 9))
        else fitInt f.t1.toNat (bit f.m 7) (intVal t2 c)
      Machine.exec (.cvti f) s = .next (u.yResult f.d (extT f.t1.toNat r) 4).complete) ∧
    (Ready (.xfp6s f) s → xStart s [6, width t2] = .ok u → s.myCtx.count < 63 →
      let code := fun e => roundV (16 + f.t1.toNat) (s.rnd f.m e) (val e)
      Machine.exec (.xfp6s f) s = .next ((u.pend (vPut f.d 4 es (fun e => code e / 4)) none 4).pend
        (vPut f.e 2 es (fun e => code e % 4)) none 4).complete) ∧
    (Ready (.xshenc f) s → xStart s [8, width t2] = .ok u → s.shapeN ≤ 2048 →
      let code := fun e => roundTo 1 (s.rnd f.m e) (sheafQ (val e) (f32 ((s.reg f.b).toNat % 2 ^ 32)))
      ∃ r, Machine.exec (.xshenc f) s = .next (u.pend r none 4).complete ∧
        ∀ e, e < 2048 → let v := SMap.get 0 (u.myCtx.land true r).v (num f.d)
          let old := SMap.get 0 u.myCtx.v (num f.d)
          let pick := fun (w at_ k : Nat) => if e ∈ es then code e / 2 ^ k % 2 ^ w else old.toNat / 2 ^ (at_ + w * e) % 2 ^ w
          v.toNat / 2 ^ (2 * e) % 2 ^ 2 = pick 2 0 6 ∧ v.toNat / 2 ^ (4096 + 2 * e) % 2 ^ 2 = pick 2 4096 4 ∧
          v.toNat / 2 ^ (8192 + 4 * e) % 2 ^ 4 = pick 4 8192 0))

/-! ### Engines -/

/-- Every M and C form that an engine runs (R187, R192, R207, R212): with legal operands and a free place it queues its
command and the stream goes on; the first check that fails is a trap; with full queues the stream waits. What queueing a
command does to its tile (R27, R187, R254): it stands last, the counter that it names has one more pending, and scratchpad,
accumulators, planes and contexts are as before. -/
def Obligations.EngineIssue : Prop :=
  (∀ (i : Instr) (matrix : Bool) (r : Chk Cmd) (s : State), engineCmd i s = some (matrix, r) → Ready i s →
    (∀ c, r = .ok c → s.myTile.room c = true → Machine.exec i s = .next (s.withCmd matrix c).complete) ∧
    (∀ cause a, r = .error (cause, a) → cause ≠ cSOFT_TRAP →
      Machine.exec i s = .next (s.trapped s cause (BitVec.ofNat 64 a))) ∧
    (∀ c, r = .ok c → s.myTile.room c = false →
      Machine.exec i s = .next { s.beginWait .poll true with iss := { s.iss with last := .waiting } })) ∧
  (∀ (t : Tile) (c : Cmd),
    let u := t.enqueue c
    (∃ b, u.cmds = t.cmds ++ [{ c with seq := t.seq, entered := b }]) ∧ u.seq = t.seq + 1 ∧
    (∀ n, c.counter = some n → u.counter n = { t.counter n with pending := (t.counter n).pending + 1 }) ∧
    (∀ n, c.counter ≠ some n → u.counter n = t.counter n) ∧
    u.scr = t.scr ∧ u.lines = t.lines ∧ u.accs = t.accs ∧ u.planes = t.planes ∧ u.ctxs = t.ctxs ∧ u.nests = t.nests)

/-- Operands that R192, R195, R212 and R215 allow: `LDSTAT` and `MMA` of plain local scratchpad in rows of their halves, and
`CPY` between global addresses. The command declares the bytes that it reads. `MNEST`, `CNEST` and `MPLANE` act as they issue
(R188, R197, R213): a slot of the shadow tables, or the plane map bits of the halves. -/
def Obligations.EngineOperands : Prop :=
  (∀ (f : EngF) (s : State),
    let a := (s.reg f.a).toNat
    let b := s.reg f.b
    let r := rowsOf b
    (∀ q ∈ halves f, s.cfg.engineOwner s.iss.peer s.iss.tile q = s.myCtx.part) → s.cfg.engineOwner s.iss.peer s.iss.tile 4 = s.myCtx.part →
    (bit f.m 4 = true → ∀ q ∈ halves f, splitArray s.cfg s.iss.peer s.iss.tile q = false) →
    (a % 128 = 0 → a + 128 * ldLines f.m ≤ 2 ^ 22 →
      ∃ c, engineCmd (.ldstat f) s = some (true, .ok c) ∧ c.queues = halves f ∧ c.rd = [(a, 128 * ldLines f.m)] ∧ c.wr = []) ∧
    (a % 128 = 0 → bits b 63 32 = 0 → bit b 15 = false → bit b 7 = false → rowsIn (halves f) r.row0 r.n = true →
      a + 128 * r.stride * (r.n - 1) + 128 * rowLines (bits f.m 3 0) ≤ 2 ^ 22 →
      ∃ c, engineCmd (.mma f) s = some (true, .ok c) ∧ c.queues = halves f ∧ c.va = s.reg f.a ∧ c.vb = b ∧
        c.rd = [(a, 128 * r.stride * (r.n - 1) + 128 * rowLines (bits f.m 3 0))] ∧ c.wr = []) ∧
    (bits (s.reg f.a) 63 57 = 0 → bits b 63 57 = 0 → s.reg f.e ≠ 0 → bits (s.reg f.e) 63 32 = 0 →
      ∃ c, engineCmd (.cpy f) s = some (false, .ok c) ∧ c.queues = [4] ∧ c.va = s.reg f.a ∧ c.vb = b ∧ c.ve = s.reg f.e ∧
        c.rd = [] ∧ c.wr = [])) ∧
  (∀ (f : EngF) (s : State),
    let a := s.reg f.a
    let b := s.reg f.b
    let t := s.myTile
    let owns := fun q => s.cfg.engineOwner s.iss.peer s.iss.tile q = s.myCtx.part
    (Ready (.mnest f) s → (∀ q ∈ halves f, owns q) →
      (if f.m.toNat < 6 then bits a 63 48 = 0 ∧ bits b 63 12 = 0
       else a.toNat % 128 = 0 ∧ (if f.m.toNat = 6 then rowsZero b = true else bits b 63 27 = 0)) →
      Machine.exec (.mnest f) s = .next (s.setMyTile (t.setNest (halves f) f.m.toNat (a, b))).complete) ∧
    (Ready (.cnest f) s → owns 4 →
      (if f.m.toNat < 6 then b = 0 else if f.m.toNat = 6 then eaddrOk a = true ∧ eaddrOk b = true
       else bits a 63 14 = 0 ∧ bits b 63 40 = 0) →
      Machine.exec (.cnest f) s = .next (s.setMyTile { t with nests := SMap.set (0, 0) t.nests (32 + f.m.toNat) (a, b) }).complete) ∧
    (Ready (.mplane f) s → wf (.mplane f) = true → (∀ q ∈ halves f, owns q ∧ splitArray s.cfg s.iss.peer s.iss.tile q = false) →
      ∃ u : Tile, Machine.exec (.mplane f) s = .next (s.setMyTile u).complete ∧ u = { t with pmap := u.pmap } ∧
        ∀ q, SMap.get false u.pmap q = if q ∈ halves f then
            (if f.m.toNat = 0 then !SMap.get false t.pmap q else decide (f.m.toNat ≠ 1))
          else SMap.get false t.pmap q))

/-- A pass of integers is exact (R56, R57): an accumulator element takes the sum of 128 products, modulo 2^32. One streamed
row of `MMA` (R59, R194, R195): a plane that its rows reach with blocks on the wrong axis faults before any row; each element
of the accumulator's row takes one pass over its column, from 0 when the row is zeroed first; no other row of any accumulator
changes; with the last row, once no earlier command sets or reads the tile's type, the tile takes the type of the pairing. One
row of `ACLR` and of `AWR` (R199, R200): the row becomes zero with no statistics, or what scratchpad holds; with the last row,
once no earlier command sets or reads it, the tile's type is the one that the form names. -/
def Obligations.MatrixPasses : Prop :=
  (∀ (pl : Plane) (t n row old : Nat) (fl0 fl1 : Bool), pl.ty ≤ 1 → t ≤ 1 →
    (passElem .int pl t n row old fl0 fl1 : Int) =
      ((old : Int) + ((List.range 128).map (fun k =>
        intVal pl.ty (SMap.get 0 pl.e n / 2 ^ (16 * k) % 2 ^ 16) * intVal t (row / 2 ^ (8 * k) % 2 ^ 8))).sum) % 2 ^ 32) ∧
  (∀ (cfg : Cfg) (p t : Nat) (tl u : Tile) (c : Cmd) (f : EngF) (k : Pairing) (d : Data), c.i = .mma f →
    let ty := bits f.m 3 0
    let r := rowsOf c.vb
    let q := c.queues.headD 0
    let i := r.row0 + c.prog
    let acc := q / 2 * 4 + bits f.m 6 5
    let half := fun h => tl.plane (physPlane cfg p t c.map (q / 2 * 2 + h) (b2n (bit f.m 4)))
    let pl := half (i / 64)
    let last := r.n ≤ c.prog + 1
    (c.prog = 0 → (∃ h ∈ rowHalves r.row0 r.n, (half h).axis = 1) → matrixStep cfg p t tl c = .error (.fault cQUANT_AXIS 0)) ∧
    ((c.prog = 0 → ∀ h ∈ rowHalves r.row0 r.n, (half h).axis ≠ 1 ∧ (half h).pairs ty = true) →
    pairing pl.ty pl.depth ty = some k → tl.rowBusy c acc i = false → (last → tl.typeBusy c acc = false) →
    tl.cmdRead p t c (c.va.toNat + 128 * r.stride * c.prog) (128 * rowLines ty) (some f.lay.toNat) f.ri = .ok (d, u) →
    u.accs = tl.accs →
    ∃ v, matrixStep cfg p t tl c = .ok v ∧
      (∀ n, n < 128 → at_ 32 ((v.acc acc).row i) n =
        passElem k pl ty n (Data.nat d) (at_ 32 (if bit f.m 7 then 0 else (tl.acc acc).row i) n) (bit f.m 8) (bit f.m 9) % 2 ^ 32) ∧
      (∀ x j, (x, j) ≠ (acc, i) → (v.acc x).row j = (tl.acc x).row j) ∧ v.scr = u.scr ∧
      (v.acc acc).int = if last then streamsInt ty else (tl.acc acc).int)) ∧
  (∀ (cfg : Cfg) (p t : Nat) (tl : Tile) (c : Cmd) (f : EngF),
    let q := c.queues.headD 0
    (∀ acc i lo, c.i = .aclr f → acc = q / 2 * 4 + bits f.m 1 0 → lo = (if c.queues.any (· % 2 == 0) then 0 else 64) →
      i = lo + c.prog → tl.rowBusy c acc i = false →
      let last := (if c.queues.any (· % 2 == 1) then 128 else 64) ≤ lo + c.prog + 1
      (last → tl.typeBusy c acc = false) →
      ∃ v, matrixStep cfg p t tl c = .ok v ∧ (v.acc acc).row i = 0 ∧ (v.acc acc).bad i = false ∧
        (v.acc acc).stat i = {} ∧ (∀ x j, (x, j) ≠ (acc, i) → (v.acc x).row j = (tl.acc x).row j) ∧
        (v.acc acc).int = if last then bit f.m 2 else (tl.acc acc).int) ∧
    (∀ acc i d u, c.i = .awr f → acc = q / 2 * 4 + bits f.m 1 0 → i = (drainRows c.va).row0 + c.prog →
      tl.rowBusy c acc i = false →
      tl.cmdRead p t c (bits c.va 31 0 + 512 * c.prog) 512 (some f.lay.toNat) f.ri = .ok (d, u) → u.accs = tl.accs →
      let last := (drainRows c.va).n ≤ c.prog + 1
      (last → tl.typeBusy c acc = false) →
      ∃ v, matrixStep cfg p t tl c = .ok v ∧ (v.acc acc).row i = Data.nat d ∧ (v.acc acc).bad i = Data.poison d ∧
        (∀ x j, (x, j) ≠ (acc, i) → (v.acc x).row j = (tl.acc x).row j) ∧
        (v.acc acc).int = if last then bits f.m 5 2 == 4 else (tl.acc acc).int))

/-! ### Threads, traps and system forms -/

/-- `WAITB` (R230, R231): a threshold that has been reached lets the stream go on, with no other effect; a hopeless one, which
pending increments do not reach and for which no context with rights is left, is `WAIT_ORPHAN`; any other is waited for.
`ENQR` and `HMSG` (R229, R232, R237): an entry or message that has been accepted lets the stream go on, with no other effect;
any other answer to it is the cause of a trap. Before that, once the stream's earlier stores have been performed, `ENQR`
queues the entry of its block at the engine of a tile of the partition, `HMSG` sends the payload as a request to its target,
whose lines have been checked, and the stream waits for the answer; an engine of another partition is `PERM_FAULT`, and
nothing is queued. -/
def Obligations.WaitsAndAnswers : Prop :=
  (∀ (f : ImmF) (s : State), Ready (.waitb f) s →
    let n := num f.d
    let thr : BitVec 32 := (s.reg f.a + f.imm.signExtend 64).setWidth 32
    let c := s.myTile.counter n
    let hopeless := (c.val + c.pending - thr).toInt < 0 ∧ ∀ k, k < 8 → c.rights.getLsbD k = true →
      (s.myTile.ctx k).status = .free ∨ (s.myTile.ctx k).status = .ending
    ((c.val - thr).toInt ≥ 0 → Machine.exec (.waitb f) s = .next s.complete) ∧
    ((c.val - thr).toInt < 0 → hopeless → Machine.exec (.waitb f) s = .next (s.trapped s cWAIT_ORPHAN 0)) ∧
    ((c.val - thr).toInt < 0 → ¬hopeless → Machine.exec (.waitb f) s = .next (s.waits s (.counter n thr) false))) ∧
  ((∀ (i : Instr) (s : State), ((∃ f, i = .enqr f) ∨ (∃ f, i = .hmsg f)) → Ready i s →
    let u := s.setMe { s.me with answer := none, block := none }
    (s.me.answer = some 0 → Machine.exec i s = .next u.complete) ∧
    (∀ a, s.me.answer = some a → a ≠ 0 → a ≠ cSOFT_TRAP → Machine.exec i s = .next (s.trapped u a 0))) ∧
  (∀ (f : RegF) (s v : State) (at_ : Nat) (j : Instr) (es : List Nat), Ready (.enqr f) s →
    let p := s.iss.peer
    let t := bits (s.reg f.b) 13 9
    let word := fun k => BitVec.ofNat 64 (v.myTile.rd (at_ + 8 * k) 8)
    s.me.answer = none → s.me.awaits = false → s.me.block = none → bits (s.reg f.b) 63 14 = 0 → bits (s.reg f.b) 8 0 = p →
    p < s.peers → (s.reg f.a).toNat % 32 = 0 → s.scratch (s.reg f.a) = .ok (at_, v) → v.iss = s.iss → v.myCtx = s.myCtx →
    v.cfg = s.cfg → enqrWord (word 0) = some j → enqrEngines j = some es →
    let x : Enqr := {
      peer := p, tile := s.iss.tile, ctx := s.iss.ctx, exe := s.iss.exe, word := word 0, va := word 1, vb := word 2, ve := word 3,
      vf := s.myCtx.vf, part := s.myCtx.part, op := s.myCtx.op, seed := s.myCtx.srseed, salt := s.me.salt, resv := s.me.resv.toNat }
    ((∀ e ∈ es, s.cfg.engineOwner p t e = s.myCtx.part) → v.storesDone = true →
      Machine.exec (.enqr f) s = .next (s.waits (v.modTile p t fun y => { y with enqr := y.enqr ++ [x] }) .answer true)) ∧
    ((∃ e ∈ es, s.cfg.engineOwner p t e ≠ s.myCtx.part) → Machine.exec (.enqr f) s = .next (s.trapped v cPERM_FAULT 0))) ∧
  (∀ (f : RegF) (s v : State) (peer t at_ at0 : Nat), Ready (.hmsg f) s →
    let a := s.reg f.a
    let b := s.reg f.b
    let e := s.reg f.e
    let src := bits a 31 0
    let n := bits a 43 32 + 1
    s.me.answer = none → s.me.awaits = false → eaddr b = .scr peer t at_ → bits a 63 44 = 0 → eaddrOk b = true →
    eaddrLost b s.peers = false → bit e 0 = false → bits e 63 57 = 0 → src % 128 = 0 → at_ % 128 = 0 →
    (∃ x, s.myTile.span src n = .ok x) → s.scratch (BitVec.ofNat 64 src) = .ok (at0, v) → v.iss = s.iss → v.storesDone = true →
    v.gone s.iss.peer peer = false →
    let lines := List.range ((n + 127) / 128)
    let w := v.setMyTile (lines.foldl (fun y k => (y.checkLine (at0 / 128 + k)).2) v.myTile)
    let k : Packet := { w.header 0x0F peer 0 with
      tile := t, addr := at_, size := n, bytes := (List.range n).map (fun k => BitVec.ofNat 8 (w.myTile.rd (at0 + k) 1))
      poison := (lines.map (fun k => b2n (w.myTile.checkLine (at0 / 128 + k)).1 * 2 ^ k)).sum, args := [e.toNat] }
    Machine.exec (.hmsg f) s = .next (s.waits (w.request k none).2 .answer true)))

/-- `JOIN`, `LEAVE` and `GBAR` (R233, R234): a stream joins a group under its key, the last to leave frees it, and a completed
generation lets an arrived stream go on. -/
def Obligations.GroupForms : Prop :=
  ∀ (f : ImmF) (s : State),
    let n := f.imm.toNat
    let g := s.myDie.group n
    (Ready (.join f) s → g.members = [] → Machine.exec (.join f) s = .next (s.setMyDie (s.myDie.setGroup n
      { key := s.reg f.a, owner := s.myCtx.part, members := [s.myId] })).complete) ∧
    (Ready (.join f) s → g.members ≠ [] → g.owner = s.myCtx.part → g.key = s.reg f.a → s.myId ∉ g.members →
      Machine.exec (.join f) s = .next (s.setMyDie (s.myDie.setGroup n { g with members := g.members ++ [s.myId] })).complete) ∧
    (Ready (.join f) s → g.members ≠ [] → g.owner = s.myCtx.part → (g.key ≠ s.reg f.a ∨ s.myId ∈ g.members) →
      Machine.exec (.join f) s = .next (s.trapped s cSYNC_FAULT 0)) ∧
    (Ready (.leave f) s → g.owner = s.myCtx.part → g.key = s.reg f.a → s.myId ∈ g.members →
      ∃ h : Group, Machine.exec (.leave f) s = .next (s.setMyDie (s.myDie.setGroup n h)).complete ∧
        h.members = g.members.filter (· != s.myId) ∧ (h.members = [] → h = {})) ∧
    (Ready (.gbar f) s → s.me.granted (.barrier n) = true → Machine.exec (.gbar f) s = .next s.complete)

/-- `TSTART` (R14, R235): the context that the form names, if it is dormant or free, starts both streams at the entries, every
register at its start value, with the issuer's binding. `TEXIT`, `DORM` and `OPEND` (R236): once nothing of the context is on
its way any more, and `OPEND` finds no command of it queued, the stream ends and leaves its groups; with the other stream
ended, the context becomes free, or dormant when both are, and `OPEND` ends the operator's work. -/
def Obligations.ThreadsStartAndEnd : Prop :=
  (∀ (f : RegF) (s : State), Ready (.tstart f) s →
    let a := s.reg f.a
    let b := s.reg f.b
    let e := s.reg f.e
    let p := s.iss.peer
    let t := bits e 13 9
    let c := bits e 16 14
    let x := s.myCtx
    let entryOk := fun (w : Word) => bit w 0 = false ∧ bits w 63 57 = 0
    entryOk a → entryOk b → bits e 63 18 = 0 → bits e 8 0 = p → p < s.peers → ¬ (a = 0 ∧ b = 0) → bit e 17 = false →
    (s.tile p t).bound = some x.op → (s.myDie.op x.op).live = true → s.cfg.binds p t c x.part = true → s.storesDone = true →
    (((s.tile p t).ctx c).status = .dormant ∨ (((s.tile p t).ctx c).status = .free ∧ (s.tile p t).noBind.contains c = false)) → (t, c) ≠ (s.iss.tile, s.iss.ctx) →
    ∃ y, Machine.exec (.tstart f) s = .next (s.setCtx p t c y).complete ∧ y.status = .running ∧
      y.acc = (if a = 0 then {} else { status := .running, pc := a.setWidth 57, hold := 4 }) ∧
      y.exe = (if b = 0 then {} else { status := .running, pc := b.setWidth 57, hold := 4 }) ∧
      y.op = x.op ∧ y.vf = x.vf ∧ y.part = x.part ∧ y.srseed = x.srseed ∧ y.lparam = x.lparam ∧ y.v = [] ∧ y.queues = []) ∧
  (∀ (i : Instr) (how : StreamStatus) (s : State),
    ((∃ f, i = .texit f ∧ how = .texit) ∨ (∃ f, i = .dorm f ∧ how = .dorm) ∨
      (∃ f, i = .opend f ∧ how = .opend ∧ s.ctxBusy s.iss.peer s.iss.tile s.iss.ctx = false)) → Ready i s →
    s.prior.sending = [] → s.me.sending = [] → (s.myCtx.stream (!s.iss.exe)).sending = [] → s.myCtx.asking = [] →
    s.flushHeld s.iss.peer = false →
    let other := (s.myCtx.stream (!s.iss.exe)).status
    ∃ t, Machine.exec i s = .next t ∧ t.iss.last = .done ∧
      (∀ g, s.myId ∉ ((t.die s.iss.peer).group g).members) ∧
      (other = .running → t.myCtx = s.myCtx.setStream s.iss.exe { s.me with status := how, wait := none }) ∧
      (other ≠ .running → t.myCtx = if how ≠ .dorm ∨ other = .texit ∨ other = .opend then {}
        else { s.myCtx.fresh with status := .dormant }) ∧
      (other ≠ .running → how = .opend ∨ other = .opend → ((t.die s.iss.peer).op s.myCtx.op).workDone = true))

/-- `TRAP` (R248, R263): the stream traps with `SOFT_TRAP` and the immediate as detail, to return to the next bundle. Taking a
trap (R263, R264, R266 to R269): the stream enters trap mode at `TVEC` with `EPC`, `ECAUSE` and `EADDR` set, and results in
flight, but for those that the next bundle sees (log 23), wait in the snapshot beside an outstanding access; the first bundle
of the handler is at least 4 tile cycles off; without a handler, or in trap mode, the context stops. `ERET` (R265): alone in
its bundle, in trap mode, once the handler's results have landed, the stream leaves trap mode and goes on at `EPC`, and the
snapshot's results count down again. Outside trap mode it is ILLOP. -/
def Obligations.TrapsTakenAndReturned : Prop :=
  (∀ (f : ImmF) (s : State), Ready (.trap f) s →
    Machine.exec (.trap f) s = .next { s.fetching.takeTrap s.iss.peer s.iss.tile s.iss.ctx s.iss.exe cSOFT_TRAP 0 f.imm.toNat false false
        (match s.iss.go with | some g => g.1 | none => s.iss.npc) with iss := { s.iss with last := .trapped cSOFT_TRAP } }) ∧
  (∀ (s : State) (p t c : Nat) (exe : Bool) (cause detail : Nat) (addr : Word) (async dfr : Bool) (epc : Addr),
    cause < 256 → detail < 256 →
    let x := s.ctx p t c
    let u := s.takeTrap p t c exe cause addr detail async dfr epc
    let y := u.ctx p t c
    let me := y.stream exe
    me.epc = epc.setWidth 64 ∧ me.eaddr = addr ∧ me.dfr = dfr ∧ me.wait = none ∧
    ((x.stream exe).snapLoad = none → me.gload = none ∧ me.snapLoad = (x.stream exe).gload) ∧
    ((x.stream exe).snapLoad ≠ none → me.gload = (x.stream exe).gload ∧ me.snapLoad = (x.stream exe).snapLoad) ∧
    me.ecause.toNat = (if async then 2 ^ 16 else 0) + detail * 2 ^ 8 + cause ∧
    ((x.stream exe).tvec ≠ 0 → (x.stream exe).tmode = false →
      me.tmode = true ∧ me.pc = (x.stream exe).tvec.setWidth 57 ∧ me.hold = max (x.stream exe).hold 4 ∧
        me.srpi = (x.stream exe).rpi ∧ y.status = x.status) ∧
    ((x.stream exe).tvec = 0 ∨ (x.stream exe).tmode = true →
      me.tmode = (x.stream exe).tmode ∧ me.pc = (x.stream exe).pc ∧ y.status = .stopped ∧ y.stopCause = cause) ∧
    y.inflight = x.inflight.filter (·.soon) ∧ y.snapshot = x.snapshot ++ x.inflight.filter (fun e => !e.soon) ∧
    me.x = (x.stream exe).x ∧ me.k = (x.stream exe).k ∧ me.kt = (x.stream exe).kt ∧ me.l = (x.stream exe).l ∧
    (∀ n, let j : Steer := SMap.get {} me.j n
      let k : Steer := SMap.get {} (x.stream exe).j n
      j.target = k.target ∧ j.tvalid = k.tvalid ∧ j.cond = k.cond) ∧
    y.v = x.v ∧ y.p = x.p ∧ y.lctl = x.lctl ∧ y.vshape = x.vshape ∧ (u.tile p t).scr = (s.tile p t).scr) ∧
  (∀ (f : RegF) (s : State), Ready (.eret f) s →
    (s.me.tmode = true → s.iss.wpc = s.iss.ipc → s.me.gload = none → s.myCtx.inflight = [] →
      (s.trapReturn s.iss.peer s.iss.tile s.iss.ctx s.iss.exe).myCtx.count ≤ 64 →
      ∃ t, Machine.exec (.eret f) s = .next t ∧ t.iss.last = .done ∧ t.iss.go = some (s.me.epc.setWidth 57, if s.me.refetch then 4 else s.me.fhold) ∧
        t.me.tmode = false ∧ t.me.pc = s.me.epc.setWidth 57 ∧ t.me.rpi = s.me.srpi ∧ t.me.x = s.me.x ∧ t.me.k = s.me.k ∧
        t.me.kt = s.me.kt ∧ t.myCtx.inflight = s.myCtx.snapshot ∧ t.myCtx.snapshot = [] ∧ t.myTile.scr = s.myTile.scr) ∧
    (s.me.tmode = false → Machine.exec (.eret f) s = .next (s.trapped s cILLOP 0)))

/-- `YIELD` (R238): where no other context of the tile could issue now, or once its wait is over, it lets the stream go on,
with no other effect; else the stream waits for those contexts, with 8 tile cycles on its count. `RESV` (R245, R427) of target
00 sets the entry of the current profile that the stream's engine commands name; of target 01 it takes the grant that has come
for its vector pipe, or drops the grant for an entry of no units, or asks for the entry's units and waits; an entry that the
profile does not hold for the target, or another target, is ILLOP. `FLOWQ` (R246) replaces the partition's boost of a zone by
one of the units and the time that it names, or by none for 0 units; a zone with no tile of the partition is `PERM_FAULT`, an
operand out of range ILLOP. `TLBI` (R249, R356, R359): once no access of the partition in its scope is on its way, the
partition's translations that overlap the range, or all of them, leave the tile's micro-TLB, or the die's TLB and every
tile's, and no other does; until then the stream waits. An operand that breaks its map is ILLOP. `CKPT` (R250, R417): the
context of the graph sequencer writes the partition's record, line by line to where its addresses lead, when no operator of
the partition runs but hooks; the log is then checkpointed up to its last entry, and operators may start again. While one runs
the stream waits, and no operator starts. Any other context is `PERM_FAULT`, an address that is no page of the space ILLOP. -/
def Obligations.SystemForms : Prop :=
  (∀ (f : RegF) (s : State), Ready (.yield f) s →
    let l := s.myTile.others s.iss.ctx
    (l = [] ∨ s.me.granted .yield = true → Machine.exec (.yield f) s = .next s.complete) ∧
    (l ≠ [] → s.me.wait = none →
      Machine.exec (.yield f) s = .next (s.waits (s.setMe { s.me with yhold := 8, yield := l }) .yield false))) ∧
  (∀ (f : RegF) (s : State),
    let a := s.reg f.a
    let n := bits a 7 0
    let x := s.myCtx
    let p := s.iss.peer
    let o := s.myDie.op x.op
    let k := if n = 0 then o.dv else n
    let held := n = 0 ∨ (o.current n 0).isSome = true ∨ (o.current n 1).isSome = true
    (Ready (.resv f) s →
      (bits a 63 10 ≠ 0 ∨ 2 ≤ bits a 9 8 → Machine.exec (.resv f) s = .next (s.trapped s cILLOP 0)) ∧
      (bits a 63 10 = 0 → bits a 9 8 = 0 →
        (held → Machine.exec (.resv f) s = .next (s.setMe { s.me with resv := BitVec.ofNat 8 n }).complete) ∧
        (¬held → Machine.exec (.resv f) s = .next (s.trapped s cILLOP 0))) ∧
      (bits a 63 10 = 0 → bits a 9 8 = 1 →
        (s.me.granted .current = true → Machine.exec (.resv f) s =
          .next (s.setMyCtx { x with grant := some (k, match o.current k 1 with | some (_, u) => u | none => 0) }).complete) ∧
        (s.me.granted .current = false →
          (o.current k 1 = none → Machine.exec (.resv f) s = .next (s.trapped s cILLOP 0)) ∧
          (∀ r, o.current k 1 = some (r, 0) →
            let u := s.setMyDie (s.myDie.dropGrant s.iss.tile s.iss.ctx)
            Machine.exec (.resv f) s =
              .next (u.setMyCtx { u.myCtx with grant := if n = 0 then none else some (n, 0) }).complete) ∧
          (∀ r u, o.current k 1 = some (r, u) → u ≠ 0 → s.me.wait = none →
            let ask : Reserve := {
              tile := s.iss.tile, eng := 4 + s.cfg.pipeOf p s.iss.tile s.iss.ctx x.part, id := s.iss.ctx * 2 + b2n s.iss.exe
              rail := 1, units := u, part := x.part, at_ := s.ninths }
            Machine.exec (.resv f) s =
              .next (s.waits (s.setMyDie { s.myDie with askCur := s.myDie.askCur ++ [ask] }) .current true))))) ∧
    (Ready (.flowq f) s →
      let z := bits a 3 0
      let b := s.reg f.b
      let u := bits b 3 0
      let fits := bits a 63 4 = 0 ∧ bits b 15 4 = 0 ∧ bits b 63 32 = 0 ∧ u ≤ 8 ∧ (u = 0 ∨ bits b 31 16 ≠ 0)
      (¬fits → Machine.exec (.flowq f) s = .next (s.trapped s cILLOP 0)) ∧
      (fits → s.inZone p x.part z = false → Machine.exec (.flowq f) s = .next (s.trapped s cPERM_FAULT 0)) ∧
      (fits → s.inZone p x.part z = true → Machine.exec (.flowq f) s = .next (s.modPower p fun w => { w with
        boosts := w.boosts.filter (fun y => !(y.zone == z && y.part == x.part)) ++
          (if u = 0 then [] else [{ zone := z, units := u, ends := s.now + bits b 31 16 * 1000000, part := x.part, granted := false }])
        }).complete))) ∧
  (∀ (f : RegF) (s : State), Ready (.tlbi f) s →
    let a := s.reg f.a
    let b := s.reg f.b
    let all := bit f.m 2
    let keeps := fun (e : TlbEntry) => ¬ (s.cfg.partOf s.iss.peer e.vf = s.myCtx.part ∧
      (all = true ∨ (e.va < a.toNat + (bits b 23 0 + 1) * 4096 ∧ a.toNat < e.va + e.size)))
    let fits := if all = true then a = 0 ∧ b = 0 else bits a 11 0 = 0 ∧ bits a 63 57 = 0 ∧ bits b 63 24 = 0
    let quiet := fun (t : Tile) => t.ctxs.all (fun c => c.2.part != s.myCtx.part || c.2.answered) = true
    let done := if bits f.m 1 0 = 0 then quiet s.myTile else ∀ t ∈ s.myDie.tiles, quiet t.2
    (¬fits → Machine.exec (.tlbi f) s = .next (s.trapped s cILLOP 0)) ∧
    (fits → ¬done → Machine.exec (.tlbi f) s = .next (s.waits s .poll false)) ∧
    (fits → done → ∃ t, Machine.exec (.tlbi f) s = .next t ∧ t.iss.last = .done ∧
      (bits f.m 1 0 = 0 → t.myDie.tlb = s.myDie.tlb) ∧
      (∀ e, e ∈ t.myTile.utlb ↔ e ∈ s.myTile.utlb ∧ keeps e) ∧
      (bits f.m 1 0 ≠ 0 → (∀ e, e ∈ t.myDie.tlb ↔ e ∈ s.myDie.tlb ∧ keeps e) ∧
        ∀ n e, e ∈ (t.tile s.iss.peer n).utlb ↔ e ∈ (s.tile s.iss.peer n).utlb ∧ keeps e))) ∧
  (∀ (f : RegF) (s : State), Ready (.ckpt f) s →
    let a := s.reg f.a
    let p := s.iss.peer
    let q := s.myCtx.part
    -- new operators are held back from now on
    let u := s.modPart p q fun x => { x with ckpt := true }
    let bs := u.ckptBytes p q
    let fits := bits a 63 57 = 0 ∧ bits a 11 0 = 0
    let running := s.myDie.ops.any (fun o => o.2.live && !o.2.hook && o.2.part == q)
    (¬fits → Machine.exec (.ckpt f) s = .next (s.trapped s cILLOP 0)) ∧
    (fits → s.cfg.seqCtx p q ≠ (s.iss.tile, s.iss.ctx) → Machine.exec (.ckpt f) s = .next (s.trapped s cPERM_FAULT 0)) ∧
    (fits → s.cfg.seqCtx p q = (s.iss.tile, s.iss.ctx) → running = true → Machine.exec (.ckpt f) s = .next (s.waits u .ckpt false)) ∧
    (∀ ws v, fits → s.cfg.seqCtx p q = (s.iss.tile, s.iss.ctx) → running = false →
      storeLines u a.toNat bs (bs.length / 128 + 1) = .ok (ws, v) → v.iss = s.iss → v.myCtx = s.myCtx →
      let w := ws.foldl (fun s x => s.writeLoc p x.1 x.2 false) v
      Machine.exec (.ckpt f) s = .next (w.modPart p q fun x => { x with
        ckpt := false, logckp := x.logseq, last := some ⟨x.logseq, w.myDie.launchesOf q, w.heldSlots p q⟩ }).complete))

/-- `GETC` and `SETC` (R8, R9, R83, R247): a register's value before the bundle goes to the destination with latency 1; a
write takes effect at once, that of a per-tile register at the end of the tile cycle, and that of a read-only register not at
all; an index in no table is ILLOP. -/
def Obligations.ControlRegisters : Prop :=
  ∀ (f : ImmF) (s : State),
    (∀ v, Ready (.getc f) s → controlValue f.imm.toNat s = some v → Machine.exec (.getc f) s = .next (s.yResult f.d v 1).complete) ∧
    (∀ u, Ready (.setc f) s → controlWrite f.imm.toNat (s.reg f.a) s = some u → Machine.exec (.setc f) s = .next u.complete) ∧
    (Ready (.setc f) s → s.iss.exe = true → f.imm.toNat = 0x010 → vsOk (s.reg f.a) = true →
      Machine.exec (.setc f) s = .next (s.pend (.vshape (BitVec.ofNat 64 (bits (s.reg f.a) 13 0))) none 1).complete) ∧
    (f.imm.toNat < 0x010 ∨ 0x420 < f.imm.toNat →
      (Ready (.getc f) s → Machine.exec (.getc f) s = .next (s.trapped s cILLOP 0)) ∧
      (Ready (.setc f) s → Machine.exec (.setc f) s = .next (s.trapped s cILLOP 0))) ∧
    (∀ (t : Tile) (n : Nat) (v : Word), t.setcs = [(n, v)] → 0x140 ≤ n → n ≤ 0x17F →
      t.applySets.counter (n - 0x140) = { t.counter (n - 0x140) with err := (t.counter (n - 0x140)).err && !bit v 0 } ∧
      t.applySets.setcs = [])

/-- `SEQ.TREE` and `SEQ.CHECK` (R240, R241, R332), at their turn at the sequence manager, which a form has at once where no
other waits: a tree that keeps the limits, read from lines without bad data (R397), moves its slot to state 2, its checks to
state 3. `SEQ.WINNOW`, `SEQ.ROLL`, `SEQ.PREEMPT`, `SEQ.RESUME` and `SEQ.STAT` (R242 to R244), at their turn at the sequence
manager: the accepted path goes to the slot and its result line to scratchpad, where no queue load still reads there; a set
length, a pre-emption that moves nothing (its slot's transfers that are over are forgotten) and a resumption of what was not
demoted change the slot alone; a status is read. -/
def Obligations.SequenceForms : Prop :=
  ((∀ s : State, s.myDie.smq = [] → ∃ v, s.smTurn = .ok v ∧ v.myDie = s.myDie ∧ v.iss = s.iss ∧ v.cfg = s.cfg) ∧
  ∀ (f : RegF) (s w u : State) (at_ n : Nat) (x : Slot),
    let a := s.reg f.a
    let b := s.reg f.b
    let k := bits b 38 32 + 1
    let byte := fun (len i hi lo : Nat) => u.myTile.seqRead at_ len / 2 ^ (8 * (16 * i + lo)) % 2 ^ (8 * (hi + 1 - lo))
    bits a 63 12 = 0 → n = bits a 11 0 → bits b 63 39 = 0 → k ≤ 64 → u.ownSlot n x → u.myCtx = s.myCtx → u.iss = s.iss →
    u.cfg = s.cfg → w.smTurn = .ok u →
    let good := fun (len : Nat) => ∀ i, i < (len + 127) / 128 → (u.myTile.checkLine (at_ / 128 + i)).1 = false
    (Ready (.seqTree f) s → s.seqAddr b (16 * k) = .ok (at_, w) → x.state = 1 → good (16 * k) →
      let ns := (List.range k).map (fun i => (⟨BitVec.ofNat 32 (byte (16 * k) i 3 0), byte (16 * k) i 4 4,
        BitVec.ofNat 32 (byte (16 * k) i 11 8)⟩ : Node))
      (∀ i, i < k → byte (16 * k) i 7 5 = 0 ∧ byte (16 * k) i 15 12 = 0) → treeOk ns x.len x = true →
      Machine.exec (.seqTree f) s = .next (u.slotResult n { x with state := 2, nodes := ns } f.d x.len).complete) ∧
    (Ready (.seqCheck f) s → s.seqAddr b (16 * (k + 1)) = .ok (at_, w) → x.state = 2 → x.nodes.length = k →
      good (16 * (k + 1)) →
      let cs := (List.range (k + 1)).map (fun i => (⟨BitVec.ofNat 32 (byte (16 * (k + 1)) i 3 0),
        BitVec.ofNat 32 (byte (16 * (k + 1)) i 7 4), BitVec.ofNat 16 (byte (16 * (k + 1)) i 9 8)⟩ : Check))
      byte (16 * (k + 1)) 0 9 4 = 0 → (∀ i, i < k + 1 → byte (16 * (k + 1)) i 15 10 = 0) →
      Machine.exec (.seqCheck f) s = .next (u.slotResult n { x with state := 3, checks := cs } f.d k).complete)) ∧
  (∀ (f : RegF) (s v : State) (n : Nat) (x : Slot),
    let a := s.reg f.a
    let b := s.reg f.b
    bits a 63 12 = 0 → n = bits a 11 0 →
    (∀ w u at_, Ready (.seqWinnow f) s → bits b 63 32 = 0 → s.seqAddr b 128 = .ok (at_, w) →
      w.scratchClash at_ 128 = false → w.smTurn = .ok u → u.ownSlot n x → u.myCtx = s.myCtx →
      u.cfg = s.cfg → u.iss = s.iss → x.state = 3 → bit (SMap.get (0 : Word) u.myDie.rules x.rule) 63 = true →
      ∃ t path, Machine.exec (.seqWinnow f) s = .next t ∧ t.iss.last = .done ∧
        path = winnow x (fun k => accepts (SMap.get 0 u.myDie.rules x.rule) s.myCtx.srseed.toNat n x.len k
          (x.nodes.getD k ⟨0, 0, 0⟩).q.toNat (x.checks.getD (k + 1) ⟨0, 0, 0⟩)) 16 0xFF ∧
        let bonus := (x.checks.getD (match path.getLast? with | none => 0 | some k => k + 1) ⟨0, 0, 0⟩).bonus
        let toks := path.map (fun k => (x.nodes.getD k ⟨0, 0, 0⟩).token) ++ [bonus]
        let line := (List.range 17).flatMap (fun j => leBytes 4 (toks.getD j 0).toNat) ++
          (List.range 16).map (fun j => BitVec.ofNat 8 (path.getD j 0xFF)) ++ List.replicate 44 0
        t.myDie.slot n = { x with state := 4, path := path, bonus := bonus } ∧
        t.myTile.scr = (u.myTile.wrLine (coreRank s.iss.ctx s.iss.exe) at_ line 0 false).scr ∧
        t.myCtx.inflight = s.myCtx.inflight ++ [⟨s.iss.exe, s.myCtx.dest s.iss.exe f.d (BitVec.ofNat 64 (path.length + 1)), none, 1,
          true, none⟩]) ∧
    (s.smTurn = .ok v → v.ownSlot n x →
      (Ready (.seqRoll f) s → bit b 63 = true → bits b 62 32 = 0 → (x.state = 1 ∨ x.state = 6) → bits b 31 0 ≤ x.len →
        Machine.exec (.seqRoll f) s = .next (v.slotResult n
          { x with state := 1, len := bits b 31 0, nodes := [], checks := [], path := [] } f.d (bits b 31 0)).complete) ∧
      (Ready (.seqRoll f) s → b = 0 → x.state = 4 → (∀ e ∈ x.path.zipIdx, e.1 = e.2) →
        let len := x.len + 1 + x.path.length
        Machine.exec (.seqRoll f) s = .next (v.slotResult n
          { x with state := 1, len := len, pending := x.bonus, nodes := [], checks := [], path := [] } f.d len).complete) ∧
      (Ready (.seqPreempt f) s → b = 0 → 1 ≤ x.state → x.state ≤ 3 →
        Machine.exec (.seqPreempt f) s = .next ((v.setMyDie (v.myDie.endSwaps n)).slotResult n
          { x with state := 5, nodes := [], checks := [], path := [] } f.d x.state).complete) ∧
      (Ready (.seqResume f) s → bits b 63 2 = 0 → x.state = 5 → x.slabs = [] → v.myDie.claims = [] → v.myDie.swaps = [] →
        Machine.exec (.seqResume f) s = .next (v.slotResult n { x with state := 1, prio := bits b 1 0 } f.d x.len).complete) ∧
      (Ready (.seqStat f) s → bits b 1 0 ≠ 3 →
        Machine.exec (.seqStat f) s = .next (v.slotResult n x f.d
          (if bits b 1 0 = 0 then x.state + x.prio * 2 ^ 3 + x.rule * 2 ^ 5 + x.nodes.length * 2 ^ 11 + (s.iss.peer % 8 * 24 + x.vf) * 2 ^ 18
           else if bits b 1 0 = 1 then x.len else x.pending.toNat)).complete) ∧
      (∀ i, (i = .seqPreempt f ∧ b = 0 ∧ 4 ≤ x.state) ∨ (i = .seqResume f ∧ bits b 63 2 = 0 ∧ x.state ≠ 5) → Ready i s →
        Machine.exec i s = .next (v.trapped v cSEQ_FAULT 0))))

/-! ### Events of a tile -/

/-- `RESULT_WRITEBACK`, `QUEUE_ENTRY_PRESENT` and `QUEUE_PLACE_FREED` (R19, R26, R149): a result that has reached its time
lands in its register, in order of issue, and its stream's waiting bundle looks again (log 22); an entry whose window has
closed is present; a place whose time has passed is free. `GLOBAL_LOAD_DATA_ARRIVAL` and `LDQ_ENTRY_FILL` (R126, R127): good
data, with no earlier L-slot result of the stream in flight, goes to the destination and into L2, bad data leaves a deferred
cause, and aborts the slot of a KV address (R412); a queue's entry is filled from its line once the line is full, looked up as
the buffer table then stands (R122). -/
def Obligations.TileEvents : Prop :=
  (∀ (p t c q : Nat) (s : State), s.powered = true →
    let x := s.ctx p t c
    (∃ u, Machine.exec (.resultWriteback p t c) s = .next u ∧ (u.ctx p t c).inflight = x.inflight.filter (fun e => !e.due) ∧
      (∀ e, x.inflight.filter (·.due) = [e] → e.shift = none →
        u.ctx p t c = ({ x with inflight := x.inflight.filter (fun e => !e.due) }.land e.exe e.w).lookAgain e.exe)) ∧
    (∃ u, Machine.exec (.queueEntryPresent p t c q) s = .next u ∧
      ((u.ctx p t c).queue q).entries.map (·.val) = (x.queue q).entries.map (·.val) ∧
      (∀ e ∈ (x.queue q).entries, e.age = 1 → { e with age := 0 } ∈ ((u.ctx p t c).queue q).entries) ∧
      (∀ r, r ≠ q → (u.ctx p t c).queue r = x.queue r)) ∧
    (∃ u, Machine.exec (.queuePlaceFreed p t c q) s = .next u ∧
      ((u.ctx p t c).queue q).freeing = (x.queue q).freeing.filter (· != 1) ∧
      ((u.ctx p t c).queue q).entries = (x.queue q).entries)) ∧
  (∀ (p t c q : Nat) (x : Bool) (s : State), s.powered = true →
    (∀ g v, (s.stream p t c x).gload = some g → g.data = some v → g.cause = 0 → (s.ctx p t c).longInFlight x = false →
      (∃ u, Machine.exec (.globalLoadDataArrival p t c x false) s = .next u ∧ (u.stream p t c x).gload = none ∧
        SMap.get 0 (u.stream p t c x).l 2 = gopOld g.op g.ty v ∧
        (sel g.dest = 0 → num g.dest ≠ 0 →
          SMap.get 0 (u.stream p t c x).x (physX x g.bkb (num g.dest)) = gopOld g.op g.ty v)) ∧
      (∃ u, Machine.exec (.globalLoadDataArrival p t c x true) s = .next u ∧
        (u.stream p t c x).gload = some { g with cause := cPOISONED } ∧ (u.stream p t c x).x = (s.stream p t c x).x ∧
        (let n := g.ea.toNat / 2 ^ 40 % 4096
         isKv g.ea.toNat = true → ((s.die p).slot n).state ≠ 0 → ((u.die p).slot n).state = 6))) ∧
    (∃ u, Machine.exec (.ldqEntryFill p t c q) s = .next u ∧
      (∀ e ea a ty, ((s.ctx p t c).queue q).entries = [e] → e.src = .scratch ea ty → (s.tile p t).resolve ea.toNat = .ok a →
        ((s.tile p t).lineInfo (a / 128)).full = true → (s.tile p t).good (a / 128) = true →
        ((u.ctx p t c).queue q).entries =
          [{ e with src := .none, poison := false, val := queueValue q ty ((s.tile p t).rd a (sizeOf_ ty)) }])))

/-- `STALLED_READ_PROCEEDS`, `WAITB_PASS`, `WAITV_PASS` and `PUBLISH_SWAP` (R125, R139, R140, R230): a wait whose condition
holds may go on; a `WAITV` that has been looked at in this tile cycle looks again in it (R29). `WAIT_ORPHAN`, `WAIT_TIMEOUT`
and `ASYNC_INTERRUPT` (R145, R229, R230, R267): the waiting bundle's stream traps with the cause, or, of an asynchronous
cause, between bundles. `TIMING_REPLAY` (R414): each failed check replays 4 tile cycles and counts; the fourth in a row raises
the vector rail. -/
def Obligations.WaitsEndOrTrap : Prop :=
  (∀ (p t c : Nat) (x : Bool) (s : State) (w : Wait), s.powered = true → (s.stream p t c x).wait = some w →
    let readyIn := fun (i : Instr) (tried : List Nat) => ∃ u, Machine.exec i s = .next u ∧
      (u.stream p t c x).wait = some { w with ready := true } ∧ u.tile p t = { s.tile p t with ctxs := (u.tile p t).ctxs, tried := tried }
    let ready := fun (i : Instr) => readyIn i (s.tile p t).tried
    (∀ ns, w.kind = .lines ns → (∀ n ∈ ns, ((s.tile p t).lineInfo n).full = true) → ready (.stalledReadProceeds p t c x)) ∧
    (∀ n thr, w.kind = .counter n thr → (((s.tile p t).counter n).val - thr).toInt ≥ 0 → ready (.waitbPass p t c x)) ∧
    (∀ n v, w.kind = .version n v → (((s.tile p t).buffer n).version - v).toInt ≥ 0 → 
      readyIn (.waitvPass p t c x) ((s.tile p t).tried.filter (· != c * 2 + b2n x))) ∧
    (∀ n, w.kind = .publish n → (s.tile p t).shadowBusy ((s.tile p t).buffer n) = false → ready (.publishSwap p t c x))) ∧
  (∀ (p t c : Nat) (x : Bool) (s : State), s.powered = true →
    let y := s.stream p t c x
    (∀ w n thr, y.wait = some w → w.kind = .counter n thr → w.ready = false → (s.tile p t).orphan n thr = true →
      Machine.exec (.waitOrphan p t c x) s = .next (s.takeTrap p t c x cWAIT_ORPHAN 0 0 false false y.pc)) ∧
    (∀ w, y.wait = some w → w.kind ≠ .answer → w.limited = true → w.ready = false → ((s.ctx p t c).stream (!x)).tmode = false → (s.ctx p t c).waitto ≠ 0 →
      w.since + (s.ctx p t c).waitto.toNat ≤ s.now →
      Machine.exec (.waitTimeout p t c x) s = .next (s.takeTrap p t c x cWAIT_TIMEOUT 0 0 false false y.pc)) ∧
    (∀ cause, cause ∈ (s.ctx p t c).exe.async → (s.ctx p t c).exe.status = .running → (s.ctx p t c).takesAsync = true →
      let z := { (s.ctx p t c).exe with async := (s.ctx p t c).exe.async.erase cause }
      Machine.exec (.asyncInterrupt p t c cause) s =
        .next ((s.setStream p t c true z).takeTrap p t c true cause 0 0 true false z.pc))) ∧
  (∀ (p t c n : Nat) (s : State), s.powered = true → (s.ctx p t c).status = .running → 0 < n →
    (n < 4 → ∃ u, Machine.exec (.timingReplay p t c n) s = .next u ∧ (u.ctx p t c).replay = (s.ctx p t c).replay + 4 * n ∧
      (u.tile p t).chafft.toNat = min (2 ^ 32 - 1) ((s.tile p t).chafft.toNat + n) ∧ (u.die p).power = (s.die p).power) ∧
    (4 ≤ n → (s.die p).power.point 1 < 15 → ∃ u, Machine.exec (.timingReplay p t c n) s = .next u ∧
      (u.ctx p t c).replay = (s.ctx p t c).replay + 16 ∧ (u.die p).power.point 1 = (s.die p).power.point 1 + 1))

/-- The start, going on and retirement of engine commands (R187 to R190, R207, R210, R255, R428): a command at the head of its
queues that nothing holds back runs with the buffer table as it stands; a finished one leaves, its counter rises and its
pending sum falls; a command stalled at a line goes on when the line has been filled or emptied. -/
def Obligations.CommandsMove : Prop :=
  ∀ (p t n : Nat) (copy : Bool) (s : State) (c : Cmd), s.powered = true → (s.tile p t).cmd n = some c →
    c.queues.contains 4 = copy → (∀ d ∈ (s.tile p t).cmds, d.seq = n → d = c) →
    let pick := fun (a b : Instr) => if copy then b else a
    (c.st = .queued → (s.tile p t).atHead c = true → c.entered = true → s.mayStart p t c = true →
      c.badCurrent (s.die p).power (t) = false →
      ∃ u, Machine.exec (pick (.engineCommandStart p t n) (.copyCommandStart p t n)) s = .next u ∧
        (u.tile p t).cmd n = some { c with
          st := .running, bufs := (s.tile p t).bufs, rd := c.rd ++ (s.tile p t).maskSpan c } ∧ (u.tile p t).scr = (s.tile p t).scr) ∧
    ((s.tile p t).retirable c = true →
      ∃ u, Machine.exec (pick (.engineCommandRetire p t n) (.copyCommandRetire p t n)) s = .next u ∧ (u.tile p t).cmd n = none ∧
        (∀ k, c.counter = some k → (u.tile p t).counter k = { (s.tile p t).counter k with
          val := ((s.tile p t).counter k).val + 1,
          pending := if ((s.tile p t).counter k).pending = 0 then 0 else ((s.tile p t).counter k).pending - 1,
          err := ((s.tile p t).counter k).err || c.err })) ∧
    (∀ l, c.stall = .empty l → ((s.tile p t).lineInfo l).full = true →
      ∃ u, Machine.exec (.engineLineFillResume p t n) s = .next u ∧ (u.tile p t).cmd n = some { c with stall := .none }) ∧
    (∀ l, c.stall = .back l → (s.tile p t).backed l = false →
      ∃ u, Machine.exec (.backpressureWriteResume p t n) s = .next u ∧ (u.tile p t).cmd n = some { c with stall := .none })

/-! ### Fabric -/

/-- `SLOT_INJECTION`, `STARVATION_LIMIT`, `SLOT_ARRIVAL` and `FLIT_RESEND` (R361 to R364, R367): the oldest slot of the tier
whose turn it is goes out in its ring direction, with its fixed route before it, which ends at its destination; one that
arrives is taken, sent once round its ring by a full buffer that books it an entry of the reserve buffer, or dropped and
counted when its kind is not listed or a zero field is not zero; a resent flit is counted. `READ_REQUEST`, `WRITE` and
`ATOMIC` at the home (R133, R352, R368, R369): a request that its frame, realm and key let through is performed, and answered
with the data, the acknowledgement or the old value; any other is answered by a nack of reason 2, and memory is unchanged. -/
def Obligations.FabricSlots : Prop :=
  (∀ (p : Nat) (s : State) (k : Packet), s.powered = true →
    (∀ tier dir l, s.nextInjection p = some (tier, dir) → s.waiting p tier dir = k :: l →
      ∃ u, Machine.exec (.slotInjection p) s = .next u ∧
        u.net = s.net.replace k { k with injected := true, hops := route s.packages k.src k.dst } ∧
        (tier = 1 → SMap.get 0 (u.die p).starve1 dir = 0) ∧ (tier = 2 → SMap.get 0 (u.die p).starve2 dir = 0)) ∧
    (∀ dir l, dir < 4 → s.waiting p 1 dir = k :: l → 64 ≤ SMap.get 0 (s.die p).starve1 dir →
      (∀ e, e < dir → SMap.get 0 (s.die p).starve1 e < 64) →
      ∃ u, Machine.exec (.starvationLimit p 1) s = .next u ∧
        u.net = s.net.replace k { k with injected := true, hops := route s.packages k.src k.dst } ∧
        SMap.get 0 (u.die p).starve1 dir = 0) ∧
    (∀ n a b, a < 8 * n → b < 8 * n → a ≠ b → (route n a b).getLast?.map (·.to_) = some b ∧ (a / 8 = b / 8 → (route n a b).length ≤ 4)) ∧
    (∀ full, s.arriving p = some k →
      ∃ u, Machine.exec (.slotArrival p full) s = .next u ∧
        if k.kind = 0 ∨ 0x12 < k.kind ∨ k.zero = false ∨ 2048 ≤ k.part then
          u.net = s.net.erase k ∧ (u.die p).chfd = bump (s.die p).chfd
        else if full = true ∧ k.circ = false then
          u.net = s.net.replace k { k with circ := true, booked := some (s.die p).bookings, hops := s.circuit k } ∧
            (u.die p).bookings = (s.die p).bookings + 1
        else u.net = putTaken { k with taken := true, reserved := full } (s.net.erase k) ∧ u.dies = s.dies) ∧
    -- among the slots that a station has taken, its reserve buffer's leave first, in the order in which they were booked
    (∀ x y l, x.taken = true → x.dst = p → y.dst = p → y.reserved = true →
      (x.reserved = false ∨ y.booked.getD 0 < x.booked.getD 0) → putTaken y (x :: l) = y :: x :: l) ∧
    (∃ u, Machine.exec (.flitResend p) s = .next u ∧ (u.die p).chfl = bump (s.die p).chfl ∧ u.net = s.net)) ∧
  (∀ (p : Nat) (s : State) (k : Packet), s.powered = true → s.gone p k.src = false → k.dst = p →
    let u := s.consume k
    (s.taken p 0x01 (fun _ => true) = some k →
      Machine.exec (.readRequest p) s = .next (if u.served k = true then
          { u with net := u.net ++ [{ k.reply 0x02 with bytes := leBytes k.size (u.readLoc p k.loc k.size), poison := u.badLoc p k.loc k.size }] }
        else { u with net := u.net ++ [k.refuse 2] })) ∧
    (s.taken p 0x03 (fun k => !s.heldLoc k.loc) = some k →
      Machine.exec (.write p) s = .next (if u.served k = true then
          (u.writeLoc p k.loc k.bytes false).send (k.reply 0x04)
        else { u with net := u.net ++ [k.refuse 2] })) ∧
    (s.taken p 0x05 (fun k => !s.heldLoc k.loc) = some k → u.served k = true → u.badLoc p k.loc k.size = 0 →
      let old := u.readLoc p k.loc k.size
      Machine.exec (.atomic p) s = .next ((match gopNew k.op k.ty old with
        | some v => u.writeLoc p k.loc (leBytes k.size v) false
        | none => u).send { k.reply 0x06 with bytes := leBytes k.size old })))

/-- `READ_RESPONSE`, `ATOMIC_RESPONSE`, `WRITE_ACK`, `NACK` and `REQUEST_TIMEOUT` at the requester (R126, R127, R369 to R371):
the data reaches the load that waits for its tag; an acknowledged write is no longer outstanding; a lost one is counted with
the peer that lost it, for the partition that the request carries; a request unanswered for 100 µs is lost.
`HANDLER_MESSAGE_RECEIVE`, `TILLER_THREAD_START`, `ENQR_ACCEPT`, `SYNC_REQUEST`, `ACQ_GRANT` and `GBAR_GENERATION_COMPLETE`
(R137, R232, R234, R237, R259, R260, R368): a message's payload lines are written with the marks that they carry, or it is
turned away with its cause and nothing written; the oldest claim takes the lowest dormant context; an entry becomes a command;
a request of the object's own realm joins its queue. -/
def Obligations.ResponsesAndArrivals : Prop :=
  (∀ (p : Nat) (s : State) (k : Packet) (r : Req) (g : GLoad), s.powered = true → (s.die p).reqOf k.tag = some r →
    let y := s.stream p r.tile r.ctx r.exe
    (∀ i kind, ((i = .readResponse p ∧ kind = 0x02) ∨ (i = .atomicResponse p ∧ kind = 0x06)) → s.taken p kind (fun _ => true) = some k →
      r.queue = none → y.gload = some g → g.tag = some r.tag →
      ∃ u, Machine.exec i s = .next u ∧ u.net = s.net.erase k ∧ (u.die p).reqOf r.tag = none ∧
        (u.stream p r.tile r.ctx r.exe).gload = some { g with data := some (leNat k.bytes), cause := k.poison }) ∧
    (s.taken p 0x04 (fun _ => true) = some k → r.kind ≠ 0x0F →
      ∃ u, Machine.exec (.writeAck p) s = .next u ∧ u.net = s.net.erase k ∧
        (u.stream p r.tile r.ctx r.exe).posted = y.posted.filter (·.1 != r.tag)) ∧
    (s.taken p 0x07 (fun _ => true) = some k → k.arg 0 = 0x03 → r.kind = 0x03 →
      ∃ u, Machine.exec (.nack p) s = .next u ∧ (u.stream p r.tile r.ctx r.exe).posted = y.posted.filter (·.1 != r.tag) ∧
        let q := r.part % 4
        ((u.die p).part q).lostN = ((s.die p).part q).lostN + 1 ∧ ((u.die p).part q).lostPeer = BitVec.ofNat 9 r.dst) ∧
    (r.kind = 0x01 → r.since + 100000 ≤ s.now → r.queue = none → y.gload = some g → g.tag = some r.tag → k.tag = r.tag →
      ∃ u, Machine.exec (.requestTimeout p r.tag) s = .next u ∧ (u.die p).reqOf r.tag = none ∧
        (u.stream p r.tile r.ctx r.exe).gload = some { g with data := none, cause := cPOISONED })) ∧
  (∀ (p t : Nat) (s : State), s.powered = true →
    (∀ k, s.taken p 0x0F (fun k => s.messageCause p k != 0 || (s.tile p k.tile).handlers.length < 16) = some k →
      s.messageCause p k = 0 →
      ∃ u m, Machine.exec (.handlerMessageReceive p) s = .next u ∧
        (u.tile p k.tile).handlers = (s.tile p k.tile).handlers ++ [m] ∧ m.entry = BitVec.ofNat 57 (k.arg 0) ∧
        m.x1 = BitVec.ofNat 64 k.addr ∧ m.x2 = BitVec.ofNat 64 k.size ∧ m.x3 = BitVec.ofNat 64 k.src ∧
        (∀ a, (s.tile p k.tile).resolve k.addr = .ok a → (u.tile p k.tile).scr =
          ((List.range ((k.bytes.length + 127) / 128)).foldl (fun tl i =>
            tl.wr fabricRank (a + 128 * i) ((k.bytes.drop (128 * i)).take 128) 0 (k.poison.testBit i)) (s.tile p k.tile)).scr)) ∧
    (∀ k, s.taken p 0x0F (fun k => s.messageCause p k != 0 || (s.tile p k.tile).handlers.length < 16) = some k →
      s.messageCause p k ≠ 0 → k.dst = p → s.gone p k.src = false →
      ∃ u, Machine.exec (.handlerMessageReceive p) s = .next u ∧ u.dies = s.dies ∧
        u.net = s.net.erase k ++ [if s.messageCause p k = cPERM_FAULT then k.refuse 2
          else { k.reply 0x04 with args := [s.messageCause p k] }]) ∧
    (∀ m l c, (s.tile p t).handlers = m :: l → (s.tile p t).dormant m.part = some c → m.entry ≠ 0 →
      ∃ u, Machine.exec (.tillerThreadStart p t) s = .next u ∧ (u.tile p t).handlers = l ∧ (u.ctx p t c).status = .running ∧
        (u.ctx p t c).exe.status = .running ∧ (u.ctx p t c).exe.pc = m.entry ∧ (u.ctx p t c).acc.status = .never ∧
        (∀ n, SMap.get 0 (u.ctx p t c).exe.x n = if n = 1 then m.x1 else if n = 2 then m.x2 else if n = 3 then m.x3 else
          if n = 4 then m.x4 else 0)) ∧
    (∀ e i c, (s.tile p t).nextEntry [] (s.tile p t).enqr = some e → enqrWord e.word = some i →
      takeWord i { cfg := s.cfg, peers := s.peers, p := p, t := t, part := e.part,
                   tile := { s.tile p t with enqr := (s.tile p t).enqr.erase e } } e.va e.vb e.ve = .cmd (.ok c) →
      ∃ u, Machine.exec (.enqrAccept p t) s = .next u ∧ (u.tile p t).enqr = (s.tile p t).enqr.erase e ∧
        (u.tile p t).cmds.length = (s.tile p t).cmds.length + 1 ∧ (u.stream e.peer e.tile e.ctx e.exe).answer = some 0) ∧
    (∀ k, s.taken p 0x10 (fun _ => true) = some k →
      (∀ w, (SMap.get ({} : SyncObj) (s.die p).sync (k.arg 0)).owner = some w → s.cfg.realmOf w.1 w.2 = s.cfg.realmOfId k.part) →
      ∃ u, Machine.exec (.syncRequest p) s = .next u ∧ u.net = s.net.erase k ∧
        (SMap.get ({} : SyncObj) (u.die p).sync (k.arg 0)).queue =
          (SMap.get ({} : SyncObj) (s.die p).sync (k.arg 0)).queue ++ [⟨k.src, k.srcTile, k.srcCtx, k.arg 1 == 1⟩]) ∧
    (∀ o h q, (SMap.get ({} : SyncObj) (s.die p).sync o).queue = h :: q → (SMap.get ({} : SyncObj) (s.die p).sync o).grants = true →
      s.flushHeld h.peer = false →
      ∃ u, Machine.exec (.acqGrant p o) s = .next u ∧ (SMap.get ({} : SyncObj) (u.die p).sync o).queue = q ∧
        (SMap.get ({} : SyncObj) (u.die p).sync o).holders = (SMap.get ({} : SyncObj) (s.die p).sync o).holders ++ [h] ∧
        (u.die h.peer).copies = [] ∧
        (∀ x w sh, (s.stream h.peer h.tile h.ctx x).wait = some w → w.kind = .sync p o sh →
          (u.stream h.peer h.tile h.ctx x).wait = some { w with ready := true })) ∧
    (∀ g, ((s.die p).group g).isOpen = true → (∀ i ∈ ((s.die p).group g).required, i ∈ ((s.die p).group g).arrived) →
      ∃ u, Machine.exec (.gbarGenerationComplete p g) s = .next u ∧ ((u.die p).group g).isOpen = false ∧
        ((u.die p).group g).arrived = [] ∧ ((u.die p).group g).members = ((s.die p).group g).members ∧
        (∀ i ∈ ((s.die p).group g).arrived, ∀ w, (s.stream p (i / 16) (i / 2 % 8) (i % 2 == 1)).wait = some w →
          (u.stream p (i / 16) (i / 2 % 8) (i % 2 == 1)).wait = some { w with ready := true })))

/-! ### Launches, sequences and storage -/

/-- `LAUNCH_TAG_WRITE`, `LAUNCH_COMPLETE`, `DISPATCH_AGE_LIMIT`, `OPERATOR_DISPATCH` and `OPERATOR_END` (R236, R307 to R316,
R419): a ready hook goes before the chosen operator; a logged dispatch that is to be repeated goes before both, once nothing
runs. `STAGE_FIRST_INPUT`, `SQIN` and `SQOUT` (R317, R320): a stage with its first input gains a free context; a pop takes the
oldest value of the stage's input queue; a push, a release, takes a place of the next stage's queue while it has room, from
which it is popped once the cycle's pushes have been merged. -/
def Obligations.LaunchesAndStages : Prop :=
  (∀ (p q : Nat) (s : State), s.powered = true →
    let d := s.die p
    (∀ v n bytes, d.launchDue.find? (fun x => x.1 == v && x.2.1 == n) = some (v, n, bytes) →
      (SMap.get ({} : Tdisp) d.tdisp v).tearing = false →
      let r := s.cfg.partOf p v
      ∃ u, Machine.exec (.launchTagWrite p v n) s = .next u ∧ (u.die p).launchDue = d.launchDue.erase (v, n, bytes) ∧
        if (d.launchesOf r).length < 64 then ((u.die p).launchesOf r).map (·.tag) =
            (d.launchesOf r).map (·.tag) ++ [BitVec.ofNat 64 (bytes / 2 ^ 448)]
          else ((u.die p).launchesOf r).map (·.tag) = (d.launchesOf r).map (·.tag) ∧
            (SMap.get ({} : Window) (u.die p).windows v).ovf = true) ∧
    (∀ x l, d.launchesOf q = x :: l → x.bad = true → x.cpl = 0 →
      let w : Window := SMap.get {} d.windows x.vf
      ∃ u, Machine.exec (.launchComplete p q) s = .next u ∧ (u.die p).launchesOf q = (x :: l).filter (·.id != x.id) ∧
        SMap.get ({} : Window) (u.die p).windows x.vf =
          { w with done := (w.done + 1) % 256, tag := x.tag, fail := true, irqs := w.irqs + x.flags % 2 }) ∧
    (∃ u, Machine.exec (.dispatchAgeLimit p q) s = .next u ∧
      (u.die p).launchesOf q = (d.launchesOf q).map (fun x => { x with aged := x.aged ++ x.aging s.now })) ∧
    (∀ c, (d.part q).replay = [] → ((d.launchesOf q).map (·.running.length)).sum < 8 →
      (s.hook p q = some c ∨ (s.hook p q = none ∧ s.choose p q (s.cands p q) = some c)) →
      Machine.exec (.operatorDispatch p q) s = .next (s.dispatch p q c.x c.i c.e)) ∧
    (∀ id i l x e, (d.part q).replay = (id, i) :: l → (d.launchesOf q).find? (·.id == id) = some x →
      (∀ y ∈ d.launchesOf q, y.running = []) → s.vfRunnable p q x.vf = true → s.entryAt p q x i = some e → e.kind = 0 →
      (d.part q).ckpt = false → s.fits p q ⟨x, i, e, x.prio, 0⟩ = true →
      Machine.exec (.operatorDispatch p q) s = .next ((s.modPart p q fun y => { y with replay := l }).dispatch p q
        { x with flags := x.flags % 2 } i e)) ∧
    (∀ id cause i, (d.part q).replay = [] → s.nextEntry p q = none → s.breaks p q = some (id, cause, i) →
      Machine.exec (.operatorDispatch p q) s = .next (s.modLaunch p q id fun y =>
        { y with broken := true, failed := if y.failed.isSome then y.failed else some (cause, i) })) ∧
    (∀ o, s.opDone p o = true →
      ∃ u, Machine.exec (.operatorEnd p o) s = .next u ∧ (u.die p).op o = {} ∧
        ∀ t, (d.op o).hook = false → t ∈ (d.op o).tiles → (u.tile p t).bound = none ∧ (u.tile p t).handlers = [] ∧ (u.tile p t).sbs = [])) ∧
  (∀ (p o g : Nat) (s : State), s.powered = true →
    let x := (s.die p).op o
    let st : Stage := x.stages.getD g {}
    (∀ t c, x.live = true → 0 < g → g < x.stages.length → st.begun = false → st.q ≠ [] → s.freeOf p x = some (t, c) →
      ∃ u, Machine.exec (.stageFirstInput p o g) s = .next u ∧ (u.ctx p t c).status = .running ∧ (u.ctx p t c).stage = g ∧
        (u.ctx p t c).op = o ∧ (((u.die p).op o).stages.getD g {}).begun = true) ∧
    (∀ (dst : BitVec 8) v vs, p = s.iss.peer → o = s.myCtx.op → g = s.myCtx.stage → g ≠ 0 → s.myCtx.release = false →
      st.q = v :: vs → s.myCtx.count < 64 →
      Machine.exec (.sqin dst) s = .next ((s.modStage p o g fun y => { y with q := vs }).yResult dst v 1).complete) ∧
    (∀ (src : BitVec 8), p = s.iss.peer → o = s.myCtx.op → g = s.myCtx.stage + 1 → g < x.stages.length → s.reg src ≠ 0 →
      (s.reg src).getLsbD 0 = false → st.len < st.depth → s.storesDone = true → s.loadsDone = true → s.myCtx.count < 64 →
      Machine.exec (.sqout src) s = .next (s.modStage p o g fun y => { y with new := y.new ++ [s.reg src] }).complete) ∧
    (st.merge.q = st.q ++ st.new ∧ st.merge.new = []))

/-- `REBINDING_INTERVAL`, `PERIOD_START`, `OVERRUN` and `OVERRUN_ABORT` (R316, R321 to R323, R431): at an interval, where no
stage is still owed a context, each stage is looked at from the last to stage 1 of each operator, and changes at most once:
the highest context not yet marked is marked for release where the output queue is full and others remain, or the input queue
is empty, and a free context joins where the input queue has entries and the output queue has room; a period credits deficits,
takes its budget off the pipes' counts, and makes the limits written since effective; an operator that runs too long gets
`OVERRUN` in its contexts, and 100 µs later is aborted and counted. `GANG_TICK`, `GANG_SWITCH`, `ZMON_HOLD` and `ZMON_RELEASE`
(R266, R324, R325, R327, R413): a tick takes up the tables written since the last one; from it to its switch only the VFs that
both slices list are dispatched; the switch, 25 µs later, aborts what still runs of the VFs that go out, counts each, and
steps the slice; a release aborts a stopped context's operator, and `zmon` lets the partition go with its last stopped context
(log 128). -/
def Obligations.SchedulerTimes : Prop :=
  (∀ (p o g : Nat) (s : State), s.powered = true →
    let d := s.die p
    let x := d.op o
    let st : Stage := x.stages.getD g {}
    let cs := (s.stageCtxs p o g).filter (fun e => !(s.ctx p e.1 e.2).release)
    let outFull := (x.stages[g + 1]?).any (fun n => n.depth ≤ n.len)
    (d.rebindAt < s.now / 10000 → (∀ e ∈ d.ops, ∀ y ∈ e.2.stages, y.owed = false) →
      Machine.exec (.rebindingInterval p) s = .next ((d.ops.filter (fun e => e.2.live && !e.2.hook)).foldl
        (fun s e => ((List.range (e.2.stages.length - 1)).map (e.2.stages.length - 1 - ·)).foldl (fun s g => s.rebindStage p e.1 g) s)
        (s.modDie p fun d => { d with rebindAt := s.now / 10000, tiles := d.tiles.map (fun t => (t.1, { t.2 with noBind := [] })) }))) ∧
    (∀ t c, (outFull = true ∧ 1 < cs.length) ∨ st.len = 0 → cs.getLast? = some (t, c) →
      s.rebindStage p o g = s.modCtx p t c fun y => { y with release := true }) ∧
    (∀ t c, st.len ≠ 0 → outFull = false → s.freeOf p x = some (t, c) →
      s.rebindStage p o g = (s.modStage p o g fun y => { y with begun := true, owed := false }).startStage p o g t c 0) ∧
    (st.len ≠ 0 → outFull = true → cs.length ≤ 1 → s.rebindStage p o g = s) ∧
    (d.periodAt < s.now / 1000 → ∃ u, Machine.exec (.periodStart p) s = .next u ∧ (u.die p).periodAt = s.now / 1000 ∧
      (u.die p).power.climAct = d.power.clim ∧ (u.die p).power.pbudAct = d.power.pbud ∧
      (∀ v, v < 24 →
        let n : Int := (SMap.get 16 (d.part (s.cfg.partOf p v)).vfq v).toNat
        let old := SMap.get 0 d.deficit v
        SMap.get 0 (u.die p).deficit v = (if d.vfActive (s.cfg.partOf p v) v then min (old + n) (4 * n) else old) -
          ((d.ops.filter (fun e => e.2.live && e.2.vf == v)).map (·.2.tiles.length)).sum) ∧
      (∀ t tl k y, SMap.find d.tiles t = some tl → SMap.find tl.pipes k = some y → (SMap.get {} (u.tile p t).pipes k : Pipe) =
        { y with used := y.used - (d.part (s.cfg.engineOwner p t (5 + k))).vbud })) ∧
    (x.live = true → x.hook = false →
      (x.overrun = false → x.since + 400000 ≤ s.now →
        ∃ u, Machine.exec (.overrun p o) s = .next u ∧ ((u.die p).op o).overrun = true ∧
          ∀ t c, (t, c) ∈ s.opCtxs p o → (s.ctx p t c).status = .running → (s.ctx p t c).exe.status = .running →
            cOVERRUN ∈ (u.ctx p t c).exe.async) ∧
      (x.overrun = true → x.since + 500000 ≤ s.now →
        ∃ u, Machine.exec (.overrunAbort p o) s = .next u ∧ (u.die p).op o = {} ∧
          ((u.die p).part x.part).ovrn = (d.part x.part).ovrn + 1))) ∧
  (∀ (p q : Nat) (s : State), s.powered = true →
    let d := s.die p
    let x := d.part q
    (x.tickDue s.now = true → x.switch = none →
      ∃ u, Machine.exec (.gangTick p q) s = .next u ∧ ((u.die p).part q).tickAt = s.now ∧ ((u.die p).part q).actT = x.gangt ∧
        ((u.die p).part q).actN = x.gangn ∧ ((u.die p).part q).slice = x.slice ∧
        ∃ outs stay, ((u.die p).part q).switch = some (s.now, outs, stay) ∧ ∀ v, v < 24 →
          let now := bit (gangSlice s.cfg p q x.actT x.slice) v
          let next := bit (gangSlice s.cfg p q x.gangt ((x.slice + 1) % (x.gangn.toNat + 1))) v
          (v ∈ outs ↔ now = true ∧ next = false) ∧ (v ∈ stay ↔ now = true ∧ next = true)) ∧
    (∀ v t outs stay, x.switch = some (t, outs, stay) → (s.vfRunnable p q v = true ↔ v ∈ stay)) ∧
    (∀ t outs stay, x.switch = some (t, outs, stay) → t + 25000 ≤ s.now →
      let late := d.ops.filter (fun o => o.2.live && o.2.part == q && outs.contains o.2.vf)
      ∃ u, Machine.exec (.gangSwitch p q) s = .next u ∧
        (late = [] → (u.die p).part q = { x with switch := none, slice := x.nextSlice }) ∧
        ((u.die p).part q).switch = none ∧ ((u.die p).part q).slice = x.nextSlice ∧
        ((u.die p).part q).late = x.late + BitVec.ofNat 32 late.length ∧
        ∀ o, (d.op o).live = true → (d.op o).part = q → (d.op o).vf ∈ outs → (u.die p).op o = {}) ∧
    (∃ u, Machine.exec (.zmonHold p q) s = .next u ∧ (u.die p).part q = { x with zmon := true }) ∧
    (∀ t c, (s.ctx p t c).part = q →
      let y := s.ctx p t c
      let w := if y.status = .stopped then s.failOp p y.op y.stopCause else s
      Machine.exec (.zmonRelease p t c) s =
        .next (if w.holdsStop p q = true then w else w.modPart p q fun z => { z with zmon := false }) ∧
      (y.status = .stopped → (d.op y.op).live = true → (w.die p).op y.op = {})))

/-- `ALLOC`, `FREE`, `RULE`, `SLABNEW` and `SLABFREE`, the commands of `SMCMD` (R330 to R332, R335, R339), at their turn at
the sequence manager: with what each needs, the slot table changes and `SMRES` holds status 0 and the slot; a slot that may
not be named gives status 2, and an invalid rule status 3, and the table is unchanged. `CLAIM_MET`, `SM_PREEMPT_APPLY` and
`RECLAIM_TIMEOUT` (R341, R343, R346): a pre-emption of slabs with no held tile is made once the transfers that it needs have
been, and asks for them before that. -/
def Obligations.SequenceManager : Prop :=
  (∀ (w : Word) (s v : State), s.powered = true → bits w 63 39 = 0 → bits w 33 32 ≤ 1 → s.smTurn = .ok v →
    let d := v.myDie
    let p := v.iss.peer
    let done := fun (u : State) (status n : Nat) =>
      (u.setMyCtx { u.myCtx with smres := BitVec.ofNat 64 (status * 2 ^ 56 + n) }).complete
    let mine := fun (n : Nat) (l : List Nat) => n = bits w 15 4 ∧ v.cfg.partOf p (d.slot n).vf = v.myCtx.part ∧ (d.slot n).state ∈ l
    (∀ n, bits w 3 0 = 0 → d.ruleOk (bits w 29 24) = true → d.lowestFree = some n →
      (d.slots.filter (fun e => e.2.state != 0 && e.2.vf == v.myCtx.vf)).length < d.slotLimit v.myCtx.vf →
      ∃ x : Slot, Machine.exec (.alloc w) s = .next (done (v.setMyDie { d.setSlot n x with slotAge := d.slotAge + 1 }) 0 n) ∧
        x.state = 1 ∧ x.vf = v.myCtx.vf ∧ x.prio = bits w 31 30 ∧ x.rule = bits w 29 24 ∧ x.slabs = [] ∧ x.len = 0) ∧
    (bits w 3 0 = 0 → d.ruleOk (bits w 29 24) = false → Machine.exec (.alloc w) s = .next (done v 3 0)) ∧
    (∀ n, bits w 3 0 = 1 → mine n [1, 5, 6] → (∀ b ∈ (d.slot n).slabs, d.slabMoves n b.1 = false ∧ d.slabHeld b.2 = false) →
      (∀ w ∈ d.swaps, w.slot ≠ n) →
      Machine.exec (.free w) s = .next (done (v.setMyDie (d.freeSlot n)) 0 0) ∧ (d.freeSlot n).slot n = {}) ∧
    (∀ n, bits w 3 0 = 2 → mine n [1] → d.ruleOk (bits w 29 24) = true →
      Machine.exec (.rule w) s =
        .next (done (v.setMyDie (d.setSlot n { d.slot n with rule := bits w 29 24, prio := bits w 31 30 })) 0 0)) ∧
    (∀ n, let x := d.slot n
      let vf := v.myCtx.vf
      let b := v.smSlab w vf
      bits w 3 0 = 3 → mine n [1, 6] → bits v.myCtx.smarg 63 47 = 0 → b.lsize ≤ 20 → b.bytes ≤ 2 ^ 29 →
      x.slabs.find (bits w 23 16) = none → d.runFree v.cfg p vf b.tier b.base b.bytes = true →
      d.demand v.cfg p b.tier vf (kvPages b.bytes) v.asker = .ok → d.claims = [] →
      Machine.exec (.slabnew w) s = .next (done (v.setMyDie ((d.scrub b.tier b.base b.bytes).setSlot n
        { x with slabs := x.slabs.put (bits w 23 16) b })) 0 0)) ∧
    (∀ n b, bits w 3 0 = 4 → mine n [1, 6] → (d.slot n).slabs.find (bits w 23 16) = some b →
      d.slabMoves n (bits w 23 16) = false → d.slabHeld b = false →
      Machine.exec (.slabfree w) s = .next (done (v.setMyDie (d.freeSlab n (bits w 23 16))) 0 0)) ∧
    (∀ i, (i = .free w ∧ bits w 3 0 = 1) ∨ (i = .rule w ∧ bits w 3 0 = 2) ∨ (i = .slabnew w ∧ bits w 3 0 = 3) ∨
        (i = .slabfree w ∧ bits w 3 0 = 4) → (d.slot (bits w 15 4)).state = 0 →
      Machine.exec i s = .next (done v 2 0))) ∧
  (∀ (p tier n : Nat) (s : State), s.powered = true →
    let d := s.die p
    (∀ k ks, d.claimsOf tier = k :: ks → k.met = false → k.pages ≤ d.freePages s.cfg p tier →
      ∃ u, Machine.exec (.claimMet p tier) s = .next u ∧ (u.die p).claimsOf tier = { k with met := true } :: ks) ∧
    let out := d.goneOut (d.preempt s.cfg p n (s.pairReady p)) n
    ((d.slot n).doomed = true → d.vfRuns (d.slot n).vf = false → (∀ b ∈ (d.slot n).slabs, d.slabBusy n b.1 b.2 = false) →
      (d.swapped n out = false → (∀ w ∈ d.swaps, w.slot ≠ n) →
        Machine.exec (.smPreemptApply p n) s = .next (s.askSwap p n true out)) ∧
      (d.swapped n out = true → ∃ u, Machine.exec (.smPreemptApply p n) s = .next u ∧ ((u.die p).slot n).doomed = false ∧
        (((u.die p).slot n).state = 5 ∨ ((u.die p).slot n).state = 6 ∧ (u.die p).chrq = bump d.chrq) ∧
        ((u.die p).slot n).len = (d.slot n).len)) ∧
    (∀ k ks v x b, d.claimsOf tier = k :: ks → k.met = false → k.lender = some v → k.since + 1000000 ≤ s.now →
      d.slots = [(n, x)] → x.vf = v → x.state = 1 → x.doomed = false → x.slabs = [(0, b)] → b.demoted = none → b.tier = tier → b.vf = v →
      kvPages b.bytes ≠ 0 → d.freePages s.cfg p tier < k.pages →
      ∃ u, Machine.exec (.reclaimTimeout p tier) s = .next u ∧ (u.die p).slot n = { x with doomed := true }))

/-- `PAGE_WALK`, `PAGE_MIGRATION` and `DIRTY_LINE_EVICTION` (R288, R354 to R357): a walk fills both TLBs; a migrated page's
leaf names its new frame on the die itself, and a migration into a held frame waits (R389); an evicted copy is gone and its
dirty bytes are at a home that can be reached and whose frame is not held (log 32). `NVME_COMPLETION` and
`NVME_COMMAND_TIMEOUT` (R226, R346): a read's data is in hand, a write ends; a failure, or 1 s without a completion, is
recorded with the command's error; of a transfer of the sequence manager it aborts the slot (R412). -/
def Obligations.PagesAndStorage : Prop :=
  (∀ (p t v : Nat) (va : Word) (s : State), s.powered = true →
    (∀ l, va.toNat < 2 ^ 57 → isKv va.toNat = false → (s.tile p t).utlb.find? (·.covers v va.toNat) = none →
      (s.die p).tlb.find? (·.covers v va.toNat) = none → walk s p v va.toNat = some l →
      ∃ u, Machine.exec (.pageWalk p t v va) s = .next u ∧
        ⟨v, l.base, l.size, l.leaf⟩ ∈ (u.tile p t).utlb ∧ ⟨v, l.base, l.size, l.leaf⟩ ∈ (u.die p).tlb) ∧
    (∀ l, let k := (v, va.toNat / 4096 * 4096)
      let pool : Word := SMap.get 0 (s.die p).migpool v
      let next := bits pool 40 12
      let key := bits l.leaf 57 50
      p < 512 → k ∈ (s.die p).migDue → walk s p v (va.toNat / 4096 * 4096) = some l → leafAm l.leaf = 3 → bit l.leaf 63 = false →
      bits pool 63 44 ≠ 0 → s.cfg.inRange p v next = true → SMap.get 0 s.cfg.keyOwner (p * 256 + key) = s.cfg.partOf p v → key ≠ 0 →
      s.gone p (leafPeer l.leaf) = false → homeOk s (leafPeer l.leaf) (leafFrame l.leaf) key p v = true →
      SMap.get 0 (s.die p).holdCnt next = 0 →
      ∃ u, Machine.exec (.pageMigration p v va) s = .next u ∧ (u.die p).migDue = (s.die p).migDue.filter (· != k) ∧
        Memory.read (u.die p).dram l.addr 8 = key * 2 ^ 50 + p % 2 ^ 9 * 2 ^ 41 + next * 2 ^ 12 + bits l.leaf 8 0) ∧
    (s.migrateHeld p v = true → Machine.exec (.pageMigration p v va) s = .next s) ∧
    (∀ home line c, p < 512 → home < 2 ^ 9 → line < 2 ^ 34 → (s.die p).copies.find (home * 2 ^ 34 + line) = some c →
      s.gone p home = false → (c.dirty = 0 ∨ SMap.get 0 (s.die home).holdCnt (line / 32) = 0) →
      ∃ u, Machine.exec (.dirtyLineEviction p home line) s = .next u ∧ (u.die p).copies.find (home * 2 ^ 34 + line) = none ∧
        ∀ k, k < 128 → u.byteOf home 1 (128 * line + k) =
          if bit c.dirty k = true then BitVec.ofNat 8 (c.data / 2 ^ (8 * k)) else s.byteOf home 1 (128 * line + k))) ∧
  (∀ (p t q : Nat) (data : List Byte) (s : State) (c : Cmd) (f : EngF), s.powered = true → (s.tile p t).cmd q = some c →
    (∀ d ∈ (s.tile p t).cmds, d.seq = q → d = c) → c.st = .running → c.step = 1 → t < 32 →
    (∀ w n, (s.die p).swaps.find? (fun w => w.id == q && w.since.isSome && !w.ok) = some w → n ≠ 0 →
      ∃ u, Machine.exec (.nvmeCompletion p managerTile q n data) s = .next u ∧ (∀ x ∈ (u.die p).swaps, x.slot ≠ w.slot) ∧
        (((s.die p).slot w.slot).state ≠ 0 → ((u.die p).slot w.slot).state = 6)) ∧
    (c.i = .nvrd f → data.length = 4096 * (bits c.ve 7 0 + 1) →
      ∃ u, Machine.exec (.nvmeCompletion p t q 0 data) s = .next u ∧
        (u.tile p t).cmd q = some { c with aux := [0, 2], buf := data.map (fun b => (b, 0)), stall := .none }) ∧
    (c.i = .nvwr f → ∃ u, Machine.exec (.nvmeCompletion p t q 0 data) s = .next u ∧
      (u.tile p t).cmd q = some { c with st := .finished, stall := .none, buf := [] }) ∧
    (∀ i, (c.i = .nvrd f ∨ c.i = .nvwr f) → ((∃ n, n ≠ 0 ∧ i = .nvmeCompletion p t q n data) ∨
        (i = .nvmeCommandTimeout p t q ∧ c.arg 0 + 1000000000 ≤ s.now)) →
      ∃ u k, Machine.exec i s = .next u ∧ (u.tile p t).cmd q = some k ∧ k.err = true ∧
        (∀ x, x ∈ c.queues → (SMap.get ({} : FRec) (s.tile p t).frec x).valid = false →
          c.queues = [x] → (SMap.get ({} : FRec) (u.tile p t).frec x).cause = BitVec.ofNat 8 cNVME_STATUS)))

/-! ### Groups, the network and stubs -/

/-- `CREATE`, `MG_FREE`, `ADD_MEMBER`, `DEL`, `HANDLER` and `QUERY`, the commands of `MGCMD` (R372 to R374): once every other
station that can be reached has applied an edit, every edit of its group before it has been made and no traffic of the group
is left, it is made, and `MGRES` holds the status, the member count, the answer and the group. `MULTICAST_WRITE`,
`MULTICAST_ACK`, `REDUCTION_CONTRIBUTION` and `CONTROL` (R223, R224, R363, R372, R374 to R376): a member with a handler of the
sender's realm places the lines and answers, one whose frames are held waits; a line that fails its crc is answered with
reason 3, no handler with 1, another realm with 2, no dormant context with 5; the sender sums the answers, a contribution is
kept until the reduction takes it, whose sum does not depend on their order, and a control slot that answers a stub reaches
the command that sent it. -/
def Obligations.MulticastGroups : Prop :=
  (∀ (w : Word) (s : State), s.powered = true → bits w 63 35 = 0 →
    let n := bits w 15 4
    let turn := fun (n : Nat) => s.mgBusy n = false ∧
      ((s.edits.any (·.2 == s.editor) = false ∧ (∀ e ∈ s.edits, e.1 ≠ n) ∧
          ∀ q, q < s.peers → q = s.iss.peer ∨ s.gone s.iss.peer q = true) ∨
       ((∃ e, s.edits.find? (·.1 == n) = some e ∧ e.2 = s.editor) ∧ s.net.any s.myEdit = false))
    let q := bits w 24 16
    let op := bits w 3 0
    let id := partId s.iss.peer s.myCtx.part
    let done := fun (u : State) (status count : Nat) (member : Bool) (group : Nat) =>
      let r : Word := BitVec.ofNat 64 (status * 2 ^ 56 + count * 2 ^ 13 + (if member = true then 2 ^ 12 else 0) + group)
      ({ u with edits := u.edits.filter (·.2 != s.editor) }.setMyCtx { u.myCtx with mgres := r }).complete
    (∀ k, op = 0 → turn 4096 → k < 4096 → s.mgroups.find k = none → (∀ j, j < k → (s.mgroups.find j).isSome = true) →
      Machine.exec (.create w) s =
        .next (done { s with mgroups := s.mgroups.put k { owner := id, members := 0 } } 0 0 false k)) ∧
    (op = 0 → turn 4096 → (∀ j, j < 4096 → (s.mgroups.find j).isSome = true) → Machine.exec (.create w) s = .next (done s 1 0 false 0)) ∧
    (∀ g, s.mgroups.find n = some g →
      (op = 1 → g.owner = id → turn n →
        ∃ u, Machine.exec (.mgFree w) s = .next u ∧ u.mgroups = s.mgroups.erase n ∧ u.myCtx.mgres = 0 ∧
          ∀ p, (u.die p).mch.find n = none) ∧
      (op = 2 → g.owner = id → turn n → q < s.peers → s.cfg.dieInRealm q (s.cfg.realmOfId g.owner) = true →
        ∃ h : MGroup, h.owner = id ∧ (∀ k, k < 512 → h.members.getLsbD k = (g.members.getLsbD k || k == q)) ∧
          Machine.exec (.addMember w) s = .next (done { s with mgroups := s.mgroups.put n h } 0 h.count false 0)) ∧
      (op = 3 → g.owner = id → turn n → s.peers ≤ q →
        Machine.exec (.del w) s = .next (done s 3 g.count false 0)) ∧
      (op = 3 → g.owner = id → turn n → q < s.peers →
        ∃ h : MGroup, h.owner = id ∧ (∀ k, k < 512 → h.members.getLsbD k = (g.members.getLsbD k && k != q)) ∧
          Machine.exec (.del w) s = .next (done { s with mgroups := s.mgroups.put n h } 0 h.count false 0)) ∧
      (let a := s.myCtx.mgarg
       let v := bits w 34 30
       op = 4 → bits a 63 57 = 0 → bit a 0 = false → s.cfg.realmOfId g.owner = s.cfg.realmOf s.iss.peer s.myCtx.part → v < 24 →
        s.cfg.partOf s.iss.peer v = s.myCtx.part →
        Machine.exec (.handler w) s = .next (done (s.setMyDie { s.myDie with
          mch := if a = 0 then s.myDie.mch.erase n else s.myDie.mch.put n (bits w 29 25, v, a.toNat) }) 0 g.count false 0)) ∧
      (op = 5 → s.cfg.realmOfId g.owner = s.cfg.realmOf s.iss.peer s.myCtx.part → q < s.peers →
        s.cfg.dieInRealm q (s.cfg.realmOfId g.owner) = true →
        Machine.exec (.query w) s = .next (done s 0 g.count (g.members.getLsbD q) 0))) ∧
    (∀ i, (i = .mgFree w ∧ op = 1) ∨ (i = .addMember w ∧ op = 2) ∨ (i = .del w ∧ op = 3) ∨ (i = .query w ∧ op = 5) →
      s.mgroups.find n = none → Machine.exec i s = .next (done s 2 0 false 0))) ∧
  (∀ (p : Nat) (s : State) (k : Packet), s.powered = true →
    let answer := fun (u : State) (r : Nat) =>
      (u.consume k).send { kind := 0x09, src := p, dst := k.src, tile := k.srcTile, tag := k.tag, part := k.part, reason := r }
    let lines := k.bytes.length / 128
    (s.taken p 0x08 (fun _ => true) = some k →
      (k.poison ≠ 0 → Machine.exec (.multicastWrite p) s = .next (answer s 3)) ∧
      (k.poison = 0 → (s.die p).mch.find (k.arg 0) = none → Machine.exec (.multicastWrite p) s = .next (answer s 1)) ∧
      (∀ t vf entry, k.poison = 0 → (s.die p).mch.find (k.arg 0) = some (t, vf, entry) →
        let places := mcstLocs s p t vf k.src (k.arg 1) (128 * lines) (3 * lines)
        (s.cfg.realmOf p (s.cfg.partOf p vf) ≠ s.cfg.realmOfId k.part → Machine.exec (.multicastWrite p) s = .next (answer s 2)) ∧
        (s.cfg.realmOf p (s.cfg.partOf p vf) = s.cfg.realmOfId k.part →
          (∀ e, places = .error e → Machine.exec (.multicastWrite p) s = .next (answer s e)) ∧
          (∀ ls u, places = .ok (ls, u) → (∃ l ∈ ls, u.heldLoc l.1 = true) → Machine.exec (.multicastWrite p) s = .next s) ∧
          (∀ ls u, places = .ok (ls, u) → (∀ l ∈ ls, u.heldLoc l.1 = false) →
            let v := u.writePieces p ls k.bytes
            (k.arg 2 = 0 → Machine.exec (.multicastWrite p) s = .next (answer v 0)) ∧
            (k.arg 2 ≠ 0 → (v.tile p t).dormant (some (v.cfg.partOf p vf)) = none →
              Machine.exec (.multicastWrite p) s = .next (answer v 5)) ∧
            (∀ c, k.arg 2 ≠ 0 → (v.tile p t).dormant (some (v.cfg.partOf p vf)) = some c →
              Machine.exec (.multicastWrite p) s = .next (answer (v.startTiller p t c
                { entry := BitVec.ofNat 57 entry, x1 := BitVec.ofNat 64 (k.arg 1), x2 := BitVec.ofNat 64 (128 * lines),
                  x3 := BitVec.ofNat 64 k.src }) 0)))))) ∧
    (∀ r c, s.taken p 0x09 (fun _ => true) = some k → (s.die p).reqs.find? (·.tag == k.tag) = some r →
      (s.tile p r.tile).cmd r.seq = some c → (∀ d ∈ (s.tile p r.tile).cmds, d.seq = r.seq → d = c) → c.step = 1 → k.src < 512 →
      ∃ u v, Machine.exec (.multicastAck p) s = .next u ∧ u.net = s.net.erase k ∧ (u.tile p r.tile).cmd r.seq = some v ∧
        (u.die p).reqs = (s.die p).reqs.filter (·.tag != r.tag) ∧
        v.arg 0 = c.arg 0 + (if k.reason = 0 then 1 else 0) ∧ v.arg 1 = c.arg 1 + (if k.reason = 0 then 0 else 1) ∧
        v.arg 2 = (if k.reason = 0 then c.arg 2 else min (c.arg 2) k.src) ∧
        v.step = (if v.arg 0 + v.arg 1 = c.arg 4 then 2 else 1)) ∧
    (s.taken p 0x0A (fun _ => true) = some k →
      Machine.exec (.reductionContribution p) s = .next ((s.consume k).modDie p fun d => { d with
        freds := d.freds ++ [⟨k.arg 0, k.arg 1, k.src, k.arg 2, k.arg 3, k.bytes, k.poison != 0⟩] })) ∧
    (∀ xs ys, List.Perm xs ys → fredElem 0 xs = fredElem 0 ys) ∧
    (s.taken p 0x12 (fun k => [some ctlAccept, some ctlRefuse, some ctlEdit].contains k.args.head?) = some k →
      (k.arg 0 = ctlEdit → Machine.exec (.control p) s = .next (s.consume k)) ∧
      (∀ r c, k.arg 0 = ctlAccept ∨ k.arg 0 = ctlRefuse → (s.die p).reqs.find? (·.tag == k.arg 1) = some r →
        (s.tile p r.tile).cmd r.seq = some c → (∀ d ∈ (s.tile p r.tile).cmds, d.seq = r.seq → d = c) → c.step = 1 →
        ∃ u, Machine.exec (.control p) s = .next u ∧ u.net = s.net.erase k ∧ (u.tile p r.tile).cmd r.seq =
          some { c with aux := c.aux.set 1 (if k.arg 0 = ctlAccept then 2 else 3), stall := .none })))

/-- `NET_PACKET_RECEIVE`, `NET_ACKNOWLEDGEMENT`, `NET_RETRANSMIT_TIMEOUT`, `NET_SPACE_TIMEOUT`, `NET_REQUEST_COMPLETE`,
`NET_RECORD_COMPLETE` and `NRXHEAD_WRITE` (R378, R380 to R382): a packet of another job is dropped, counted and answered so; a
piece of a send or a write is placed once at its offset and acknowledged, a request that has been delivered is acknowledged
again, one without a record is refused or not ready; a read is answered with its bytes; each packet is sent again at most 8
times; a request retires when all its bytes are acknowledged or placed; a complete record's thread is claimed, behind the
record of its queue that it must follow; the head moves only up to the tail. -/
def Obligations.NetworkEvents : Prop :=
  ∀ (p q t n : Nat) (s : State), s.powered = true →
    let d := s.die p
    let z : State := { s with netOut := none }
    (∀ k, (d.epJob q k.ep ≠ k.job ∨ 1024 ≤ k.ep) → ∃ u, Machine.exec (.netPacketReceive p q k) s = .next u ∧
      (u.die p).chfd = bump d.chfd ∧ (u.die p).dram = d.dram ∧ (u.die p).rx = d.rx ∧ u.netOut = some .wrongJob) ∧
    (∀ k vf data, k.ep < 1024 → d.epJob q k.ep = k.job →
      ((k.op = 0 ∧ vf = bits (d.nrxBase q) 7 0 ∧ data = 0) ∨ (k.op = 1 ∧ ∃ base len, d.region q k.rkey = some (base, len, vf, true) ∧
        vf < 24 ∧ s.cfg.partOf p vf = q ∧ k.raddr + k.off + k.data.length ≤ len ∧ data = base + k.raddr)) →
      let known := d.rxDone.contains (q, k.ep, k.req, packetKind k)
      (known = true → Machine.exec (.netPacketReceive p q k) s = .next (s.reply .ack)) ∧
      (known = false →
        (z.reserve p q k data = .refused → Machine.exec (.netPacketReceive p q k) s = .next (s.reply .refused)) ∧
        (z.reserve p q k data = .notReady → Machine.exec (.netPacketReceive p q k) s = .next (s.reply .notReady)) ∧
        (∀ r u, z.reserve p q k data = .ok r u → k.off + k.data.length ≤ r.len →
          (k.off + k.data.length ≤ coveredTo r.got r.got.length k.off → Machine.exec (.netPacketReceive p q k) s = .next (s.reply .ack)) ∧
          (∀ v, coveredTo r.got r.got.length k.off < k.off + k.data.length → u.place p vf (r.data + k.off) k.data = .ok v →
            Machine.exec (.netPacketReceive p q k) s =
              .next ((v.modDie p fun d => d.gotPiece r k.off k.data.length).reply .ack))))) ∧
    (∀ k base len vf w bs u, k.op = 3 → k.ep < 1024 → d.epJob q k.ep = k.job → d.region q k.rkey = some (base, len, vf, w) → vf < 24 →
      s.cfg.partOf p vf = q →
      let m := min 4096 (k.len - k.off)
      k.raddr + k.off + m ≤ len → z.readOut p vf (base + k.raddr + k.off) m (m / 128 + 2) = (some bs, u) → bs.length = m →
      Machine.exec (.netPacketReceive p q k) s = .next (u.reply (.data bs))) ∧
    (∀ c f, (s.tile p t).cmd n = some c → c.i = .netq f → c.st = .running → c.step ≠ 0 →
      (∀ d ∈ (s.tile p t).cmds, d.seq = n → d = c) →
      let fails := s.modTile p t (fun y => y.fault c cNET_ERROR (workReq (c.arg 0)).loc)
      (∀ first count, ∃ u v, Machine.exec (.netAcknowledgement p t n first count true) s = .next u ∧ (u.tile p t).cmd n = some v ∧
        v.tags = c.tags ++ [first, count] ∧ v.arg 3 = 0 ∧ v.arg 0 = c.arg 0 ∧ v.st = .running) ∧
      (∀ first count, count ≠ 0 → c.arg 3 = 0 → 6 ≤ c.aux.length →
        ∃ u v, Machine.exec (.netAcknowledgement p t n first count false) s = .next u ∧
          (u.tile p t).cmd n = some v ∧ v.tags = c.tags ∧ v.arg 3 = s.now + 1) ∧
      (∀ first, Machine.exec (.netAcknowledgement p t n first 0 false) s = .next fails) ∧
      (∀ k, k < 2 ^ 20 → c.packetOut k = true → c.arg 3 = 0 →
        (c.arg (4 + k) < 8 → ∃ u v, Machine.exec (.netRetransmitTimeout p t (n * 2 ^ 20 + k)) s = .next u ∧ (u.tile p t).cmd n = some v ∧
          v.st = .running ∧ ∀ j, v.arg j = c.arg j + (if j = 4 + k then 1 else 0)) ∧
        (8 ≤ c.arg (4 + k) → Machine.exec (.netRetransmitTimeout p t (n * 2 ^ 20 + k)) s = .next fails)) ∧
      (c.arg 3 ≠ 0 → c.arg 3 + 1000000000 ≤ s.now + 1 → Machine.exec (.netSpaceTimeout p t n) s = .next fails) ∧
      (c.step = 2 → covered c.ranges (workReq (c.arg 0)).len = true →
        ∃ u, Machine.exec (.netRequestComplete p t n) s = .next u ∧ (u.tile p t).cmd n = some { c with st := .finished, stall := .none })) ∧
    (∀ r, d.nextRecord q = some r →
      let h := d.nrxHdl q
      let k : Claim := {
        entry := BitVec.ofNat 57 (bits h 56 1 * 2), x1 := BitVec.ofNat 64 r.data, x2 := BitVec.ofNat 64 r.len,
        x3 := BitVec.ofNat 64 (512 + r.ep), x4 := BitVec.ofNat 64 (bits (d.nrxBase q) 56 12 * 4096 + r.at_), part := some q }
      r.part = q ∧ covered r.got r.len = true ∧ (∀ x, r.after = some x → d.rxDone.contains (q, r.ep, x, 0) = true) ∧
      ((s.tile p (bits h 61 57)).handlers.length < 16 →
        Machine.exec (.netRecordComplete p q) s =
          .next ((s.setDie p { d with rx := d.rx.erase r, rxDone := d.rxDone ++ [r.key] }).modTile p (bits h 61 57) fun y =>
            { y with handlers := y.handlers ++ [k] }))) ∧
    (∀ a : BitVec 8, let v := bits (s.reg a) 39 0
      let size := s.myDie.nrxSize s.myCtx.part
      let x := s.myDie.part s.myCtx.part
      v % 128 = 0 → (v < size ∨ v = x.nrxHead) → (v + size - x.nrxHead) % size ≤ (x.nrxTail + size - x.nrxHead) % size →
      Machine.exec (.nrxheadWrite a) s =
        .next (s.setMyDie (s.myDie.setPart s.myCtx.part { x with nrxHead := v })).complete)

/-- `STUB`, `STUB_TOUCH`, `PULL_REQUEST`, `PULL_RESPONSE` and `PULL_ACK` (R384 to R388, R392): a stub that checks and may land
is accepted with a record of its leaves, any other refused; a touch asks the owner for its tile; the owner answers with the
frame's data, or with a nack for a tile that it no longer holds; a landed tile's frame holds the data and its leaf becomes an
ordinary one, and where software has changed the leaf nothing is written; the owner lets an acknowledged tile go. The lifetime
link of a stub (R221, R222, R390 to R393) and writes that meet a hold (R389): `REPOINT_SLOT`, `STUB_RELEASE_SLOT`,
`RELEASE_ACKNOWLEDGEMENT`, `RELEASE_RESEND`, `STUB_RENEWAL`, `RENEWAL_RECEIVE`, `RENEWAL_ACKNOWLEDGEMENT`,
`HOLDER_LEASE_EXPIRY`, `OWNER_LEASE_EXPIRY`, `HOLD_STALL`, `HOLD_KEEPALIVE`, `HOLD_KEEPALIVE_ARRIVAL`, `STUB_BIND`,
`STUB_UNBIND`. -/
def Obligations.DeferredTensors : Prop :=
  (∀ (p n : Nat) (s : State) (k : Packet), s.powered = true →
    (s.taken p 0x0C (fun _ => true) = some k →
      let u := s.consume k
      let hva := k.stubField 31 24 / 4096 % 2 ^ 45
      let tiles := k.stubField 19 16
      (∀ vf ls, k.stubOk = true → k.stubField 3 2 ≠ p →
        (List.range 24).find? (fun v => u.cfg.tenantOf p v == k.stubField 20 20 && (landing u p v hva tiles).isSome) = some vf →
        landing u p vf hva tiles = some ls → n < 1024 → ((u.die p).stub n).valid = false →
        (∀ m, m < n → ((u.die p).stub m).valid = true) →
        ∃ v b, Machine.exec (.stub p) s = .next (v.sendCtl p k.src k.part [ctlAccept, k.tag]) ∧
          v = u.modDie p (fun d => d.setStub n b) ∧ b.valid = true ∧ b.broken = false ∧ b.hold = k.stubField 1 0 ∧
          b.owner = k.stubField 3 2 ∧ b.gen = BitVec.ofNat 32 (k.stubField 7 4) ∧ b.tiles = tiles ∧ b.vf = vf ∧ b.hva = hva ∧
          b.ova = k.stubField 15 8 ∧ b.hp = k.stubField 39 32 ∧ b.ack = s.now ∧
          (∀ i, SMap.get 0 b.leaves i = ls.getD i 0) ∧ (∀ i, b.tile i = .unpulled)) ∧
      (u.acceptStub p k = none → Machine.exec (.stub p) s = .next (u.sendCtl p k.src k.part [ctlRefuse, k.tag])) ∧
      (k.stubOk = false ∨ k.stubField 3 2 = p → u.acceptStub p k = none)) ∧
    (∀ v va i u, translate s p 0 (s.cfg.partOf p v) v va.toNat .load = (.touch n i, u) → (u.die p).tileLost n i = false →
      ((u.die p).stub n).tile i = .unpulled → ((u.die p).stub n).moving = false → (u.die p).forwarding n = false →
      (u.die p).pulls < 64 →
      ∃ w, Machine.exec (.stubTouch p v va) s = .next w ∧ ((w.die p).stub n).tile i = .asked ∧
        ∃ r ∈ (w.die p).reqs, r.kind = 0x0D ∧ r.dst = ((u.die p).stub n).owner ∧ r.since = u.now) ∧
    (s.taken p 0x0D (fun _ => true) = some k →
      let h := (s.die p).hold (k.arg 0)
      (∀ f, SMap.get none h.held (k.arg 2) = some f → h.valid = true → h.gen.toNat = k.arg 1 →
        ∃ bs, Machine.exec (.pullRequest p) s = .next ((s.consume k).send
            { kind := 0x0E, src := p, dst := k.src, tier := k.tier, tag := k.tag, part := k.part,
              args := [k.arg 3, k.arg 2, k.arg 1], bytes := bs, poison := ((s.die p).frameData f).2 }) ∧ bs.length = 4096 ∧
          (∀ i, i < 4096 → bs.getD i 0 = s.byteOf p (if f < 2 ^ 29 then 1 else 0) (f % 2 ^ 29 * 4096 + i))) ∧
      (SMap.get none h.held (k.arg 2) = none ∨ h.valid = false ∨ h.gen.toNat ≠ k.arg 1 →
        Machine.exec (.pullRequest p) s = .next ((s.consume k).send
          { kind := 0x07, src := p, dst := k.src, tier := 0, tag := k.tag, part := k.part,
            reason := if h.torn = true ∧ h.gen.toNat = k.arg 1 then 2 else 1, args := [0x0D, k.arg 3, k.arg 2] }))) ∧
    (∀ l, s.taken p 0x0E (fun _ => true) = some k → k.arg 0 = n →
      let i := k.arg 1
      let u := (s.consume k).dropReq p k.tag
      let b := (u.die p).stub n
      b.valid = true → b.gen.toNat = k.arg 2 → b.tile i = .asked → walk u p b.vf ((b.hva + i) * 4096) = some l →
      ∃ v, Machine.exec (.pullResponse p) s = .next v ∧ (((v.die p).stub n).tile i = .pulled ∨ (v.die p).stub n = {}) ∧
        (l.leaf ≠ SMap.get 0 b.leaves i → (v.die p).dram = (s.die p).dram) ∧
        (l.leaf = SMap.get 0 b.leaves i → k.bytes.length = 4096 →
          let a := leafFrame l.leaf * 4096
          Memory.read (v.die p).dram l.addr 8 = l.leaf.toNat % 2 ^ 63 ∧
          (∀ x, x < 4096 → a + x < l.addr ∨ l.addr + 8 ≤ a + x → v.byteOf p 1 (a + x) = k.bytes.getD x 0))) ∧
    (s.control p ctlPullAck = some k → ((s.die p).hold (k.arg 1)).gen.toNat = k.arg 2 →
      ∃ u, Machine.exec (.pullAck p) s = .next u ∧ u.net = s.net.erase k ∧
        ∀ f, SMap.get none ((s.die p).hold (k.arg 1)).held (k.arg 3) = some f →
          SMap.get none ((u.die p).hold (k.arg 1)).held (k.arg 3) = none ∧
          SMap.get 0 (u.die p).holdCnt f = SMap.get 0 (s.die p).holdCnt f - 1)) ∧
  (∀ (p n : Nat) (s : State) (k : Packet), s.powered = true →
    let d := s.die p
    let u := s.consume k
    let h := d.hold (k.arg 1)
    let b := d.stub n
    (s.control p ctlRepoint = some k → h.valid = true → h.gen.toNat = k.arg 2 → Machine.exec (.repointSlot p) s =
      .next ((u.modDie p fun d => d.setHold (k.arg 1) { h with holder := k.arg 3, hva := k.arg 4 }).sendCtl p k.src k.part
        [ctlReleaseAck, k.arg 5])) ∧
    (s.control p ctlRelease = some k → h.gen.toNat = k.arg 2 → Machine.exec (.stubReleaseSlot p) s =
      .next ((u.modDie p fun d => (k.args.drop 4).foldl (fun d t => d.releaseTile (k.arg 1) t) d).sendCtl p k.src k.part
        [ctlReleaseAck, k.arg 3])) ∧
    (s.control p ctlReleaseAck = some k → Machine.exec (.releaseAcknowledgement p) s =
      .next (u.modDie p fun d => { d with resends := d.resends.filter (fun r => r.key != k.arg 1) })) ∧
    (∀ r, d.resends[n]? = some r → r.last + 100000000 ≤ s.now →
      (s.now ≤ r.since + 1000000000 → Machine.exec (.releaseResend p n) s =
        .next ((s.modDie p fun d => { d with resends := d.resends.set n { r with last := s.now } }).resend p r)) ∧
      (r.since + 1000000000 < s.now → Machine.exec (.releaseResend p n) s =
        .next (s.modDie p fun d => { d with resends := d.resends.eraseIdx n }))) ∧
    (b.valid = true → b.broken = false → b.sent + 100000000 ≤ s.now → Machine.exec (.stubRenewal p n) s =
      .next ((s.modDie p fun d => d.setStub n { b with sent := b.sent + 100000000 }).sendCtl p b.owner (s.idOf p b.vf)
        [ctlRenew, b.hold, b.gen.toNat, n])) ∧
    (s.control p ctlRenew = some k →
      (h.valid = true → h.gen.toNat = k.arg 2 → h.torn = false → Machine.exec (.renewalReceive p) s =
        .next ((u.modDie p fun d => d.setHold (k.arg 1) { h with renew := s.now }).sendCtl p k.src k.part
          [ctlRenewAck, k.arg 3, k.arg 2])) ∧
      (h.gen.toNat ≠ k.arg 2 ∨ (h.valid = false ∧ h.torn = false) → Machine.exec (.renewalReceive p) s =
        .next (u.sendCtl p k.src k.part [ctlRenewAck, k.arg 3, k.arg 2])) ∧
      (h.gen.toNat = k.arg 2 → h.valid = false → h.torn = true → Machine.exec (.renewalReceive p) s = .next u)) ∧
    (s.control p ctlRenewAck = some k → (d.stub (k.arg 1)).valid = true → (d.stub (k.arg 1)).gen.toNat = k.arg 2 →
      Machine.exec (.renewalAcknowledgement p) s =
        .next (u.modDie p fun x => x.setStub (k.arg 1) { d.stub (k.arg 1) with ack := s.now })) ∧
    (b.valid = true → b.broken = false → b.ack + 500000000 ≤ s.now →
      ∃ v, Machine.exec (.holderLeaseExpiry p n) s = .next v ∧ ((v.die p).stub n).broken = true ∧ (v.die p).chst = bump d.chst ∧
        ∀ i, i < b.tiles → b.tile i = .unpulled ∨ b.tile i = .asked → ((v.die p).stub n).tile i = .lost) ∧
    (∀ t f, (d.hold n).valid = true → (d.hold n).renew + 1000000000 ≤ s.now → (d.hold n).held = [(t, some f)] →
      ∃ v, Machine.exec (.ownerLeaseExpiry p n) s = .next v ∧ ((v.die p).hold n).valid = false ∧ ((v.die p).hold n).held = [] ∧
        SMap.get 0 (v.die p).holdCnt f = SMap.get 0 d.holdCnt f - 1) ∧
    (∀ t c x w ea, (s.stream p t c x).wait = some w → w.kind = .hold ea → (s.ctx p t c).waitto ≠ 0 →
      w.since + (s.ctx p t c).waitto.toNat ≤ s.now → Machine.exec (.holdStall p t c x) s =
        .next (s.takeTrap p t c x cHOLD_STALL ea 0 false false (s.stream p t c x).pc)) ∧
    (s.heldReqs p ≠ [] → d.keepAt + 50000 ≤ s.now → Machine.exec (.holdKeepalive p) s =
      .next ((s.heldReqs p).foldl (fun s k => s.sendCtl p k.src k.part [ctlKeep, k.tag]) (s.modDie p fun d => { d with keepAt := s.now }))) ∧
    (s.control p ctlKeep = some k → ∃ v, Machine.exec (.holdKeepaliveArrival p) s = .next v ∧ v.net = s.net.erase k ∧
      (v.die p).reqs = d.reqs.map (fun r => if r.tag = k.arg 1 then { r with since := s.now } else r)) ∧
    (∀ (w : Word) m x, bits w 62 57 = 0 →
      s.myDie.stubs.find? (fun e => e.2.valid && e.2.vf == s.myCtx.vf && e.2.hva <= bits w 56 12 &&
        bits w 56 12 < e.2.hva + e.2.tiles) = some (m, x) →
      (bit w 63 = true → (s.myDie.slot (bits w 11 0)).state ≠ 0 →
        s.cfg.partOf s.iss.peer (s.myDie.slot (bits w 11 0)).vf = s.myCtx.part →
        Machine.exec (.stubBind w) s = .next (s.setMyDie (s.myDie.setStub m { x with req := some (bits w 11 0) })).complete) ∧
      (bit w 63 = false →
        Machine.exec (.stubUnbind w) s = .next (s.setMyDie (s.myDie.setStub m { x with req := none })).complete)))

/-! ### Failures, power, boot and the host -/

/-- `FREC_CLEAR`, `HEARTBEAT`, `HEARTBEAT_ARRIVAL`, `DIE_FAILURE`, `TILE_FAILURE` and `SLAB_MOVE_PIECE` (R219, R271, R338,
R370, R421, R422). A failed die is fenced: what was on its way to it is answered with a nack, what engines await from it is
lost, its stubs break, the standbys take over, and the requests that none restores are aborted (R412, R423); a failed tile
fails the operator bound to it, with a free cause (log 5); a move waits while a frame of its runs is held, and one whose pair
is gone ends (log 108). -/
def Obligations.FailuresAndMoves : Prop :=
  ∀ (p t n : Nat) (s : State), s.powered = true →
    (n < 5 → s.cfg.engineOwner s.iss.peer s.iss.tile n = s.myCtx.part →
      Machine.exec (.frecClear n) s =
        .next (s.setMyTile { s.myTile with frec := SMap.set {} s.myTile.frec n {} }).complete) ∧
    (p ∉ s.fenced → (s.die p).beatAt + 1000000 ≤ s.now → Machine.exec (.heartbeat p) s =
      .next (((s.modDie p fun d => { d with beatAt := s.now }).sendCtl p (p / 8 * 8 + (p + 1) % 8) (partId p 0) [ctlBeat]).sendCtl p
        (p / 8 * 8 + (p + 7) % 8) (partId p 0) [ctlBeat])) ∧
    (∀ k, s.control p ctlBeat = some k → ∃ u, Machine.exec (.heartbeatArrival p) s = .next u ∧ u.net = s.net.erase k ∧
      SMap.get 0 (u.die p).beats k.src = s.now) ∧
    (let u := ({ s with fenced := s.fenced ++ [p] } : State).fenceNet p
     p ∉ s.fenced → p < s.peers →
      Machine.exec (.dieFailure p) s =
          .next (((List.range 4).foldl (fun v q => v.standBy p q) ((u.fenceEngines p).fenceStubs p)).abortLost p) ∧
        u.fenced = s.fenced ++ [p] ∧ ∀ k ∈ u.net, k.src = p → k.kind = 0x07) ∧
    (let u := s.modTile p t fun x => { x with failed := true }
     (s.tile p t).failed = false →
      Machine.exec (.tileFailure p t) s = .next (match (s.tile p t).bound with
        | none => u
        | some o => ({ u with free := s.free + 1 } : State).failOp p o (Config.freeByte s.free).toNat)) ∧
    (∀ c f w x b, (s.tile p t).cmd n = some c → c.i = .slabmv f → c.st = .running → c.step ≠ 0 →
      SMap.get ({} : Fwd) (s.die p).fwd (c.arg 0) = w → w.busy = true → w.slot = bits c.va 11 0 → w.slab = bits c.va 23 16 →
      (s.die p).slot w.slot = x → x.slabs.find w.slab = some b →
      let m := min (max 1 (4096 / b.stride)) (2 ^ b.lsize - w.boundary)
      let busy := (s.die p).slabBusy w.slot w.slab b
      ∃ u, Machine.exec (.slabMovePiece p t n) s = .next u ∧
        (busy = true → (u.die p).fwd = (s.die p).fwd ∧ (u.die p).slots = (s.die p).slots) ∧
        (busy = false → w.boundary + m < 2 ^ b.lsize → SMap.get ({} : Fwd) (u.die p).fwd (c.arg 0) = { w with boundary := w.boundary + m } ∧
          (u.die p).slot w.slot = x) ∧
        (busy = false → 2 ^ b.lsize ≤ w.boundary + m → SMap.get ({} : Fwd) (u.die p).fwd (c.arg 0) = {} ∧
          ((u.die p).slot w.slot).slabs.find w.slab = some { b with base := w.new, lsize := b.lsize + 1 })) ∧
    (∀ c f, (s.tile p t).cmd n = some c → c.i = .slabmv f → c.st = .running → c.step ≠ 0 →
      (SMap.get ({} : Fwd) (s.die p).fwd (c.arg 0)).busy = false → (∀ d ∈ (s.tile p t).cmds, d.seq = n → d = c) →
      ∃ u, Machine.exec (.slabMovePiece p t n) s = .next u ∧
        (u.tile p t).cmd n = some { c with st := .finished, stall := .none, buf := [] })

/-- `RAILSET_WRITE`, `OPERATING_POINT_CHANGE`, `MEMORY_ECC_ERROR`, `MARGIN_EVENT`, `MARGIN_STEP` and `MARGIN_BACKOFF_EXPIRY`
(R410, R411, R425, R433, R434, R440): an uncorrectable error poisons its line, a copy of a remote line among them (log 50),
and is counted; under undervolting it is a margin event; each 10 s the drop moves by one step at most. `CURRENT_GRANT`,
`BOOST_GRANT`, `BOOST_EXPIRY` and `COOLMODE_WRITE` (R428, R430, R431, R436): a granted request is in force within its
cluster's limit, a granted boost keeps the sum of targets within 60, and a mode is in force once written, the last readings
held against its shares. -/
def Obligations.RailsAndGrants : Prop :=
  (∀ (p addr : Nat) (s : State), s.powered = true →
    let d := s.die p
    let w := d.power
    (∀ v : Word, ∃ u, Machine.exec (.railsetWrite p v) s = .next u ∧
      (∀ r, r < 4 → SMap.get 12 (u.die p).power.want r = bits v (4 * r + 3) (4 * r)) ∧ (u.die p).power.uvon = bit v 16 ∧
      (u.die p).power.drop = 0 ∧ (u.die p).power.points = w.points) ∧
    (∀ r, r ∈ w.due → ∃ u, Machine.exec (.operatingPointChange p r) s = .next u ∧ (u.die p).power.point r = SMap.get 12 w.want r ∧
      r ∉ (u.die p).power.due ∧ ∀ k, k ≠ r → (u.die p).power.point k = w.point k) ∧
    (∃ u, Machine.exec (.memoryEccError p false true addr) s = .next u ∧ (u.die p).chdc = bump d.chdc ∧ (u.die p).dmeta = d.dmeta) ∧
    (∃ u, Machine.exec (.memoryEccError p true true addr) s = .next u ∧ (u.die p).chsc = bump d.chsc ∧ (u.die p).smeta = d.smeta ∧
      (u.die p).power.corr = w.corr + 1) ∧
    (∃ u, Machine.exec (.memoryEccError p false false addr) s = .next u ∧ (u.die p).chdu = bump d.chdu ∧
      ((u.die p).metaOf 1 (addr / 128)).poison = true) ∧
    (∀ i, i = .marginEvent p addr ∨ i = .memoryEccError p true false addr →
      ∃ u, Machine.exec i s = .next u ∧ (u.die p).chsu = bump d.chsu ∧
        (addr < copyArea → ((u.die p).metaOf 0 (addr / 128)).poison = true) ∧
        (∀ c, copyArea ≤ addr → d.copies.find ((addr - copyArea) / 128) = some c →
          (u.die p).copies.find ((addr - copyArea) / 128) = some { c with poison := true, margin := c.margin || w.drop != 0 }) ∧
        (w.drop = 0 → (u.die p).power = w) ∧
        (w.drop ≠ 0 → (u.die p).power.drop = w.drop - 10 ∧ (u.die p).power.backoff = some (s.now + 3600000000000) ∧
          (u.die p).power.margn = w.margn + 1 ∧ (addr < copyArea → ((u.die p).metaOf 0 (addr / 128)).bad = cMARGIN))) ∧
    (w.marginAt < s.now / 10 ^ 10 → ∃ u, Machine.exec (.marginStep p) s = .next u ∧ (u.die p).power.corr = 0 ∧
      (u.die p).power.drop = if w.uvon = false ∨ w.marginIn = true then w.drop
        else if w.corr ≤ 2 ∧ w.backoff = none then min 20 (w.drop + 1) else if 16 < w.corr then w.drop - 1 else w.drop) ∧
    (∀ t, w.backoff = some t → t ≤ s.now → ∃ u, Machine.exec (.marginBackoffExpiry p) s = .next u ∧
      (u.die p).power = { w with backoff := none })) ∧
  (∀ (p cl rail : Nat) (s : State), s.powered = true →
    let d := s.die p
    let w := d.power
    (∀ r, s.nextGrant p cl rail = some r → ∃ u, Machine.exec (.currentGrant p cl rail) s = .next u ∧ r ∈ d.askCur ∧
      (u.die p).inForce = d.besides r ++ [r] ∧ (u.die p).askCur = d.askCur.filter (· != r) ∧
      unitsIn (u.die p).inForce cl rail ≤ (u.die p).power.limit cl rail) ∧
    (w.pressed = true → w.primeWaits = false → (∃ b ∈ w.boosts, b.granted = false ∧ b.units ≤ w.share b.zone) → w.targets ≤ 60 →
      ∃ u l b r, Machine.exec (.boostGrant p) s = .next u ∧ w.boosts = l ++ b :: r ∧ b.granted = false ∧
        (u.die p).power = { w with boosts := l ++ { b with granted := true } :: r } ∧ (u.die p).power.targets ≤ 60) ∧
    (∃ u, Machine.exec (.boostExpiry p) s = .next u ∧ (u.die p).power = { w with boosts := w.boosts.filter (fun b => s.now < b.ends) }) ∧
    (∀ v : Word, ∃ u, Machine.exec (.coolmodeWrite p v) s = .next u ∧
      u = (s.modPower p fun x => { x with mode := bits v 2 0 }).review p ∧ (u.die p).power.mode = bits v 2 0 ∧
      ∀ z, z < 16 → ((u.die p).power.zone z).flow = (w.zone z).flow ∧ ((u.die p).power.zone z).temp = (w.zone z).temp))

/-- The sensors and the evacuation of a zone (R437, R438, R440): `COOL_FLOW`, `COOL_TEMP`, `COOL_PRESS`, `COOL_VOID`,
`FLOW_EVAC_TIMEOUT`, `ZVALVE_EVAC_WRITE`, `ZONE_EVAC`, `PARK_TIMEOUT`, `PRIME_TIMEOUT` and `CONDITION_CLEARED`. A trigger
moves a zone in the normal state to evac and no other; evac parks it, park primes it, whose wait begins once the manifold has
room, and prime ends as its readings of the last 100 ms say. -/
def Obligations.ZonesEvacuate : Prop :=
  ∀ (p z n temp : Nat) (s : State), s.powered = true →
    let w := (s.die p).power
    let x := w.zone z
    let after := fun (u : State) => (u.die p).power.zone z
    let evac := if x.state = 0 then 1 else x.state
    (∃ u, Machine.exec (.coolFlow p z n) s = .next u ∧ (after u).flow = n ∧ (after u).state = x.state ∧
      (w.share z ≤ n → (after u).lowSince = none ∧ (after u).raised = x.raised) ∧
      (∀ t, n < w.share z → x.lowSince = some t → t + 100000 ≤ s.now → cCOOL_FLOW ∈ (after u).raised)) ∧
    (∃ u, Machine.exec (.coolTemp p z temp) s = .next u ∧ (after u).temp = temp ∧
      ((after u).hot = true ↔ w.warn ≤ temp ∨ (x.hot = true ∧ w.warn < temp + 5)) ∧
      (w.warn ≤ temp → cCOOL_TEMP ∈ (after u).raised) ∧ (after u).state = if w.hard ≤ temp then evac else x.state) ∧
    (∃ u, Machine.exec (.coolPress p n) s = .next u ∧ (u.die p).power.kpa = some n ∧
      (¬ (w.lo ≤ n ∧ n ≤ w.hi) → (u.die p).power.pressOut = true)) ∧
    (∃ u, Machine.exec (.coolVoid p z) s = .next u ∧ (after u).void = true ∧ cCOOL_VOID ∈ (after u).raised ∧
      (after u).state = evac) ∧
    (∀ t, x.lowSince = some t → t + 2100000 ≤ s.now → cCOOL_FLOW ∈ x.raised →
      ∃ u, Machine.exec (.flowEvacTimeout p z) s = .next u ∧ (after u).state = evac) ∧
    (∀ v : Word, ∃ u, Machine.exec (.zvalveEvacWrite p z v) s = .next u ∧
      (after u).ctl = (if bits v 1 0 ≤ 1 then bits v 1 0 else x.ctl) ∧ (after u).state = if bit v 63 then evac else x.state) ∧
    (x.state = 1 → ∃ u, Machine.exec (.zoneEvac p z) s = .next u ∧ (after u).state = 2 ∧ (after u).since = s.now ∧
      ∀ t, t < 32 → (s.die p).zoneOf t = z → (u.tile p t).evac = true) ∧
    ((x.state = 2 ∧ x.since + 50000000 ≤ s.now ∧ x.ctl ≠ 1) ∨ (x.state = 3 ∧ x.primed = false ∧ w.targets + 8 ≤ 60) →
      ∃ u, Machine.exec (.parkTimeout p z) s = .next u ∧ after u = { x with
        state := 3, since := s.now, primed := decide (w.targets + 8 ≤ 60), fit := if w.good z = true then some s.now else none }) ∧
    (∀ void : Bool, x.state = 3 → x.primed = true → x.since + 200000000 ≤ s.now →
      ∃ u, Machine.exec (.primeTimeout p z n temp void) s = .next u ∧
        if w.share z ≤ n ∧ void = false ∧ temp + 10 ≤ w.warn ∧ x.fit.any (fun t => t + 100000000 ≤ s.now) = true then
          (after u).state = 0 ∧ (after u).fails = 0 ∧ ∀ t, t < 32 → (s.die p).zoneOf t = z → (u.tile p t).evac = false
        else if x.fails < 2 then (after u).state = 2 ∧ (after u).fails = x.fails + 1
        else (after u).state = 4) ∧
    (∀ cause t, cause ≠ cCOOL_PRESS → x.clearAt.find cause = some t → t + 1000000 ≤ s.now →
      ∃ u, Machine.exec (.conditionCleared p z cause) s = .next u ∧ (after u).raised = x.raised.filter (· != cause)) ∧
    (∀ t, w.pressClear = some t → t + 1000000 ≤ s.now →
      ∃ u, Machine.exec (.conditionCleared p z cCOOL_PRESS) s = .next u ∧ (u.die p).power.pressOut = false)

/-- `FULL_RESET`, `POWER_REMOVAL`, `BOOT_PHASE_COMPLETE`, `DTIME_SYNC` and `RACK_LINK_UP` (R422, R436, R441, R443, R446): a
full reset leaves every context and every memory as after power-on, and of a tile no more than whether it has failed and which
spare stands for it; it keeps the configuration and `DTIME`, and starts the boot of every package at its first phase. A
package's phase or failed check is its own; `DTIME` is set, and links come up, in phase 6. `LOCK_INTERFACE_REQUEST`,
`START_INTERFACE_REQUEST`, `STOP_INTERFACE_REQUEST`, `VF_CONFIG_CHANGE`, `IDE_KM_KEY_SET`, `KEY_DELIVERY`, `TEARDOWN`,
`TEARDOWN_COMPLETE` and `GET_MEASUREMENTS` (R448 to R451). A teardown drops the VF's launches, the sync regions that it has
bound (log 110) and the keys of its tenant; when it completes, its range of DRAM holds zeros and the VF is unlocked.
`HOST_WRITE` and `HOST_READ` of a VF's memory (R309, R409, R441, R448): with the die's VFs enabled, inside the VF's range and
out of teardown, a write places its bytes and no other, and a read of lines that are not poisoned gives the bytes; a read
outside gives ones, poisoned. The PF's one register holds `BOOTST`, and a write to it changes nothing. Before a die's VFs, or
its PF, are presented, writes change nothing. -/
def Obligations.BootAndInterfaces : Prop :=
  (∀ (s : State),
    (∃ u, Machine.exec .fullReset s = .next u ∧ u.fixed = s.fixed ∧ u.powered = true ∧ u.net = [] ∧ u.fenced = [] ∧ u.synced = false ∧
      u.dtime = s.dtime ∧
      (∀ k, k < s.packages → u.boot k = { phase := 0 }) ∧
      (∀ p t, ∃ f z, u.tile p t = { failed := f, spare := z }) ∧
      (∀ p, p < s.peers → (u.die p).power.alloc = s.cfg.alloc) ∧
      (∀ p a tier, u.byteOf p tier a = 0)) ∧
    (∃ u, Machine.exec .powerRemoval s = .next u ∧ u.powered = false ∧ u.fixed = s.fixed ∧ u.dies = []) ∧
    (s.powered = true →
      (∀ phase code die svn, die / 8 < s.packages → (s.boot (die / 8)).code = 0 → (s.boot (die / 8)).phase + 1 = phase →
        let b := s.boot (die / 8)
        let c := if phase = 3 then s.cfg.check s.peers code else code
        ∃ u, Machine.exec (.bootPhaseComplete phase code die svn) s = .next u ∧
          u.boot (die / 8) = (if c = 0 then { b with phase := phase, svn := if phase = 3 then svn else b.svn }
            else { b with code := c, die := die % 8 }) ∧ ∀ j, j ≠ die / 8 → u.boot j = s.boot j) ∧
      (∀ n k, s.synced = false → s.now ≤ n → k < s.packages → s.phase6 k = true →
        ∃ u, Machine.exec (.dtimeSync n) s = .next u ∧ u.synced = true ∧ u.dtime = BitVec.ofNat 64 n) ∧
      (∀ n, s.synced = true → Machine.exec (.dtimeSync n) s = .next s) ∧
      (∀ k, let far := (k + 1) % s.packages
        (s.past k 5 = false ∨ s.past far 5 = false → ∀ same, Machine.exec (.rackLinkUp k same) s = .next s) ∧
        (s.past k 5 = true → s.past far 5 = true → s.phase6 k = true ∨ s.phase6 far = true →
          (∃ u, Machine.exec (.rackLinkUp k true) s = .next u ∧ SMap.get false u.linkDown k = false) ∧
          (∃ u, Machine.exec (.rackLinkUp k false) s = .next u ∧ SMap.get false u.linkDown k = true ∧ (u.boot k).code = 6 ∧
            (u.boot far).code = 6))))) ∧
  (∀ (p v : Nat) (s : State), s.powered = true →
    let x := s.td p v
    let torn := fun (i : Instr) => ∃ u, Machine.exec i s = .next u ∧ (u.td p v).tearing = true ∧
      (u.td p v).st = (if x.st = 1 ∨ x.st = 2 then 3 else x.st) ∧ (∀ y ∈ (u.die p).launchesOf (s.cfg.partOf p v), y.vf ≠ v) ∧
      (∀ q o, (SMap.get ({} : SyncObj) (u.die q).sync o).owner = some (p, s.cfg.partOf p v) →
        ∀ r ∈ (SMap.get ({} : SyncObj) (u.die q).sync o).regions, r.1 ≠ v) ∧
      ∀ k ∈ x.slots, SMap.get none (u.die p).keys k = none
    (s.vfsUp p = true → x.st = 0 → x.keyed = true → x.tearing = false →
      Machine.exec (.lockInterfaceRequest p v) s = .next (s.setTd p v { x with st := 1 })) ∧
    (s.vfsUp p = true → x.st = 1 → Machine.exec (.startInterfaceRequest p v) s = .next (s.setTd p v { x with st := 2 })) ∧
    (s.vfsUp p = true → x.tearing = false → torn (.stopInterfaceRequest p v)) ∧
    (x.st = 1 ∨ x.st = 2 → x.tearing = false → torn (.vfConfigChange p v)) ∧
    (x.tearing = false → torn (.teardown p v)) ∧
    (s.vfsUp p = true → x.st ≠ 1 → x.st ≠ 2 →
      Machine.exec (.ideKmKeySet p v) s = .next (s.setTd p v { x with keyed := true })) ∧
    (∀ slot q, slot ≠ 0 → slot < 256 → SMap.get 0 s.cfg.keyOwner (p * 256 + slot) = q → s.cfg.partOf p v = q → x.st = 1 →
      x.tearing = false →
      (SMap.get none (s.die p).keys slot = none ∨ slot ∈ x.slots) →
      ∃ u, Machine.exec (.keyDelivery p slot q v) s = .next u ∧ SMap.get none (u.die p).keys slot = some (s.cfg.tenantOf p v) ∧
        slot ∈ (u.td p v).slots ∧ (u.td p v).st = 1) ∧
    (x.tearing = true →
      let r := s.cfg.rangeOf p v
      ∃ u, Machine.exec (.teardownComplete p v) s = .next u ∧ u.td p v = { x with st := 0, tearing := false, slots := [] } ∧
        ∀ a, u.byteOf p 1 a = if r.1 * 4096 ≤ a ∧ a < r.1 * 4096 + r.2 * 4096 then 0 else s.byteOf p 1 a) ∧
    (Machine.exec (.getMeasurements p 5) s = .next { s with hostIn := some (false, (List.range 24).flatMap fun v =>
      leBytes 1 (s.td p v).st ++ leBytes 4 (s.cfg.tenantOf p v)) })) ∧
  (∀ (p v a : Nat) (bs : List Byte) (s : State), s.powered = true →
    (s.vfsUp p = true →
      (bs ≠ [] → s.hostMay p v a bs.length = true → s.hostHeld p a bs.length = false →
        ∃ u, Machine.exec (.hostWrite p (.memory v) a bs) s = .next u ∧
          ∀ b, u.byteOf p 1 b = if a ≤ b ∧ b < a + bs.length then bs.getD (b - a) 0 else s.byteOf p 1 b) ∧
      (∀ n, n ≠ 0 → s.hostMay p v a n = true → (s.die p).badSpan 1 a n = 0 →
        ∃ u, Machine.exec (.hostRead p (.memory v) a n) s = .next u ∧ u.dies = s.dies ∧
          u.hostIn = some (false, (List.range n).map (fun k => s.byteOf p 1 (a + k)))) ∧
      (∀ n, n ≠ 0 → s.hostMay p v a n = false → ∃ u, Machine.exec (.hostRead p (.memory v) a n) s = .next u ∧ u.dies = s.dies ∧
        u.hostIn = some (true, List.replicate n 0xFF))) ∧
    (s.vfsUp p = false → Machine.exec (.hostWrite p (.memory v) a bs) s = .next s ∧
      Machine.exec (.hostWrite p (.window v) a bs) s = .next s) ∧
    (s.pfUp p = false → Machine.exec (.hostWrite p .driver a bs) s = .next s) ∧
    (Machine.exec (.hostWrite p .pf a bs) s = .next s))
end

