-- ==== Sys2Proof/Laws/Encoding.lean ====
section
/-! SUPPORT. What every encoded word is, bit by bit (R79, R81): the fields of each of the five formats come back from the
word that they make, and so do class, opcode and stop. -/

namespace Sys2Proof.Laws

theorem low_bit (cls op : Nat) (stop : Bool) (i : Nat) : (low cls op stop).getLsbD i =
    if i < 1 then false else if i < 2 then stop else if i < 5 then cls.testBit (i - 2)
    else if i < 13 then op.testBit (i - 5) else false := by
  unfold low one
  rcases Nat.lt_or_ge i 1 with h | h
  · rw [BitVec.getLsbD_append, if_pos h]; simp [h]
  rcases Nat.lt_or_ge i 2 with h2 | h2
  · obtain rfl : i = 1 := by omega
    rw [BitVec.getLsbD_append, if_neg (by omega), BitVec.getLsbD_append, if_pos (by omega)]; simp
  rcases Nat.lt_or_ge i 5 with h5 | h5
  · rw [BitVec.getLsbD_append, if_neg (by omega), BitVec.getLsbD_append, if_neg (by omega), BitVec.getLsbD_append, if_pos (by omega),
      if_neg (by omega), if_neg (by omega), if_pos h5, BitVec.getLsbD_ofNat]
    simp only [show i - 1 - 1 = i - 2 by omega, show i - 2 < 3 by omega, decide_true, Bool.true_and]
  · rw [BitVec.getLsbD_append, if_neg (by omega), BitVec.getLsbD_append, if_neg (by omega), BitVec.getLsbD_append, if_neg (by omega),
      if_neg (by omega), if_neg (by omega), if_neg (by omega), BitVec.getLsbD_ofNat]
    simp only [show i - 1 - 1 - 3 = i - 5 by omega]
    split_ifs with h
    · simp [show i - 5 < 8 by omega]
    · simp [show ¬ i - 5 < 8 by omega]

theorem bit_eq (w : BitVec n) (i : Nat) : bit w i = w.getLsbD i := by simp [bit, BitVec.getLsbD]

theorem testBit_bits (w : BitVec n) (hi lo i : Nat) :
    (bits w hi lo).testBit i = (decide (i < hi + 1 - lo) && w.getLsbD (lo + i)) := by
  simp [bits, BitVec.getLsbD, Nat.testBit_mod_two_pow, Nat.testBit_shiftRight]

/-- A number below `2 ^ n` is known by its bits below `n`. -/
theorem eq_of_bits {a b n : Nat} (ha : a < 2 ^ n) (hb : b < 2 ^ n) (h : ∀ i, i < n → a.testBit i = b.testBit i) : a = b := by
  apply Nat.eq_of_testBit_eq
  intro i
  by_cases hi : i < n
  · exact h i hi
  · rw [Nat.testBit_lt_two_pow (lt_of_lt_of_le ha (Nat.pow_le_pow_right (by omega) (by omega))),
      Nat.testBit_lt_two_pow (lt_of_lt_of_le hb (Nat.pow_le_pow_right (by omega) (by omega)))]

theorem bits_lt (w : BitVec n) (hi lo : Nat) : bits w hi lo < 2 ^ (hi + 1 - lo) := by
  unfold bits; exact Nat.mod_lt _ (Nat.two_pow_pos _)

/-- Class and opcode of a word whose low bits are those of R79. -/
theorem class_of_low {w : Word} {cls op : Nat} {stop : Bool} (hc : cls < 8) (ho : op < 256)
    (h : ∀ i, i < 13 → w.getLsbD i = (low cls op stop).getLsbD i) :
    bits w 4 2 = cls ∧ bits w 12 5 = op ∧ bit w 1 = stop ∧ bit w 0 = false := by
  refine ⟨eq_of_bits (n := 3) (bits_lt w 4 2) hc ?_, eq_of_bits (n := 8) (bits_lt w 12 5) ho ?_, ?_, ?_⟩
  · intro i hi
    rw [testBit_bits, h _ (by omega), low_bit]
    have : i < 4 + 1 - 2 := by omega
    simp only [this, decide_true, Bool.true_and]
    split_ifs <;> first | omega | (congr 1; omega)
  · intro i hi
    rw [testBit_bits, h _ (by omega), low_bit]
    have : i < 12 + 1 - 5 := by omega
    simp only [this, decide_true, Bool.true_and]
    split_ifs <;> first | omega | (congr 1; omega)
  · rw [bit_eq, h _ (by omega), low_bit]; simp
  · rw [bit_eq, h _ (by omega), low_bit]; simp

theorem RegF.low_toWord (f : RegF) (c o i : Nat) (h : i < 13) : (f.toWord c o).getLsbD i = (low c o f.stop).getLsbD i := by
  unfold Sys2Proof.RegF.toWord
  rw [BitVec.getLsbD_append, if_pos h]

theorem RegF.d_toWord (f : RegF) (c o : Nat) : field (f.toWord c o) 13 8 = f.d := by
  apply BitVec.eq_of_getLsbD_eq
  intro i hi
  rw [field, BitVec.getLsbD_extractLsb', decide_eq_true hi, Bool.true_and]; unfold Sys2Proof.RegF.toWord
  rw [BitVec.getLsbD_append, if_neg (by omega)]
  rw [BitVec.getLsbD_append, if_pos (by omega)]
  congr 1; omega

theorem RegF.a_toWord (f : RegF) (c o : Nat) : field (f.toWord c o) 21 8 = f.a := by
  apply BitVec.eq_of_getLsbD_eq
  intro i hi
  rw [field, BitVec.getLsbD_extractLsb', decide_eq_true hi, Bool.true_and]; unfold Sys2Proof.RegF.toWord
  rw [BitVec.getLsbD_append, if_neg (by omega)]
  rw [BitVec.getLsbD_append, if_neg (by omega)]
  rw [BitVec.getLsbD_append, if_pos (by omega)]
  congr 1; omega

theorem RegF.b_toWord (f : RegF) (c o : Nat) : field (f.toWord c o) 29 8 = f.b := by
  apply BitVec.eq_of_getLsbD_eq
  intro i hi
  rw [field, BitVec.getLsbD_extractLsb', decide_eq_true hi, Bool.true_and]; unfold Sys2Proof.RegF.toWord
  rw [BitVec.getLsbD_append, if_neg (by omega)]
  rw [BitVec.getLsbD_append, if_neg (by omega)]
  rw [BitVec.getLsbD_append, if_neg (by omega)]
  rw [BitVec.getLsbD_append, if_pos (by omega)]
  congr 1; omega

theorem RegF.e_toWord (f : RegF) (c o : Nat) : field (f.toWord c o) 37 8 = f.e := by
  apply BitVec.eq_of_getLsbD_eq
  intro i hi
  rw [field, BitVec.getLsbD_extractLsb', decide_eq_true hi, Bool.true_and]; unfold Sys2Proof.RegF.toWord
  rw [BitVec.getLsbD_append, if_neg (by omega)]
  rw [BitVec.getLsbD_append, if_neg (by omega)]
  rw [BitVec.getLsbD_append, if_neg (by omega)]
  rw [BitVec.getLsbD_append, if_neg (by omega)]
  rw [BitVec.getLsbD_append, if_pos (by omega)]
  congr 1; omega

theorem RegF.t1_toWord (f : RegF) (c o : Nat) : field (f.toWord c o) 45 4 = f.t1 := by
  apply BitVec.eq_of_getLsbD_eq
  intro i hi
  rw [field, BitVec.getLsbD_extractLsb', decide_eq_true hi, Bool.true_and]; unfold Sys2Proof.RegF.toWord
  rw [BitVec.getLsbD_append, if_neg (by omega)]
  rw [BitVec.getLsbD_append, if_neg (by omega)]
  rw [BitVec.getLsbD_append, if_neg (by omega)]
  rw [BitVec.getLsbD_append, if_neg (by omega)]
  rw [BitVec.getLsbD_append, if_neg (by omega)]
  rw [BitVec.getLsbD_append, if_pos (by omega)]
  congr 1; omega

theorem RegF.m_toWord (f : RegF) (c o : Nat) : field (f.toWord c o) 49 10 = f.m := by
  apply BitVec.eq_of_getLsbD_eq
  intro i hi
  rw [field, BitVec.getLsbD_extractLsb', decide_eq_true hi, Bool.true_and]; unfold Sys2Proof.RegF.toWord
  rw [BitVec.getLsbD_append, if_neg (by omega)]
  rw [BitVec.getLsbD_append, if_neg (by omega)]
  rw [BitVec.getLsbD_append, if_neg (by omega)]
  rw [BitVec.getLsbD_append, if_neg (by omega)]
  rw [BitVec.getLsbD_append, if_neg (by omega)]
  rw [BitVec.getLsbD_append, if_neg (by omega)]
  rw [BitVec.getLsbD_append, if_pos (by omega)]
  congr 1; omega

theorem RegF.pr_toWord (f : RegF) (c o : Nat) : field (f.toWord c o) 59 3 = f.pr := by
  apply BitVec.eq_of_getLsbD_eq
  intro i hi
  rw [field, BitVec.getLsbD_extractLsb', decide_eq_true hi, Bool.true_and]; unfold Sys2Proof.RegF.toWord
  rw [BitVec.getLsbD_append, if_neg (by omega)]
  rw [BitVec.getLsbD_append, if_neg (by omega)]
  rw [BitVec.getLsbD_append, if_neg (by omega)]
  rw [BitVec.getLsbD_append, if_neg (by omega)]
  rw [BitVec.getLsbD_append, if_neg (by omega)]
  rw [BitVec.getLsbD_append, if_neg (by omega)]
  rw [BitVec.getLsbD_append, if_neg (by omega)]
  rw [BitVec.getLsbD_append, if_pos (by omega)]
  congr 1; omega

theorem RegF.class_toWord (f : RegF) {c o : Nat} (hc : c < 8) (ho : o < 256) :
    bits (f.toWord c o) 4 2 = c ∧ bits (f.toWord c o) 12 5 = o ∧ bit (f.toWord c o) 1 = f.stop ∧ bit (f.toWord c o) 0 = false :=
  class_of_low hc ho (fun i h => RegF.low_toWord f c o i h)

theorem RegF.ofWord_toWord (f : RegF) {c o : Nat} (hc : c < 8) (ho : o < 256) : Sys2Proof.RegF.ofWord (f.toWord c o) = f := by
  rw [Sys2Proof.RegF.ofWord, RegF.d_toWord, RegF.a_toWord, RegF.b_toWord, RegF.e_toWord, RegF.t1_toWord, RegF.m_toWord, RegF.pr_toWord, (RegF.class_toWord f hc ho).2.2.1]

theorem ImmF.low_toWord (f : ImmF) (c o i : Nat) (h : i < 13) : (f.toWord c o).getLsbD i = (low c o f.stop).getLsbD i := by
  unfold Sys2Proof.ImmF.toWord
  rw [BitVec.getLsbD_append, if_pos h]

theorem ImmF.d_toWord (f : ImmF) (c o : Nat) : field (f.toWord c o) 13 8 = f.d := by
  apply BitVec.eq_of_getLsbD_eq
  intro i hi
  rw [field, BitVec.getLsbD_extractLsb', decide_eq_true hi, Bool.true_and]; unfold Sys2Proof.ImmF.toWord
  rw [BitVec.getLsbD_append, if_neg (by omega)]
  rw [BitVec.getLsbD_append, if_pos (by omega)]
  congr 1; omega

theorem ImmF.a_toWord (f : ImmF) (c o : Nat) : field (f.toWord c o) 21 8 = f.a := by
  apply BitVec.eq_of_getLsbD_eq
  intro i hi
  rw [field, BitVec.getLsbD_extractLsb', decide_eq_true hi, Bool.true_and]; unfold Sys2Proof.ImmF.toWord
  rw [BitVec.getLsbD_append, if_neg (by omega)]
  rw [BitVec.getLsbD_append, if_neg (by omega)]
  rw [BitVec.getLsbD_append, if_pos (by omega)]
  congr 1; omega

theorem ImmF.t1_toWord (f : ImmF) (c o : Nat) : field (f.toWord c o) 29 4 = f.t1 := by
  apply BitVec.eq_of_getLsbD_eq
  intro i hi
  rw [field, BitVec.getLsbD_extractLsb', decide_eq_true hi, Bool.true_and]; unfold Sys2Proof.ImmF.toWord
  rw [BitVec.getLsbD_append, if_neg (by omega)]
  rw [BitVec.getLsbD_append, if_neg (by omega)]
  rw [BitVec.getLsbD_append, if_neg (by omega)]
  rw [BitVec.getLsbD_append, if_pos (by omega)]
  congr 1; omega

theorem ImmF.imm_toWord (f : ImmF) (c o : Nat) : field (f.toWord c o) 33 24 = f.imm := by
  apply BitVec.eq_of_getLsbD_eq
  intro i hi
  rw [field, BitVec.getLsbD_extractLsb', decide_eq_true hi, Bool.true_and]; unfold Sys2Proof.ImmF.toWord
  rw [BitVec.getLsbD_append, if_neg (by omega)]
  rw [BitVec.getLsbD_append, if_neg (by omega)]
  rw [BitVec.getLsbD_append, if_neg (by omega)]
  rw [BitVec.getLsbD_append, if_neg (by omega)]
  rw [BitVec.getLsbD_append, if_pos (by omega)]
  congr 1; omega

theorem ImmF.m_toWord (f : ImmF) (c o : Nat) : field (f.toWord c o) 57 7 = f.m := by
  apply BitVec.eq_of_getLsbD_eq
  intro i hi
  rw [field, BitVec.getLsbD_extractLsb', decide_eq_true hi, Bool.true_and]; unfold Sys2Proof.ImmF.toWord
  rw [BitVec.getLsbD_append, if_neg (by omega)]
  rw [BitVec.getLsbD_append, if_neg (by omega)]
  rw [BitVec.getLsbD_append, if_neg (by omega)]
  rw [BitVec.getLsbD_append, if_neg (by omega)]
  rw [BitVec.getLsbD_append, if_neg (by omega)]
  congr 1; omega

theorem ImmF.class_toWord (f : ImmF) {c o : Nat} (hc : c < 8) (ho : o < 256) :
    bits (f.toWord c o) 4 2 = c ∧ bits (f.toWord c o) 12 5 = o ∧ bit (f.toWord c o) 1 = f.stop ∧ bit (f.toWord c o) 0 = false :=
  class_of_low hc ho (fun i h => ImmF.low_toWord f c o i h)

theorem ImmF.ofWord_toWord (f : ImmF) {c o : Nat} (hc : c < 8) (ho : o < 256) : Sys2Proof.ImmF.ofWord (f.toWord c o) = f := by
  rw [Sys2Proof.ImmF.ofWord, ImmF.d_toWord, ImmF.a_toWord, ImmF.t1_toWord, ImmF.imm_toWord, ImmF.m_toWord, (ImmF.class_toWord f hc ho).2.2.1]

theorem WideF.low_toWord (f : WideF) (c o i : Nat) (h : i < 13) : (f.toWord c o).getLsbD i = (low c o f.stop).getLsbD i := by
  unfold Sys2Proof.WideF.toWord
  rw [BitVec.getLsbD_append, if_pos h]

theorem WideF.d_toWord (f : WideF) (c o : Nat) : field (f.toWord c o) 13 8 = f.d := by
  apply BitVec.eq_of_getLsbD_eq
  intro i hi
  rw [field, BitVec.getLsbD_extractLsb', decide_eq_true hi, Bool.true_and]; unfold Sys2Proof.WideF.toWord
  rw [BitVec.getLsbD_append, if_neg (by omega)]
  rw [BitVec.getLsbD_append, if_pos (by omega)]
  congr 1; omega

theorem WideF.imm_toWord (f : WideF) (c o : Nat) : field (f.toWord c o) 21 32 = f.imm := by
  apply BitVec.eq_of_getLsbD_eq
  intro i hi
  rw [field, BitVec.getLsbD_extractLsb', decide_eq_true hi, Bool.true_and]; unfold Sys2Proof.WideF.toWord
  rw [BitVec.getLsbD_append, if_neg (by omega)]
  rw [BitVec.getLsbD_append, if_neg (by omega)]
  rw [BitVec.getLsbD_append, if_pos (by omega)]
  congr 1; omega

theorem WideF.class_toWord (f : WideF) {c o : Nat} (hc : c < 8) (ho : o < 256) :
    bits (f.toWord c o) 4 2 = c ∧ bits (f.toWord c o) 12 5 = o ∧ bit (f.toWord c o) 1 = f.stop ∧ bit (f.toWord c o) 0 = false :=
  class_of_low hc ho (fun i h => WideF.low_toWord f c o i h)

theorem WideF.ofWord_toWord (f : WideF) {c o : Nat} (hc : c < 8) (ho : o < 256) : Sys2Proof.WideF.ofWord (f.toWord c o) = f := by
  rw [Sys2Proof.WideF.ofWord, WideF.d_toWord, WideF.imm_toWord, (WideF.class_toWord f hc ho).2.2.1]

theorem MemF.low_toWord (f : MemF) (c o i : Nat) (h : i < 13) : (f.toWord c o).getLsbD i = (low c o f.stop).getLsbD i := by
  unfold Sys2Proof.MemF.toWord
  rw [BitVec.getLsbD_append, if_pos h]

theorem MemF.d_toWord (f : MemF) (c o : Nat) : field (f.toWord c o) 13 8 = f.d := by
  apply BitVec.eq_of_getLsbD_eq
  intro i hi
  rw [field, BitVec.getLsbD_extractLsb', decide_eq_true hi, Bool.true_and]; unfold Sys2Proof.MemF.toWord
  rw [BitVec.getLsbD_append, if_neg (by omega)]
  rw [BitVec.getLsbD_append, if_pos (by omega)]
  congr 1; omega

theorem MemF.a_toWord (f : MemF) (c o : Nat) : field (f.toWord c o) 21 8 = f.a := by
  apply BitVec.eq_of_getLsbD_eq
  intro i hi
  rw [field, BitVec.getLsbD_extractLsb', decide_eq_true hi, Bool.true_and]; unfold Sys2Proof.MemF.toWord
  rw [BitVec.getLsbD_append, if_neg (by omega)]
  rw [BitVec.getLsbD_append, if_neg (by omega)]
  rw [BitVec.getLsbD_append, if_pos (by omega)]
  congr 1; omega

theorem MemF.b_toWord (f : MemF) (c o : Nat) : field (f.toWord c o) 29 8 = f.b := by
  apply BitVec.eq_of_getLsbD_eq
  intro i hi
  rw [field, BitVec.getLsbD_extractLsb', decide_eq_true hi, Bool.true_and]; unfold Sys2Proof.MemF.toWord
  rw [BitVec.getLsbD_append, if_neg (by omega)]
  rw [BitVec.getLsbD_append, if_neg (by omega)]
  rw [BitVec.getLsbD_append, if_neg (by omega)]
  rw [BitVec.getLsbD_append, if_pos (by omega)]
  congr 1; omega

theorem MemF.t1_toWord (f : MemF) (c o : Nat) : field (f.toWord c o) 37 4 = f.t1 := by
  apply BitVec.eq_of_getLsbD_eq
  intro i hi
  rw [field, BitVec.getLsbD_extractLsb', decide_eq_true hi, Bool.true_and]; unfold Sys2Proof.MemF.toWord
  rw [BitVec.getLsbD_append, if_neg (by omega)]
  rw [BitVec.getLsbD_append, if_neg (by omega)]
  rw [BitVec.getLsbD_append, if_neg (by omega)]
  rw [BitVec.getLsbD_append, if_neg (by omega)]
  rw [BitVec.getLsbD_append, if_pos (by omega)]
  congr 1; omega

theorem MemF.disp_toWord (f : MemF) (c o : Nat) : field (f.toWord c o) 41 12 = f.disp := by
  apply BitVec.eq_of_getLsbD_eq
  intro i hi
  rw [field, BitVec.getLsbD_extractLsb', decide_eq_true hi, Bool.true_and]; unfold Sys2Proof.MemF.toWord
  rw [BitVec.getLsbD_append, if_neg (by omega)]
  rw [BitVec.getLsbD_append, if_neg (by omega)]
  rw [BitVec.getLsbD_append, if_neg (by omega)]
  rw [BitVec.getLsbD_append, if_neg (by omega)]
  rw [BitVec.getLsbD_append, if_neg (by omega)]
  rw [BitVec.getLsbD_append, if_pos (by omega)]
  congr 1; omega

theorem MemF.m_toWord (f : MemF) (c o : Nat) : field (f.toWord c o) 53 8 = f.m := by
  apply BitVec.eq_of_getLsbD_eq
  intro i hi
  rw [field, BitVec.getLsbD_extractLsb', decide_eq_true hi, Bool.true_and]; unfold Sys2Proof.MemF.toWord
  rw [BitVec.getLsbD_append, if_neg (by omega)]
  rw [BitVec.getLsbD_append, if_neg (by omega)]
  rw [BitVec.getLsbD_append, if_neg (by omega)]
  rw [BitVec.getLsbD_append, if_neg (by omega)]
  rw [BitVec.getLsbD_append, if_neg (by omega)]
  rw [BitVec.getLsbD_append, if_neg (by omega)]
  rw [BitVec.getLsbD_append, if_pos (by omega)]
  congr 1; omega

theorem MemF.sp_toWord (f : MemF) (c o : Nat) : bit (f.toWord c o) 61 = f.sp := by
  rw [bit_eq]; unfold Sys2Proof.MemF.toWord one
  rw [BitVec.getLsbD_append, if_neg (by omega)]
  rw [BitVec.getLsbD_append, if_neg (by omega)]
  rw [BitVec.getLsbD_append, if_neg (by omega)]
  rw [BitVec.getLsbD_append, if_neg (by omega)]
  rw [BitVec.getLsbD_append, if_neg (by omega)]
  rw [BitVec.getLsbD_append, if_neg (by omega)]
  rw [BitVec.getLsbD_append, if_neg (by omega)]
  rw [BitVec.getLsbD_append, if_pos (by omega)]
  simp

theorem MemF.class_toWord (f : MemF) {c o : Nat} (hc : c < 8) (ho : o < 256) :
    bits (f.toWord c o) 4 2 = c ∧ bits (f.toWord c o) 12 5 = o ∧ bit (f.toWord c o) 1 = f.stop ∧ bit (f.toWord c o) 0 = false :=
  class_of_low hc ho (fun i h => MemF.low_toWord f c o i h)

theorem MemF.ofWord_toWord (f : MemF) {c o : Nat} (hc : c < 8) (ho : o < 256) : Sys2Proof.MemF.ofWord (f.toWord c o) = f := by
  rw [Sys2Proof.MemF.ofWord, MemF.d_toWord, MemF.a_toWord, MemF.b_toWord, MemF.t1_toWord, MemF.disp_toWord, MemF.m_toWord, MemF.sp_toWord, (MemF.class_toWord f hc ho).2.2.1]

theorem EngF.low_toWord (f : EngF) (c o i : Nat) (h : i < 13) : (f.toWord c o).getLsbD i = (low c o f.stop).getLsbD i := by
  unfold Sys2Proof.EngF.toWord
  rw [BitVec.getLsbD_append, if_pos h]

theorem EngF.d_toWord (f : EngF) (c o : Nat) : field (f.toWord c o) 13 8 = f.d := by
  apply BitVec.eq_of_getLsbD_eq
  intro i hi
  rw [field, BitVec.getLsbD_extractLsb', decide_eq_true hi, Bool.true_and]; unfold Sys2Proof.EngF.toWord
  rw [BitVec.getLsbD_append, if_neg (by omega)]
  rw [BitVec.getLsbD_append, if_pos (by omega)]
  congr 1; omega

theorem EngF.a_toWord (f : EngF) (c o : Nat) : field (f.toWord c o) 21 8 = f.a := by
  apply BitVec.eq_of_getLsbD_eq
  intro i hi
  rw [field, BitVec.getLsbD_extractLsb', decide_eq_true hi, Bool.true_and]; unfold Sys2Proof.EngF.toWord
  rw [BitVec.getLsbD_append, if_neg (by omega)]
  rw [BitVec.getLsbD_append, if_neg (by omega)]
  rw [BitVec.getLsbD_append, if_pos (by omega)]
  congr 1; omega

theorem EngF.b_toWord (f : EngF) (c o : Nat) : field (f.toWord c o) 29 8 = f.b := by
  apply BitVec.eq_of_getLsbD_eq
  intro i hi
  rw [field, BitVec.getLsbD_extractLsb', decide_eq_true hi, Bool.true_and]; unfold Sys2Proof.EngF.toWord
  rw [BitVec.getLsbD_append, if_neg (by omega)]
  rw [BitVec.getLsbD_append, if_neg (by omega)]
  rw [BitVec.getLsbD_append, if_neg (by omega)]
  rw [BitVec.getLsbD_append, if_pos (by omega)]
  congr 1; omega

theorem EngF.e_toWord (f : EngF) (c o : Nat) : field (f.toWord c o) 37 8 = f.e := by
  apply BitVec.eq_of_getLsbD_eq
  intro i hi
  rw [field, BitVec.getLsbD_extractLsb', decide_eq_true hi, Bool.true_and]; unfold Sys2Proof.EngF.toWord
  rw [BitVec.getLsbD_append, if_neg (by omega)]
  rw [BitVec.getLsbD_append, if_neg (by omega)]
  rw [BitVec.getLsbD_append, if_neg (by omega)]
  rw [BitVec.getLsbD_append, if_neg (by omega)]
  rw [BitVec.getLsbD_append, if_pos (by omega)]
  congr 1; omega

theorem EngF.lay_toWord (f : EngF) (c o : Nat) : field (f.toWord c o) 45 3 = f.lay := by
  apply BitVec.eq_of_getLsbD_eq
  intro i hi
  rw [field, BitVec.getLsbD_extractLsb', decide_eq_true hi, Bool.true_and]; unfold Sys2Proof.EngF.toWord
  rw [BitVec.getLsbD_append, if_neg (by omega)]
  rw [BitVec.getLsbD_append, if_neg (by omega)]
  rw [BitVec.getLsbD_append, if_neg (by omega)]
  rw [BitVec.getLsbD_append, if_neg (by omega)]
  rw [BitVec.getLsbD_append, if_neg (by omega)]
  rw [BitVec.getLsbD_append, if_pos (by omega)]
  congr 1; omega

theorem EngF.ri_toWord (f : EngF) (c o : Nat) : bit (f.toWord c o) 48 = f.ri := by
  rw [bit_eq]; unfold Sys2Proof.EngF.toWord one
  rw [BitVec.getLsbD_append, if_neg (by omega)]
  rw [BitVec.getLsbD_append, if_neg (by omega)]
  rw [BitVec.getLsbD_append, if_neg (by omega)]
  rw [BitVec.getLsbD_append, if_neg (by omega)]
  rw [BitVec.getLsbD_append, if_neg (by omega)]
  rw [BitVec.getLsbD_append, if_neg (by omega)]
  rw [BitVec.getLsbD_append, if_pos (by omega)]
  simp

theorem EngF.unit_toWord (f : EngF) (c o : Nat) : field (f.toWord c o) 49 3 = f.unit := by
  apply BitVec.eq_of_getLsbD_eq
  intro i hi
  rw [field, BitVec.getLsbD_extractLsb', decide_eq_true hi, Bool.true_and]; unfold Sys2Proof.EngF.toWord
  rw [BitVec.getLsbD_append, if_neg (by omega)]
  rw [BitVec.getLsbD_append, if_neg (by omega)]
  rw [BitVec.getLsbD_append, if_neg (by omega)]
  rw [BitVec.getLsbD_append, if_neg (by omega)]
  rw [BitVec.getLsbD_append, if_neg (by omega)]
  rw [BitVec.getLsbD_append, if_neg (by omega)]
  rw [BitVec.getLsbD_append, if_neg (by omega)]
  rw [BitVec.getLsbD_append, if_pos (by omega)]
  congr 1; omega

theorem EngF.m_toWord (f : EngF) (c o : Nat) : field (f.toWord c o) 52 11 = f.m := by
  apply BitVec.eq_of_getLsbD_eq
  intro i hi
  rw [field, BitVec.getLsbD_extractLsb', decide_eq_true hi, Bool.true_and]; unfold Sys2Proof.EngF.toWord
  rw [BitVec.getLsbD_append, if_neg (by omega)]
  rw [BitVec.getLsbD_append, if_neg (by omega)]
  rw [BitVec.getLsbD_append, if_neg (by omega)]
  rw [BitVec.getLsbD_append, if_neg (by omega)]
  rw [BitVec.getLsbD_append, if_neg (by omega)]
  rw [BitVec.getLsbD_append, if_neg (by omega)]
  rw [BitVec.getLsbD_append, if_neg (by omega)]
  rw [BitVec.getLsbD_append, if_neg (by omega)]
  rw [BitVec.getLsbD_append, if_pos (by omega)]
  congr 1; omega

theorem EngF.class_toWord (f : EngF) {c o : Nat} (hc : c < 8) (ho : o < 256) :
    bits (f.toWord c o) 4 2 = c ∧ bits (f.toWord c o) 12 5 = o ∧ bit (f.toWord c o) 1 = f.stop ∧ bit (f.toWord c o) 0 = false :=
  class_of_low hc ho (fun i h => EngF.low_toWord f c o i h)

theorem EngF.ofWord_toWord (f : EngF) {c o : Nat} (hc : c < 8) (ho : o < 256) : Sys2Proof.EngF.ofWord (f.toWord c o) = f := by
  rw [Sys2Proof.EngF.ofWord, EngF.d_toWord, EngF.a_toWord, EngF.b_toWord, EngF.e_toWord, EngF.lay_toWord, EngF.ri_toWord, EngF.unit_toWord, EngF.m_toWord, (EngF.class_toWord f hc ho).2.2.1]

end Sys2Proof.Laws
end

