-- ==== Sys2Proof/Laws/Sparse.lean ====
section
/-! SUPPORT. Sparse tables and byte memories: what a read gives after a write, and that every operation keeps the
canonical form. -/

namespace Sys2Proof.Laws

open Sys2Proof Sys2Proof.Machine

/-! ### Reads after writes -/

theorem get_put (d : α) (m : SMap α) (i j : Nat) (v : α) :
    SMap.get d (SMap.put m i v) j = if i = j then v else SMap.get d m j := by
  induction m with
  | nil => simp [SMap.put, SMap.get]
  | cons e m ih =>
    obtain ⟨k, w⟩ := e
    simp only [SMap.put]
    split
    · simp [SMap.get]
    · split
      · next h => simp only [beq_iff_eq] at h; subst h; by_cases hj : k = j <;> simp [SMap.get, hj]
      · next h =>
        simp only [beq_iff_eq] at h
        simp only [SMap.get, ih]
        by_cases hk : k = j
        · subst hk; simp [Ne.symm h]
        · simp [hk]

theorem get_erase (d : α) (m : SMap α) (i j : Nat) :
    SMap.get d (SMap.erase m i) j = if i = j then d else SMap.get d m j := by
  induction m with
  | nil => simp [SMap.erase, SMap.get]
  | cons e m ih =>
    obtain ⟨k, w⟩ := e
    simp only [SMap.erase]
    split
    · next h => simp only [beq_iff_eq] at h; subst h; rw [ih]; by_cases hj : k = j <;> simp [SMap.get, hj]
    · next h =>
      simp only [beq_iff_eq] at h
      simp only [SMap.get, ih]
      by_cases hk : k = j
      · subst hk; simp [Ne.symm h]
      · simp [hk]

theorem get_set [DecidableEq α] (d : α) (m : SMap α) (i j : Nat) (v : α) :
    SMap.get d (SMap.set d m i v) j = if i = j then v else SMap.get d m j := by
  simp only [SMap.set]
  split
  · next h => rw [get_erase, h]
  · exact get_put d m i j v

@[simp] theorem get_put_same (d : α) (m : SMap α) (i : Nat) (v : α) : SMap.get d (SMap.put m i v) i = v := by
  simp [get_put]
@[simp] theorem get_set_same [DecidableEq α] (d : α) (m : SMap α) (i : Nat) (v : α) :
    SMap.get d (SMap.set d m i v) i = v := by simp [get_set]
theorem get_put_other (d : α) (m : SMap α) {i j : Nat} (v : α) (h : i ≠ j) :
    SMap.get d (SMap.put m i v) j = SMap.get d m j := by simp [get_put, h]
theorem get_set_other [DecidableEq α] (d : α) (m : SMap α) {i j : Nat} (v : α) (h : i ≠ j) :
    SMap.get d (SMap.set d m i v) j = SMap.get d m j := by simp [get_set, h]

theorem put_put (m : SMap α) (i : Nat) (v w : α) : SMap.put (SMap.put m i v) i w = SMap.put m i w := by
  induction m with
  | nil => simp [SMap.put]
  | cons e m ih =>
    obtain ⟨k, u⟩ := e
    by_cases h : i < k
    · simp [SMap.put, h]
    · by_cases h' : k = i
      · subst h'; simp [SMap.put]
      · simp [SMap.put, h, h', ih]

/-! ### The canonical form -/

/-- The canonical form, as two properties: keys rise, and no value is the default. -/
theorem wf_iff [DecidableEq α] (d : α) (m : SMap α) :
    SMap.wf d m = true ↔ m.Pairwise (fun a b => a.1 < b.1) ∧ ∀ e ∈ m, e.2 ≠ d := by
  induction m with
  | nil => simp [SMap.wf]
  | cons e m ih =>
    obtain ⟨k, v⟩ := e
    cases m with
    | nil => simp [SMap.wf]
    | cons e' m =>
      obtain ⟨k', v'⟩ := e'
      rw [SMap.wf, Bool.and_eq_true, Bool.and_eq_true, ih]
      simp only [bne_iff_ne, ne_eq, decide_eq_true_eq, List.pairwise_cons, List.forall_mem_cons]
      constructor
      · rintro ⟨⟨h1, h2⟩, ⟨h3, h4⟩, h5, h6⟩
        exact ⟨⟨⟨h2, fun b hb => Nat.lt_trans h2 (h3 b hb)⟩, h3, h4⟩, h1, h5, h6⟩
      · rintro ⟨⟨⟨h2, _⟩, h3, h4⟩, h1, h5, h6⟩
        exact ⟨⟨h1, h2⟩, ⟨h3, h4⟩, h5, h6⟩

theorem mem_erase (m : SMap α) (i : Nat) (e : Nat × α) (h : e ∈ SMap.erase m i) : e ∈ m := by
  induction m with
  | nil => simp [SMap.erase] at h
  | cons x m ih =>
    simp only [SMap.erase] at h
    split at h
    · exact List.mem_cons_of_mem _ (ih h)
    · rcases List.mem_cons.mp h with h | h
      · exact h ▸ List.mem_cons_self
      · exact List.mem_cons_of_mem _ (ih h)

theorem mem_put (m : SMap α) (i : Nat) (v : α) (e : Nat × α) (h : e ∈ SMap.put m i v) : e = (i, v) ∨ e ∈ m := by
  induction m with
  | nil => simpa [SMap.put] using h
  | cons x m ih =>
    simp only [SMap.put] at h
    split at h
    · rcases List.mem_cons.mp h with h | h
      · exact .inl h
      · exact .inr h
    · split at h
      · rcases List.mem_cons.mp h with h | h
        · exact .inl h
        · exact .inr (List.mem_cons_of_mem _ h)
      · rcases List.mem_cons.mp h with h | h
        · exact .inr (h ▸ List.mem_cons_self)
        · rcases ih h with h | h
          · exact .inl h
          · exact .inr (List.mem_cons_of_mem _ h)

theorem wf_erase [DecidableEq α] (d : α) (m : SMap α) (i : Nat) (h : SMap.wf d m = true) :
    SMap.wf d (SMap.erase m i) = true := by
  rw [wf_iff] at *
  refine ⟨?_, fun e he => h.2 e (mem_erase m i e he)⟩
  obtain ⟨hp, -⟩ := h
  induction m with
  | nil => simp [SMap.erase]
  | cons x m ih =>
    rw [List.pairwise_cons] at hp
    simp only [SMap.erase]
    split
    · exact ih hp.2
    · rw [List.pairwise_cons]
      exact ⟨fun b hb => hp.1 b (mem_erase m i b hb), ih hp.2⟩

theorem wf_put [DecidableEq α] (d : α) (m : SMap α) (i : Nat) (v : α) (hv : v ≠ d) (h : SMap.wf d m = true) :
    SMap.wf d (SMap.put m i v) = true := by
  rw [wf_iff] at *
  refine ⟨?_, fun e he => ?_⟩
  · obtain ⟨hp, -⟩ := h
    induction m with
    | nil => simp [SMap.put]
    | cons x m ih =>
      rw [List.pairwise_cons] at hp
      simp only [SMap.put]
      split
      · next hlt =>
        rw [List.pairwise_cons, List.pairwise_cons]
        refine ⟨fun b hb => ?_, hp.1, hp.2⟩
        rcases List.mem_cons.mp hb with hb | hb
        · exact hb ▸ hlt
        · exact Nat.lt_trans hlt (hp.1 b hb)
      · next hlt =>
        split
        · next heq =>
          simp only [beq_iff_eq] at heq
          rw [List.pairwise_cons]
          exact ⟨fun b hb => heq ▸ hp.1 b hb, hp.2⟩
        · next hne =>
          simp only [beq_iff_eq] at hne
          rw [List.pairwise_cons]
          refine ⟨fun b hb => ?_, ih hp.2⟩
          rcases mem_put m i v b hb with hb | hb
          · subst hb; exact Nat.lt_of_le_of_ne (Nat.le_of_not_lt hlt) hne
          · exact hp.1 b hb
  · rcases mem_put m i v e he with he | he
    · exact he ▸ hv
    · exact h.2 e he

theorem wf_set [DecidableEq α] (d : α) (m : SMap α) (i : Nat) (v : α) (h : SMap.wf d m = true) :
    SMap.wf d (SMap.set d m i v) = true := by
  simp only [SMap.set]
  split
  · exact wf_erase d m i h
  · next hv => exact wf_put d m i v hv h

theorem wf_filter [DecidableEq α] (d : α) (m : SMap α) (p : Nat × α → Bool) (h : SMap.wf d m = true) :
    SMap.wf d (m.filter p) = true := by
  rw [wf_iff] at *
  exact ⟨h.1.filter p, fun e he => h.2 e (List.mem_filter.mp he).1⟩

/-! ### Byte memories -/

theorem byte_setByte (m : Memory) (a b : Nat) (v : Byte) :
    (Memory.setByte m a v).byte b = if a = b then v else m.byte b := get_set 0 m a b v

/-- A byte after a write: the value's byte inside the written span, and as before outside it. -/
theorem byte_write (m : Memory) (a n v b : Nat) :
    (m.write a n v).byte b =
      if a ≤ b ∧ b < a + n then BitVec.ofNat 8 (v / 256 ^ (b - a)) else m.byte b := by
  induction n generalizing m a v with
  | zero => simp only [Memory.write]; rw [if_neg (by omega)]
  | succ n ih =>
    rw [Memory.write, ih, byte_setByte]
    by_cases h : a = b
    · subst h; rw [if_neg (by omega), if_pos rfl, if_pos (by omega)]; simp
    · by_cases h1 : a + 1 ≤ b ∧ b < a + 1 + n
      · have h2 : a ≤ b ∧ b < a + (n + 1) := by omega
        have h3 : b - a = (b - (a + 1)) + 1 := by omega
        rw [if_pos h1, if_pos h2, h3, Nat.pow_succ, Nat.mul_comm, Nat.div_div_eq_div_mul]
      · rw [if_neg h1, if_neg h, if_neg (by omega)]

theorem byte_write_outside (m : Memory) {a n b : Nat} (v : Nat) (h : b < a ∨ a + n ≤ b) :
    (m.write a n v).byte b = m.byte b := by
  rw [byte_write, if_neg (by omega)]

/-- A read after a write of the same bytes gives the low bytes of the value. -/
theorem read_write (m : Memory) (a n v : Nat) : (m.write a n v).read a n = v % 256 ^ n := by
  suffices H : ∀ (k c : Nat), c + k ≤ n →
      (m.write a n v).read (a + c) k = v / 256 ^ c % 256 ^ k by
    simpa using H n 0 (by omega)
  intro k
  induction k with
  | zero => intro c _; simp [Memory.read, Nat.mod_one]
  | succ k ih =>
    intro c hc
    have hi := ih (c + 1) (by omega)
    rw [Memory.read, show a + c + 1 = a + (c + 1) from rfl, hi, byte_write, if_pos (by omega), Nat.add_sub_cancel_left,
      BitVec.toNat_ofNat, Nat.pow_succ (m := k), Nat.mul_comm (256 ^ k) 256, Nat.mod_mul, Nat.div_div_eq_div_mul,
      show 256 ^ c * 256 = 256 ^ (c + 1) from rfl]

theorem wf_write (m : Memory) (a n v : Nat) (h : m.wf = true) : (m.write a n v).wf = true := by
  induction n generalizing m a v with
  | zero => exact h
  | succ n ih => exact ih _ _ _ (wf_set 0 m a _ h)

theorem wf_zero (m : Memory) (a n : Nat) (h : m.wf = true) : (m.zero a n).wf = true := wf_filter 0 m _ h

theorem byte_zero (m : Memory) (a n b : Nat) :
    (m.zero a n).byte b = if a ≤ b ∧ b < a + n then 0 else m.byte b := by
  unfold Memory.zero Memory.byte
  induction m with
  | nil => simp [SMap.get]
  | cons e m ih =>
    obtain ⟨k, v⟩ := e
    rw [List.filter_cons]
    by_cases hk : k = b
    · subst hk
      by_cases h : a ≤ k ∧ k < a + n
      · rw [if_neg (by simp; omega), ih, if_pos h, if_pos h]
      · rw [if_pos (by simp; omega), if_neg h]; simp [SMap.get]
    · split
      · simp only [SMap.get, beq_iff_eq, hk, if_false]; exact ih
      · rw [ih]; simp only [SMap.get, beq_iff_eq, hk, if_false]

end Sys2Proof.Laws
end

