-- ==== Sys2Proof/Laws/State.lean ====
section
/-! SUPPORT. What each update of the state leaves and what it sets: one lemma for each field and update. -/

namespace Sys2Proof.Laws

open Sys2Proof Sys2Proof.Machine

/-! ### `State.setDie` -/

@[simp] theorem setDie_packages (s : State) (p : Nat) (d : Die) : (s.setDie p d).packages = s.packages := rfl
@[simp] theorem setDie_powered (s : State) (p : Nat) (d : Die) : (s.setDie p d).powered = s.powered := rfl
@[simp] theorem setDie_dtime (s : State) (p : Nat) (d : Die) : (s.setDie p d).dtime = s.dtime := rfl
@[simp] theorem setDie_frac (s : State) (p : Nat) (d : Die) : (s.setDie p d).frac = s.frac := rfl
@[simp] theorem setDie_cfg (s : State) (p : Nat) (d : Die) : (s.setDie p d).cfg = s.cfg := rfl
@[simp] theorem setDie_net (s : State) (p : Nat) (d : Die) : (s.setDie p d).net = s.net := rfl
@[simp] theorem setDie_fenced (s : State) (p : Nat) (d : Die) : (s.setDie p d).fenced = s.fenced := rfl
@[simp] theorem setDie_mgroups (s : State) (p : Nat) (d : Die) : (s.setDie p d).mgroups = s.mgroups := rfl
@[simp] theorem setDie_edits (s : State) (p : Nat) (d : Die) : (s.setDie p d).edits = s.edits := rfl
@[simp] theorem setDie_boots (s : State) (p : Nat) (d : Die) : (s.setDie p d).boots = s.boots := rfl
@[simp] theorem setDie_synced (s : State) (p : Nat) (d : Die) : (s.setDie p d).synced = s.synced := rfl
@[simp] theorem setDie_linkDown (s : State) (p : Nat) (d : Die) : (s.setDie p d).linkDown = s.linkDown := rfl
@[simp] theorem setDie_iss (s : State) (p : Nat) (d : Die) : (s.setDie p d).iss = s.iss := rfl
@[simp] theorem setDie_inputs (s : State) (p : Nat) (d : Die) : (s.setDie p d).inputs = s.inputs := rfl
@[simp] theorem setDie_netOut (s : State) (p : Nat) (d : Die) : (s.setDie p d).netOut = s.netOut := rfl
@[simp] theorem setDie_hostIn (s : State) (p : Nat) (d : Die) : (s.setDie p d).hostIn = s.hostIn := rfl
@[simp] theorem setDie_nvOrder (s : State) (p : Nat) (d : Die) : (s.setDie p d).nvOrder = s.nvOrder := rfl
@[simp] theorem setDie_free (s : State) (p : Nat) (d : Die) : (s.setDie p d).free = s.free := rfl

/-! ### `State.modDie` -/

@[simp] theorem modDie_packages (s : State) (p : Nat) (f : Die → Die) : (s.modDie p f).packages = s.packages := rfl
@[simp] theorem modDie_powered (s : State) (p : Nat) (f : Die → Die) : (s.modDie p f).powered = s.powered := rfl
@[simp] theorem modDie_dtime (s : State) (p : Nat) (f : Die → Die) : (s.modDie p f).dtime = s.dtime := rfl
@[simp] theorem modDie_frac (s : State) (p : Nat) (f : Die → Die) : (s.modDie p f).frac = s.frac := rfl
@[simp] theorem modDie_cfg (s : State) (p : Nat) (f : Die → Die) : (s.modDie p f).cfg = s.cfg := rfl
@[simp] theorem modDie_net (s : State) (p : Nat) (f : Die → Die) : (s.modDie p f).net = s.net := rfl
@[simp] theorem modDie_fenced (s : State) (p : Nat) (f : Die → Die) : (s.modDie p f).fenced = s.fenced := rfl
@[simp] theorem modDie_mgroups (s : State) (p : Nat) (f : Die → Die) : (s.modDie p f).mgroups = s.mgroups := rfl
@[simp] theorem modDie_edits (s : State) (p : Nat) (f : Die → Die) : (s.modDie p f).edits = s.edits := rfl
@[simp] theorem modDie_boots (s : State) (p : Nat) (f : Die → Die) : (s.modDie p f).boots = s.boots := rfl
@[simp] theorem modDie_synced (s : State) (p : Nat) (f : Die → Die) : (s.modDie p f).synced = s.synced := rfl
@[simp] theorem modDie_linkDown (s : State) (p : Nat) (f : Die → Die) : (s.modDie p f).linkDown = s.linkDown := rfl
@[simp] theorem modDie_iss (s : State) (p : Nat) (f : Die → Die) : (s.modDie p f).iss = s.iss := rfl
@[simp] theorem modDie_inputs (s : State) (p : Nat) (f : Die → Die) : (s.modDie p f).inputs = s.inputs := rfl
@[simp] theorem modDie_netOut (s : State) (p : Nat) (f : Die → Die) : (s.modDie p f).netOut = s.netOut := rfl
@[simp] theorem modDie_hostIn (s : State) (p : Nat) (f : Die → Die) : (s.modDie p f).hostIn = s.hostIn := rfl
@[simp] theorem modDie_nvOrder (s : State) (p : Nat) (f : Die → Die) : (s.modDie p f).nvOrder = s.nvOrder := rfl
@[simp] theorem modDie_free (s : State) (p : Nat) (f : Die → Die) : (s.modDie p f).free = s.free := rfl

/-! ### `State.setTile` -/

@[simp] theorem setTile_packages (s : State) (p t : Nat) (x : Tile) : (s.setTile p t x).packages = s.packages := rfl
@[simp] theorem setTile_powered (s : State) (p t : Nat) (x : Tile) : (s.setTile p t x).powered = s.powered := rfl
@[simp] theorem setTile_dtime (s : State) (p t : Nat) (x : Tile) : (s.setTile p t x).dtime = s.dtime := rfl
@[simp] theorem setTile_frac (s : State) (p t : Nat) (x : Tile) : (s.setTile p t x).frac = s.frac := rfl
@[simp] theorem setTile_cfg (s : State) (p t : Nat) (x : Tile) : (s.setTile p t x).cfg = s.cfg := rfl
@[simp] theorem setTile_net (s : State) (p t : Nat) (x : Tile) : (s.setTile p t x).net = s.net := rfl
@[simp] theorem setTile_fenced (s : State) (p t : Nat) (x : Tile) : (s.setTile p t x).fenced = s.fenced := rfl
@[simp] theorem setTile_mgroups (s : State) (p t : Nat) (x : Tile) : (s.setTile p t x).mgroups = s.mgroups := rfl
@[simp] theorem setTile_edits (s : State) (p t : Nat) (x : Tile) : (s.setTile p t x).edits = s.edits := rfl
@[simp] theorem setTile_boots (s : State) (p t : Nat) (x : Tile) : (s.setTile p t x).boots = s.boots := rfl
@[simp] theorem setTile_synced (s : State) (p t : Nat) (x : Tile) : (s.setTile p t x).synced = s.synced := rfl
@[simp] theorem setTile_linkDown (s : State) (p t : Nat) (x : Tile) : (s.setTile p t x).linkDown = s.linkDown := rfl
@[simp] theorem setTile_iss (s : State) (p t : Nat) (x : Tile) : (s.setTile p t x).iss = s.iss := rfl
@[simp] theorem setTile_inputs (s : State) (p t : Nat) (x : Tile) : (s.setTile p t x).inputs = s.inputs := rfl
@[simp] theorem setTile_netOut (s : State) (p t : Nat) (x : Tile) : (s.setTile p t x).netOut = s.netOut := rfl
@[simp] theorem setTile_hostIn (s : State) (p t : Nat) (x : Tile) : (s.setTile p t x).hostIn = s.hostIn := rfl
@[simp] theorem setTile_nvOrder (s : State) (p t : Nat) (x : Tile) : (s.setTile p t x).nvOrder = s.nvOrder := rfl
@[simp] theorem setTile_free (s : State) (p t : Nat) (x : Tile) : (s.setTile p t x).free = s.free := rfl

/-! ### `State.modTile` -/

@[simp] theorem modTile_packages (s : State) (p t : Nat) (f : Tile → Tile) : (s.modTile p t f).packages = s.packages := rfl
@[simp] theorem modTile_powered (s : State) (p t : Nat) (f : Tile → Tile) : (s.modTile p t f).powered = s.powered := rfl
@[simp] theorem modTile_dtime (s : State) (p t : Nat) (f : Tile → Tile) : (s.modTile p t f).dtime = s.dtime := rfl
@[simp] theorem modTile_frac (s : State) (p t : Nat) (f : Tile → Tile) : (s.modTile p t f).frac = s.frac := rfl
@[simp] theorem modTile_cfg (s : State) (p t : Nat) (f : Tile → Tile) : (s.modTile p t f).cfg = s.cfg := rfl
@[simp] theorem modTile_net (s : State) (p t : Nat) (f : Tile → Tile) : (s.modTile p t f).net = s.net := rfl
@[simp] theorem modTile_fenced (s : State) (p t : Nat) (f : Tile → Tile) : (s.modTile p t f).fenced = s.fenced := rfl
@[simp] theorem modTile_mgroups (s : State) (p t : Nat) (f : Tile → Tile) : (s.modTile p t f).mgroups = s.mgroups := rfl
@[simp] theorem modTile_edits (s : State) (p t : Nat) (f : Tile → Tile) : (s.modTile p t f).edits = s.edits := rfl
@[simp] theorem modTile_boots (s : State) (p t : Nat) (f : Tile → Tile) : (s.modTile p t f).boots = s.boots := rfl
@[simp] theorem modTile_synced (s : State) (p t : Nat) (f : Tile → Tile) : (s.modTile p t f).synced = s.synced := rfl
@[simp] theorem modTile_linkDown (s : State) (p t : Nat) (f : Tile → Tile) : (s.modTile p t f).linkDown = s.linkDown := rfl
@[simp] theorem modTile_iss (s : State) (p t : Nat) (f : Tile → Tile) : (s.modTile p t f).iss = s.iss := rfl
@[simp] theorem modTile_inputs (s : State) (p t : Nat) (f : Tile → Tile) : (s.modTile p t f).inputs = s.inputs := rfl
@[simp] theorem modTile_netOut (s : State) (p t : Nat) (f : Tile → Tile) : (s.modTile p t f).netOut = s.netOut := rfl
@[simp] theorem modTile_hostIn (s : State) (p t : Nat) (f : Tile → Tile) : (s.modTile p t f).hostIn = s.hostIn := rfl
@[simp] theorem modTile_nvOrder (s : State) (p t : Nat) (f : Tile → Tile) : (s.modTile p t f).nvOrder = s.nvOrder := rfl
@[simp] theorem modTile_free (s : State) (p t : Nat) (f : Tile → Tile) : (s.modTile p t f).free = s.free := rfl

/-! ### `State.setCtx` -/

@[simp] theorem setCtx_packages (s : State) (p t c : Nat) (x : Ctx) : (s.setCtx p t c x).packages = s.packages := rfl
@[simp] theorem setCtx_powered (s : State) (p t c : Nat) (x : Ctx) : (s.setCtx p t c x).powered = s.powered := rfl
@[simp] theorem setCtx_dtime (s : State) (p t c : Nat) (x : Ctx) : (s.setCtx p t c x).dtime = s.dtime := rfl
@[simp] theorem setCtx_frac (s : State) (p t c : Nat) (x : Ctx) : (s.setCtx p t c x).frac = s.frac := rfl
@[simp] theorem setCtx_cfg (s : State) (p t c : Nat) (x : Ctx) : (s.setCtx p t c x).cfg = s.cfg := rfl
@[simp] theorem setCtx_net (s : State) (p t c : Nat) (x : Ctx) : (s.setCtx p t c x).net = s.net := rfl
@[simp] theorem setCtx_fenced (s : State) (p t c : Nat) (x : Ctx) : (s.setCtx p t c x).fenced = s.fenced := rfl
@[simp] theorem setCtx_mgroups (s : State) (p t c : Nat) (x : Ctx) : (s.setCtx p t c x).mgroups = s.mgroups := rfl
@[simp] theorem setCtx_edits (s : State) (p t c : Nat) (x : Ctx) : (s.setCtx p t c x).edits = s.edits := rfl
@[simp] theorem setCtx_boots (s : State) (p t c : Nat) (x : Ctx) : (s.setCtx p t c x).boots = s.boots := rfl
@[simp] theorem setCtx_synced (s : State) (p t c : Nat) (x : Ctx) : (s.setCtx p t c x).synced = s.synced := rfl
@[simp] theorem setCtx_linkDown (s : State) (p t c : Nat) (x : Ctx) : (s.setCtx p t c x).linkDown = s.linkDown := rfl
@[simp] theorem setCtx_iss (s : State) (p t c : Nat) (x : Ctx) : (s.setCtx p t c x).iss = s.iss := rfl
@[simp] theorem setCtx_inputs (s : State) (p t c : Nat) (x : Ctx) : (s.setCtx p t c x).inputs = s.inputs := rfl
@[simp] theorem setCtx_netOut (s : State) (p t c : Nat) (x : Ctx) : (s.setCtx p t c x).netOut = s.netOut := rfl
@[simp] theorem setCtx_hostIn (s : State) (p t c : Nat) (x : Ctx) : (s.setCtx p t c x).hostIn = s.hostIn := rfl
@[simp] theorem setCtx_nvOrder (s : State) (p t c : Nat) (x : Ctx) : (s.setCtx p t c x).nvOrder = s.nvOrder := rfl
@[simp] theorem setCtx_free (s : State) (p t c : Nat) (x : Ctx) : (s.setCtx p t c x).free = s.free := rfl

/-! ### `State.modCtx` -/

@[simp] theorem modCtx_packages (s : State) (p t c : Nat) (f : Ctx → Ctx) : (s.modCtx p t c f).packages = s.packages := rfl
@[simp] theorem modCtx_powered (s : State) (p t c : Nat) (f : Ctx → Ctx) : (s.modCtx p t c f).powered = s.powered := rfl
@[simp] theorem modCtx_dtime (s : State) (p t c : Nat) (f : Ctx → Ctx) : (s.modCtx p t c f).dtime = s.dtime := rfl
@[simp] theorem modCtx_frac (s : State) (p t c : Nat) (f : Ctx → Ctx) : (s.modCtx p t c f).frac = s.frac := rfl
@[simp] theorem modCtx_cfg (s : State) (p t c : Nat) (f : Ctx → Ctx) : (s.modCtx p t c f).cfg = s.cfg := rfl
@[simp] theorem modCtx_net (s : State) (p t c : Nat) (f : Ctx → Ctx) : (s.modCtx p t c f).net = s.net := rfl
@[simp] theorem modCtx_fenced (s : State) (p t c : Nat) (f : Ctx → Ctx) : (s.modCtx p t c f).fenced = s.fenced := rfl
@[simp] theorem modCtx_mgroups (s : State) (p t c : Nat) (f : Ctx → Ctx) : (s.modCtx p t c f).mgroups = s.mgroups := rfl
@[simp] theorem modCtx_edits (s : State) (p t c : Nat) (f : Ctx → Ctx) : (s.modCtx p t c f).edits = s.edits := rfl
@[simp] theorem modCtx_boots (s : State) (p t c : Nat) (f : Ctx → Ctx) : (s.modCtx p t c f).boots = s.boots := rfl
@[simp] theorem modCtx_synced (s : State) (p t c : Nat) (f : Ctx → Ctx) : (s.modCtx p t c f).synced = s.synced := rfl
@[simp] theorem modCtx_linkDown (s : State) (p t c : Nat) (f : Ctx → Ctx) : (s.modCtx p t c f).linkDown = s.linkDown := rfl
@[simp] theorem modCtx_iss (s : State) (p t c : Nat) (f : Ctx → Ctx) : (s.modCtx p t c f).iss = s.iss := rfl
@[simp] theorem modCtx_inputs (s : State) (p t c : Nat) (f : Ctx → Ctx) : (s.modCtx p t c f).inputs = s.inputs := rfl
@[simp] theorem modCtx_netOut (s : State) (p t c : Nat) (f : Ctx → Ctx) : (s.modCtx p t c f).netOut = s.netOut := rfl
@[simp] theorem modCtx_hostIn (s : State) (p t c : Nat) (f : Ctx → Ctx) : (s.modCtx p t c f).hostIn = s.hostIn := rfl
@[simp] theorem modCtx_nvOrder (s : State) (p t c : Nat) (f : Ctx → Ctx) : (s.modCtx p t c f).nvOrder = s.nvOrder := rfl
@[simp] theorem modCtx_free (s : State) (p t c : Nat) (f : Ctx → Ctx) : (s.modCtx p t c f).free = s.free := rfl

/-! ### `State.setStream` -/

@[simp] theorem setStream_packages (s : State) (p t c : Nat) (e : Bool) (x : Stream) : (s.setStream p t c e x).packages = s.packages := rfl
@[simp] theorem setStream_powered (s : State) (p t c : Nat) (e : Bool) (x : Stream) : (s.setStream p t c e x).powered = s.powered := rfl
@[simp] theorem setStream_dtime (s : State) (p t c : Nat) (e : Bool) (x : Stream) : (s.setStream p t c e x).dtime = s.dtime := rfl
@[simp] theorem setStream_frac (s : State) (p t c : Nat) (e : Bool) (x : Stream) : (s.setStream p t c e x).frac = s.frac := rfl
@[simp] theorem setStream_cfg (s : State) (p t c : Nat) (e : Bool) (x : Stream) : (s.setStream p t c e x).cfg = s.cfg := rfl
@[simp] theorem setStream_net (s : State) (p t c : Nat) (e : Bool) (x : Stream) : (s.setStream p t c e x).net = s.net := rfl
@[simp] theorem setStream_fenced (s : State) (p t c : Nat) (e : Bool) (x : Stream) : (s.setStream p t c e x).fenced = s.fenced := rfl
@[simp] theorem setStream_mgroups (s : State) (p t c : Nat) (e : Bool) (x : Stream) : (s.setStream p t c e x).mgroups = s.mgroups := rfl
@[simp] theorem setStream_edits (s : State) (p t c : Nat) (e : Bool) (x : Stream) : (s.setStream p t c e x).edits = s.edits := rfl
@[simp] theorem setStream_boots (s : State) (p t c : Nat) (e : Bool) (x : Stream) : (s.setStream p t c e x).boots = s.boots := rfl
@[simp] theorem setStream_synced (s : State) (p t c : Nat) (e : Bool) (x : Stream) : (s.setStream p t c e x).synced = s.synced := rfl
@[simp] theorem setStream_linkDown (s : State) (p t c : Nat) (e : Bool) (x : Stream) : (s.setStream p t c e x).linkDown = s.linkDown := rfl
@[simp] theorem setStream_iss (s : State) (p t c : Nat) (e : Bool) (x : Stream) : (s.setStream p t c e x).iss = s.iss := rfl
@[simp] theorem setStream_inputs (s : State) (p t c : Nat) (e : Bool) (x : Stream) : (s.setStream p t c e x).inputs = s.inputs := rfl
@[simp] theorem setStream_netOut (s : State) (p t c : Nat) (e : Bool) (x : Stream) : (s.setStream p t c e x).netOut = s.netOut := rfl
@[simp] theorem setStream_hostIn (s : State) (p t c : Nat) (e : Bool) (x : Stream) : (s.setStream p t c e x).hostIn = s.hostIn := rfl
@[simp] theorem setStream_nvOrder (s : State) (p t c : Nat) (e : Bool) (x : Stream) : (s.setStream p t c e x).nvOrder = s.nvOrder := rfl
@[simp] theorem setStream_free (s : State) (p t c : Nat) (e : Bool) (x : Stream) : (s.setStream p t c e x).free = s.free := rfl

/-! ### `State.setMyTile` -/

@[simp] theorem setMyTile_packages (s : State) (x : Tile) : (s.setMyTile x).packages = s.packages := rfl
@[simp] theorem setMyTile_powered (s : State) (x : Tile) : (s.setMyTile x).powered = s.powered := rfl
@[simp] theorem setMyTile_dtime (s : State) (x : Tile) : (s.setMyTile x).dtime = s.dtime := rfl
@[simp] theorem setMyTile_frac (s : State) (x : Tile) : (s.setMyTile x).frac = s.frac := rfl
@[simp] theorem setMyTile_cfg (s : State) (x : Tile) : (s.setMyTile x).cfg = s.cfg := rfl
@[simp] theorem setMyTile_net (s : State) (x : Tile) : (s.setMyTile x).net = s.net := rfl
@[simp] theorem setMyTile_fenced (s : State) (x : Tile) : (s.setMyTile x).fenced = s.fenced := rfl
@[simp] theorem setMyTile_mgroups (s : State) (x : Tile) : (s.setMyTile x).mgroups = s.mgroups := rfl
@[simp] theorem setMyTile_edits (s : State) (x : Tile) : (s.setMyTile x).edits = s.edits := rfl
@[simp] theorem setMyTile_boots (s : State) (x : Tile) : (s.setMyTile x).boots = s.boots := rfl
@[simp] theorem setMyTile_synced (s : State) (x : Tile) : (s.setMyTile x).synced = s.synced := rfl
@[simp] theorem setMyTile_linkDown (s : State) (x : Tile) : (s.setMyTile x).linkDown = s.linkDown := rfl
@[simp] theorem setMyTile_iss (s : State) (x : Tile) : (s.setMyTile x).iss = s.iss := rfl
@[simp] theorem setMyTile_inputs (s : State) (x : Tile) : (s.setMyTile x).inputs = s.inputs := rfl
@[simp] theorem setMyTile_netOut (s : State) (x : Tile) : (s.setMyTile x).netOut = s.netOut := rfl
@[simp] theorem setMyTile_hostIn (s : State) (x : Tile) : (s.setMyTile x).hostIn = s.hostIn := rfl
@[simp] theorem setMyTile_nvOrder (s : State) (x : Tile) : (s.setMyTile x).nvOrder = s.nvOrder := rfl
@[simp] theorem setMyTile_free (s : State) (x : Tile) : (s.setMyTile x).free = s.free := rfl

/-! ### `State.setMyCtx` -/

@[simp] theorem setMyCtx_packages (s : State) (x : Ctx) : (s.setMyCtx x).packages = s.packages := rfl
@[simp] theorem setMyCtx_powered (s : State) (x : Ctx) : (s.setMyCtx x).powered = s.powered := rfl
@[simp] theorem setMyCtx_dtime (s : State) (x : Ctx) : (s.setMyCtx x).dtime = s.dtime := rfl
@[simp] theorem setMyCtx_frac (s : State) (x : Ctx) : (s.setMyCtx x).frac = s.frac := rfl
@[simp] theorem setMyCtx_cfg (s : State) (x : Ctx) : (s.setMyCtx x).cfg = s.cfg := rfl
@[simp] theorem setMyCtx_net (s : State) (x : Ctx) : (s.setMyCtx x).net = s.net := rfl
@[simp] theorem setMyCtx_fenced (s : State) (x : Ctx) : (s.setMyCtx x).fenced = s.fenced := rfl
@[simp] theorem setMyCtx_mgroups (s : State) (x : Ctx) : (s.setMyCtx x).mgroups = s.mgroups := rfl
@[simp] theorem setMyCtx_edits (s : State) (x : Ctx) : (s.setMyCtx x).edits = s.edits := rfl
@[simp] theorem setMyCtx_boots (s : State) (x : Ctx) : (s.setMyCtx x).boots = s.boots := rfl
@[simp] theorem setMyCtx_synced (s : State) (x : Ctx) : (s.setMyCtx x).synced = s.synced := rfl
@[simp] theorem setMyCtx_linkDown (s : State) (x : Ctx) : (s.setMyCtx x).linkDown = s.linkDown := rfl
@[simp] theorem setMyCtx_iss (s : State) (x : Ctx) : (s.setMyCtx x).iss = s.iss := rfl
@[simp] theorem setMyCtx_inputs (s : State) (x : Ctx) : (s.setMyCtx x).inputs = s.inputs := rfl
@[simp] theorem setMyCtx_netOut (s : State) (x : Ctx) : (s.setMyCtx x).netOut = s.netOut := rfl
@[simp] theorem setMyCtx_hostIn (s : State) (x : Ctx) : (s.setMyCtx x).hostIn = s.hostIn := rfl
@[simp] theorem setMyCtx_nvOrder (s : State) (x : Ctx) : (s.setMyCtx x).nvOrder = s.nvOrder := rfl
@[simp] theorem setMyCtx_free (s : State) (x : Ctx) : (s.setMyCtx x).free = s.free := rfl

/-! ### `State.setMe` -/

@[simp] theorem setMe_packages (s : State) (x : Stream) : (s.setMe x).packages = s.packages := rfl
@[simp] theorem setMe_powered (s : State) (x : Stream) : (s.setMe x).powered = s.powered := rfl
@[simp] theorem setMe_dtime (s : State) (x : Stream) : (s.setMe x).dtime = s.dtime := rfl
@[simp] theorem setMe_frac (s : State) (x : Stream) : (s.setMe x).frac = s.frac := rfl
@[simp] theorem setMe_cfg (s : State) (x : Stream) : (s.setMe x).cfg = s.cfg := rfl
@[simp] theorem setMe_net (s : State) (x : Stream) : (s.setMe x).net = s.net := rfl
@[simp] theorem setMe_fenced (s : State) (x : Stream) : (s.setMe x).fenced = s.fenced := rfl
@[simp] theorem setMe_mgroups (s : State) (x : Stream) : (s.setMe x).mgroups = s.mgroups := rfl
@[simp] theorem setMe_edits (s : State) (x : Stream) : (s.setMe x).edits = s.edits := rfl
@[simp] theorem setMe_boots (s : State) (x : Stream) : (s.setMe x).boots = s.boots := rfl
@[simp] theorem setMe_synced (s : State) (x : Stream) : (s.setMe x).synced = s.synced := rfl
@[simp] theorem setMe_linkDown (s : State) (x : Stream) : (s.setMe x).linkDown = s.linkDown := rfl
@[simp] theorem setMe_iss (s : State) (x : Stream) : (s.setMe x).iss = s.iss := rfl
@[simp] theorem setMe_inputs (s : State) (x : Stream) : (s.setMe x).inputs = s.inputs := rfl
@[simp] theorem setMe_netOut (s : State) (x : Stream) : (s.setMe x).netOut = s.netOut := rfl
@[simp] theorem setMe_hostIn (s : State) (x : Stream) : (s.setMe x).hostIn = s.hostIn := rfl
@[simp] theorem setMe_nvOrder (s : State) (x : Stream) : (s.setMe x).nvOrder = s.nvOrder := rfl
@[simp] theorem setMe_free (s : State) (x : Stream) : (s.setMe x).free = s.free := rfl

/-! ### `State.setMyDie` -/

@[simp] theorem setMyDie_packages (s : State) (d : Die) : (s.setMyDie d).packages = s.packages := rfl
@[simp] theorem setMyDie_powered (s : State) (d : Die) : (s.setMyDie d).powered = s.powered := rfl
@[simp] theorem setMyDie_dtime (s : State) (d : Die) : (s.setMyDie d).dtime = s.dtime := rfl
@[simp] theorem setMyDie_frac (s : State) (d : Die) : (s.setMyDie d).frac = s.frac := rfl
@[simp] theorem setMyDie_cfg (s : State) (d : Die) : (s.setMyDie d).cfg = s.cfg := rfl
@[simp] theorem setMyDie_net (s : State) (d : Die) : (s.setMyDie d).net = s.net := rfl
@[simp] theorem setMyDie_fenced (s : State) (d : Die) : (s.setMyDie d).fenced = s.fenced := rfl
@[simp] theorem setMyDie_mgroups (s : State) (d : Die) : (s.setMyDie d).mgroups = s.mgroups := rfl
@[simp] theorem setMyDie_edits (s : State) (d : Die) : (s.setMyDie d).edits = s.edits := rfl
@[simp] theorem setMyDie_boots (s : State) (d : Die) : (s.setMyDie d).boots = s.boots := rfl
@[simp] theorem setMyDie_synced (s : State) (d : Die) : (s.setMyDie d).synced = s.synced := rfl
@[simp] theorem setMyDie_linkDown (s : State) (d : Die) : (s.setMyDie d).linkDown = s.linkDown := rfl
@[simp] theorem setMyDie_iss (s : State) (d : Die) : (s.setMyDie d).iss = s.iss := rfl
@[simp] theorem setMyDie_inputs (s : State) (d : Die) : (s.setMyDie d).inputs = s.inputs := rfl
@[simp] theorem setMyDie_netOut (s : State) (d : Die) : (s.setMyDie d).netOut = s.netOut := rfl
@[simp] theorem setMyDie_hostIn (s : State) (d : Die) : (s.setMyDie d).hostIn = s.hostIn := rfl
@[simp] theorem setMyDie_nvOrder (s : State) (d : Die) : (s.setMyDie d).nvOrder = s.nvOrder := rfl
@[simp] theorem setMyDie_free (s : State) (d : Die) : (s.setMyDie d).free = s.free := rfl

/-! ### `State.pend` -/

@[simp] theorem pend_packages (s : State) (w : Write) (h : Option (Bool × Word)) (n : Nat) : (s.pend w h n).packages = s.packages := rfl
@[simp] theorem pend_powered (s : State) (w : Write) (h : Option (Bool × Word)) (n : Nat) : (s.pend w h n).powered = s.powered := rfl
@[simp] theorem pend_dtime (s : State) (w : Write) (h : Option (Bool × Word)) (n : Nat) : (s.pend w h n).dtime = s.dtime := rfl
@[simp] theorem pend_frac (s : State) (w : Write) (h : Option (Bool × Word)) (n : Nat) : (s.pend w h n).frac = s.frac := rfl
@[simp] theorem pend_cfg (s : State) (w : Write) (h : Option (Bool × Word)) (n : Nat) : (s.pend w h n).cfg = s.cfg := rfl
@[simp] theorem pend_net (s : State) (w : Write) (h : Option (Bool × Word)) (n : Nat) : (s.pend w h n).net = s.net := rfl
@[simp] theorem pend_fenced (s : State) (w : Write) (h : Option (Bool × Word)) (n : Nat) : (s.pend w h n).fenced = s.fenced := rfl
@[simp] theorem pend_mgroups (s : State) (w : Write) (h : Option (Bool × Word)) (n : Nat) : (s.pend w h n).mgroups = s.mgroups := rfl
@[simp] theorem pend_edits (s : State) (w : Write) (h : Option (Bool × Word)) (n : Nat) : (s.pend w h n).edits = s.edits := rfl
@[simp] theorem pend_boots (s : State) (w : Write) (h : Option (Bool × Word)) (n : Nat) : (s.pend w h n).boots = s.boots := rfl
@[simp] theorem pend_synced (s : State) (w : Write) (h : Option (Bool × Word)) (n : Nat) : (s.pend w h n).synced = s.synced := rfl
@[simp] theorem pend_linkDown (s : State) (w : Write) (h : Option (Bool × Word)) (n : Nat) : (s.pend w h n).linkDown = s.linkDown := rfl
@[simp] theorem pend_iss (s : State) (w : Write) (h : Option (Bool × Word)) (n : Nat) : (s.pend w h n).iss = s.iss := rfl
@[simp] theorem pend_inputs (s : State) (w : Write) (h : Option (Bool × Word)) (n : Nat) : (s.pend w h n).inputs = s.inputs := rfl
@[simp] theorem pend_netOut (s : State) (w : Write) (h : Option (Bool × Word)) (n : Nat) : (s.pend w h n).netOut = s.netOut := rfl
@[simp] theorem pend_hostIn (s : State) (w : Write) (h : Option (Bool × Word)) (n : Nat) : (s.pend w h n).hostIn = s.hostIn := rfl
@[simp] theorem pend_nvOrder (s : State) (w : Write) (h : Option (Bool × Word)) (n : Nat) : (s.pend w h n).nvOrder = s.nvOrder := rfl
@[simp] theorem pend_free (s : State) (w : Write) (h : Option (Bool × Word)) (n : Nat) : (s.pend w h n).free = s.free := rfl

/-! ### `State.sResult` -/

@[simp] theorem sResult_packages (s : State) (d : BitVec 8) (v : Word) : (s.sResult d v).packages = s.packages := rfl
@[simp] theorem sResult_powered (s : State) (d : BitVec 8) (v : Word) : (s.sResult d v).powered = s.powered := rfl
@[simp] theorem sResult_dtime (s : State) (d : BitVec 8) (v : Word) : (s.sResult d v).dtime = s.dtime := rfl
@[simp] theorem sResult_frac (s : State) (d : BitVec 8) (v : Word) : (s.sResult d v).frac = s.frac := rfl
@[simp] theorem sResult_cfg (s : State) (d : BitVec 8) (v : Word) : (s.sResult d v).cfg = s.cfg := rfl
@[simp] theorem sResult_net (s : State) (d : BitVec 8) (v : Word) : (s.sResult d v).net = s.net := rfl
@[simp] theorem sResult_fenced (s : State) (d : BitVec 8) (v : Word) : (s.sResult d v).fenced = s.fenced := rfl
@[simp] theorem sResult_mgroups (s : State) (d : BitVec 8) (v : Word) : (s.sResult d v).mgroups = s.mgroups := rfl
@[simp] theorem sResult_edits (s : State) (d : BitVec 8) (v : Word) : (s.sResult d v).edits = s.edits := rfl
@[simp] theorem sResult_boots (s : State) (d : BitVec 8) (v : Word) : (s.sResult d v).boots = s.boots := rfl
@[simp] theorem sResult_synced (s : State) (d : BitVec 8) (v : Word) : (s.sResult d v).synced = s.synced := rfl
@[simp] theorem sResult_linkDown (s : State) (d : BitVec 8) (v : Word) : (s.sResult d v).linkDown = s.linkDown := rfl
@[simp] theorem sResult_iss (s : State) (d : BitVec 8) (v : Word) : (s.sResult d v).iss = s.iss := rfl
@[simp] theorem sResult_inputs (s : State) (d : BitVec 8) (v : Word) : (s.sResult d v).inputs = s.inputs := rfl
@[simp] theorem sResult_netOut (s : State) (d : BitVec 8) (v : Word) : (s.sResult d v).netOut = s.netOut := rfl
@[simp] theorem sResult_hostIn (s : State) (d : BitVec 8) (v : Word) : (s.sResult d v).hostIn = s.hostIn := rfl
@[simp] theorem sResult_nvOrder (s : State) (d : BitVec 8) (v : Word) : (s.sResult d v).nvOrder = s.nvOrder := rfl
@[simp] theorem sResult_free (s : State) (d : BitVec 8) (v : Word) : (s.sResult d v).free = s.free := rfl

/-! ### `State.lResult` -/

@[simp] theorem lResult_packages (s : State) (d : BitVec 8) (v : Word) : (s.lResult d v).packages = s.packages := rfl
@[simp] theorem lResult_powered (s : State) (d : BitVec 8) (v : Word) : (s.lResult d v).powered = s.powered := rfl
@[simp] theorem lResult_dtime (s : State) (d : BitVec 8) (v : Word) : (s.lResult d v).dtime = s.dtime := rfl
@[simp] theorem lResult_frac (s : State) (d : BitVec 8) (v : Word) : (s.lResult d v).frac = s.frac := rfl
@[simp] theorem lResult_cfg (s : State) (d : BitVec 8) (v : Word) : (s.lResult d v).cfg = s.cfg := rfl
@[simp] theorem lResult_net (s : State) (d : BitVec 8) (v : Word) : (s.lResult d v).net = s.net := rfl
@[simp] theorem lResult_fenced (s : State) (d : BitVec 8) (v : Word) : (s.lResult d v).fenced = s.fenced := rfl
@[simp] theorem lResult_mgroups (s : State) (d : BitVec 8) (v : Word) : (s.lResult d v).mgroups = s.mgroups := rfl
@[simp] theorem lResult_edits (s : State) (d : BitVec 8) (v : Word) : (s.lResult d v).edits = s.edits := rfl
@[simp] theorem lResult_boots (s : State) (d : BitVec 8) (v : Word) : (s.lResult d v).boots = s.boots := rfl
@[simp] theorem lResult_synced (s : State) (d : BitVec 8) (v : Word) : (s.lResult d v).synced = s.synced := rfl
@[simp] theorem lResult_linkDown (s : State) (d : BitVec 8) (v : Word) : (s.lResult d v).linkDown = s.linkDown := rfl
@[simp] theorem lResult_iss (s : State) (d : BitVec 8) (v : Word) : (s.lResult d v).iss = s.iss := rfl
@[simp] theorem lResult_inputs (s : State) (d : BitVec 8) (v : Word) : (s.lResult d v).inputs = s.inputs := rfl
@[simp] theorem lResult_netOut (s : State) (d : BitVec 8) (v : Word) : (s.lResult d v).netOut = s.netOut := rfl
@[simp] theorem lResult_hostIn (s : State) (d : BitVec 8) (v : Word) : (s.lResult d v).hostIn = s.hostIn := rfl
@[simp] theorem lResult_nvOrder (s : State) (d : BitVec 8) (v : Word) : (s.lResult d v).nvOrder = s.nvOrder := rfl
@[simp] theorem lResult_free (s : State) (d : BitVec 8) (v : Word) : (s.lResult d v).free = s.free := rfl

/-! ### `State.yResult` -/

@[simp] theorem yResult_packages (s : State) (d : BitVec 8) (v : Word) (n : Nat) : (s.yResult d v n).packages = s.packages := rfl
@[simp] theorem yResult_powered (s : State) (d : BitVec 8) (v : Word) (n : Nat) : (s.yResult d v n).powered = s.powered := rfl
@[simp] theorem yResult_dtime (s : State) (d : BitVec 8) (v : Word) (n : Nat) : (s.yResult d v n).dtime = s.dtime := rfl
@[simp] theorem yResult_frac (s : State) (d : BitVec 8) (v : Word) (n : Nat) : (s.yResult d v n).frac = s.frac := rfl
@[simp] theorem yResult_cfg (s : State) (d : BitVec 8) (v : Word) (n : Nat) : (s.yResult d v n).cfg = s.cfg := rfl
@[simp] theorem yResult_net (s : State) (d : BitVec 8) (v : Word) (n : Nat) : (s.yResult d v n).net = s.net := rfl
@[simp] theorem yResult_fenced (s : State) (d : BitVec 8) (v : Word) (n : Nat) : (s.yResult d v n).fenced = s.fenced := rfl
@[simp] theorem yResult_mgroups (s : State) (d : BitVec 8) (v : Word) (n : Nat) : (s.yResult d v n).mgroups = s.mgroups := rfl
@[simp] theorem yResult_edits (s : State) (d : BitVec 8) (v : Word) (n : Nat) : (s.yResult d v n).edits = s.edits := rfl
@[simp] theorem yResult_boots (s : State) (d : BitVec 8) (v : Word) (n : Nat) : (s.yResult d v n).boots = s.boots := rfl
@[simp] theorem yResult_synced (s : State) (d : BitVec 8) (v : Word) (n : Nat) : (s.yResult d v n).synced = s.synced := rfl
@[simp] theorem yResult_linkDown (s : State) (d : BitVec 8) (v : Word) (n : Nat) : (s.yResult d v n).linkDown = s.linkDown := rfl
@[simp] theorem yResult_iss (s : State) (d : BitVec 8) (v : Word) (n : Nat) : (s.yResult d v n).iss = s.iss := rfl
@[simp] theorem yResult_inputs (s : State) (d : BitVec 8) (v : Word) (n : Nat) : (s.yResult d v n).inputs = s.inputs := rfl
@[simp] theorem yResult_netOut (s : State) (d : BitVec 8) (v : Word) (n : Nat) : (s.yResult d v n).netOut = s.netOut := rfl
@[simp] theorem yResult_hostIn (s : State) (d : BitVec 8) (v : Word) (n : Nat) : (s.yResult d v n).hostIn = s.hostIn := rfl
@[simp] theorem yResult_nvOrder (s : State) (d : BitVec 8) (v : Word) (n : Nat) : (s.yResult d v n).nvOrder = s.nvOrder := rfl
@[simp] theorem yResult_free (s : State) (d : BitVec 8) (v : Word) (n : Nat) : (s.yResult d v n).free = s.free := rfl

/-! ### `Die.setTile` -/

@[simp] theorem die_setTile_dram (d : Die) (t : Nat) (x : Tile) : (d.setTile t x).dram = d.dram := rfl
@[simp] theorem die_setTile_sram (d : Die) (t : Nat) (x : Tile) : (d.setTile t x).sram = d.sram := rfl
@[simp] theorem die_setTile_dmeta (d : Die) (t : Nat) (x : Tile) : (d.setTile t x).dmeta = d.dmeta := rfl
@[simp] theorem die_setTile_smeta (d : Die) (t : Nat) (x : Tile) : (d.setTile t x).smeta = d.smeta := rfl
@[simp] theorem die_setTile_copies (d : Die) (t : Nat) (x : Tile) : (d.setTile t x).copies = d.copies := rfl
@[simp] theorem die_setTile_sync (d : Die) (t : Nat) (x : Tile) : (d.setTile t x).sync = d.sync := rfl
@[simp] theorem die_setTile_groups (d : Die) (t : Nat) (x : Tile) : (d.setTile t x).groups = d.groups := rfl
@[simp] theorem die_setTile_vfroot (d : Die) (t : Nat) (x : Tile) : (d.setTile t x).vfroot = d.vfroot := rfl
@[simp] theorem die_setTile_migpool (d : Die) (t : Nat) (x : Tile) : (d.setTile t x).migpool = d.migpool := rfl
@[simp] theorem die_setTile_migCnt (d : Die) (t : Nat) (x : Tile) : (d.setTile t x).migCnt = d.migCnt := rfl
@[simp] theorem die_setTile_tlb (d : Die) (t : Nat) (x : Tile) : (d.setTile t x).tlb = d.tlb := rfl
@[simp] theorem die_setTile_migDue (d : Die) (t : Nat) (x : Tile) : (d.setTile t x).migDue = d.migDue := rfl
@[simp] theorem die_setTile_holdCnt (d : Die) (t : Nat) (x : Tile) : (d.setTile t x).holdCnt = d.holdCnt := rfl
@[simp] theorem die_setTile_keys (d : Die) (t : Nat) (x : Tile) : (d.setTile t x).keys = d.keys := rfl
@[simp] theorem die_setTile_slots (d : Die) (t : Nat) (x : Tile) : (d.setTile t x).slots = d.slots := rfl
@[simp] theorem die_setTile_slotAge (d : Die) (t : Nat) (x : Tile) : (d.setTile t x).slotAge = d.slotAge := rfl
@[simp] theorem die_setTile_smq (d : Die) (t : Nat) (x : Tile) : (d.setTile t x).smq = d.smq := rfl
@[simp] theorem die_setTile_fwd (d : Die) (t : Nat) (x : Tile) : (d.setTile t x).fwd = d.fwd := rfl
@[simp] theorem die_setTile_claims (d : Die) (t : Nat) (x : Tile) : (d.setTile t x).claims = d.claims := rfl
@[simp] theorem die_setTile_holds (d : Die) (t : Nat) (x : Tile) : (d.setTile t x).holds = d.holds := rfl
@[simp] theorem die_setTile_stubs (d : Die) (t : Nat) (x : Tile) : (d.setTile t x).stubs = d.stubs := rfl
@[simp] theorem die_setTile_reqs (d : Die) (t : Nat) (x : Tile) : (d.setTile t x).reqs = d.reqs := rfl
@[simp] theorem die_setTile_nextTag (d : Die) (t : Nat) (x : Tile) : (d.setTile t x).nextTag = d.nextTag := rfl
@[simp] theorem die_setTile_chdc (d : Die) (t : Nat) (x : Tile) : (d.setTile t x).chdc = d.chdc := rfl
@[simp] theorem die_setTile_chdu (d : Die) (t : Nat) (x : Tile) : (d.setTile t x).chdu = d.chdu := rfl
@[simp] theorem die_setTile_chsc (d : Die) (t : Nat) (x : Tile) : (d.setTile t x).chsc = d.chsc := rfl
@[simp] theorem die_setTile_chsu (d : Die) (t : Nat) (x : Tile) : (d.setTile t x).chsu = d.chsu := rfl
@[simp] theorem die_setTile_chfl (d : Die) (t : Nat) (x : Tile) : (d.setTile t x).chfl = d.chfl := rfl
@[simp] theorem die_setTile_chfd (d : Die) (t : Nat) (x : Tile) : (d.setTile t x).chfd = d.chfd := rfl
@[simp] theorem die_setTile_chst (d : Die) (t : Nat) (x : Tile) : (d.setTile t x).chst = d.chst := rfl
@[simp] theorem die_setTile_chrq (d : Die) (t : Nat) (x : Tile) : (d.setTile t x).chrq = d.chrq := rfl
@[simp] theorem die_setTile_windows (d : Die) (t : Nat) (x : Tile) : (d.setTile t x).windows = d.windows := rfl
@[simp] theorem die_setTile_launchDue (d : Die) (t : Nat) (x : Tile) : (d.setTile t x).launchDue = d.launchDue := rfl
@[simp] theorem die_setTile_launches (d : Die) (t : Nat) (x : Tile) : (d.setTile t x).launches = d.launches := rfl
@[simp] theorem die_setTile_launchAge (d : Die) (t : Nat) (x : Tile) : (d.setTile t x).launchAge = d.launchAge := rfl
@[simp] theorem die_setTile_periodAt (d : Die) (t : Nat) (x : Tile) : (d.setTile t x).periodAt = d.periodAt := rfl
@[simp] theorem die_setTile_rebindAt (d : Die) (t : Nat) (x : Tile) : (d.setTile t x).rebindAt = d.rebindAt := rfl
@[simp] theorem die_setTile_parts (d : Die) (t : Nat) (x : Tile) : (d.setTile t x).parts = d.parts := rfl
@[simp] theorem die_setTile_ops (d : Die) (t : Nat) (x : Tile) : (d.setTile t x).ops = d.ops := rfl
@[simp] theorem die_setTile_askCur (d : Die) (t : Nat) (x : Tile) : (d.setTile t x).askCur = d.askCur := rfl
@[simp] theorem die_setTile_inForce (d : Die) (t : Nat) (x : Tile) : (d.setTile t x).inForce = d.inForce := rfl
@[simp] theorem die_setTile_rules (d : Die) (t : Nat) (x : Tile) : (d.setTile t x).rules = d.rules := rfl
@[simp] theorem die_setTile_kvq (d : Die) (t : Nat) (x : Tile) : (d.setTile t x).kvq = d.kvq := rfl
@[simp] theorem die_setTile_swb (d : Die) (t : Nat) (x : Tile) : (d.setTile t x).swb = d.swb := rfl
@[simp] theorem die_setTile_swn (d : Die) (t : Nat) (x : Tile) : (d.setTile t x).swn = d.swn := rfl
@[simp] theorem die_setTile_swap (d : Die) (t : Nat) (x : Tile) : (d.setTile t x).swap = d.swap := rfl
@[simp] theorem die_setTile_swapBad (d : Die) (t : Nat) (x : Tile) : (d.setTile t x).swapBad = d.swapBad := rfl
@[simp] theorem die_setTile_swaps (d : Die) (t : Nat) (x : Tile) : (d.setTile t x).swaps = d.swaps := rfl
@[simp] theorem die_setTile_mch (d : Die) (t : Nat) (x : Tile) : (d.setTile t x).mch = d.mch := rfl
@[simp] theorem die_setTile_fredN (d : Die) (t : Nat) (x : Tile) : (d.setTile t x).fredN = d.fredN := rfl
@[simp] theorem die_setTile_freds (d : Die) (t : Nat) (x : Tile) : (d.setTile t x).freds = d.freds := rfl
@[simp] theorem die_setTile_netwin (d : Die) (t : Nat) (x : Tile) : (d.setTile t x).netwin = d.netwin := rfl
@[simp] theorem die_setTile_rx (d : Die) (t : Nat) (x : Tile) : (d.setTile t x).rx = d.rx := rfl
@[simp] theorem die_setTile_rxDone (d : Die) (t : Nat) (x : Tile) : (d.setTile t x).rxDone = d.rxDone := rfl
@[simp] theorem die_setTile_keepAt (d : Die) (t : Nat) (x : Tile) : (d.setTile t x).keepAt = d.keepAt := rfl
@[simp] theorem die_setTile_resends (d : Die) (t : Nat) (x : Tile) : (d.setTile t x).resends = d.resends := rfl
@[simp] theorem die_setTile_deficit (d : Die) (t : Nat) (x : Tile) : (d.setTile t x).deficit = d.deficit := rfl
@[simp] theorem die_setTile_power (d : Die) (t : Nat) (x : Tile) : (d.setTile t x).power = d.power := rfl
@[simp] theorem die_setTile_tdisp (d : Die) (t : Nat) (x : Tile) : (d.setTile t x).tdisp = d.tdisp := rfl
@[simp] theorem die_setTile_beats (d : Die) (t : Nat) (x : Tile) : (d.setTile t x).beats = d.beats := rfl
@[simp] theorem die_setTile_beatAt (d : Die) (t : Nat) (x : Tile) : (d.setTile t x).beatAt = d.beatAt := rfl
@[simp] theorem die_setTile_starve1 (d : Die) (t : Nat) (x : Tile) : (d.setTile t x).starve1 = d.starve1 := rfl
@[simp] theorem die_setTile_starve2 (d : Die) (t : Nat) (x : Tile) : (d.setTile t x).starve2 = d.starve2 := rfl
@[simp] theorem die_setTile_bookings (d : Die) (t : Nat) (x : Tile) : (d.setTile t x).bookings = d.bookings := rfl

/-! ### `Die.setPart` -/

@[simp] theorem die_setPart_tiles (d : Die) (q : Nat) (x : Part) : (d.setPart q x).tiles = d.tiles := rfl
@[simp] theorem die_setPart_dram (d : Die) (q : Nat) (x : Part) : (d.setPart q x).dram = d.dram := rfl
@[simp] theorem die_setPart_sram (d : Die) (q : Nat) (x : Part) : (d.setPart q x).sram = d.sram := rfl
@[simp] theorem die_setPart_dmeta (d : Die) (q : Nat) (x : Part) : (d.setPart q x).dmeta = d.dmeta := rfl
@[simp] theorem die_setPart_smeta (d : Die) (q : Nat) (x : Part) : (d.setPart q x).smeta = d.smeta := rfl
@[simp] theorem die_setPart_copies (d : Die) (q : Nat) (x : Part) : (d.setPart q x).copies = d.copies := rfl
@[simp] theorem die_setPart_sync (d : Die) (q : Nat) (x : Part) : (d.setPart q x).sync = d.sync := rfl
@[simp] theorem die_setPart_groups (d : Die) (q : Nat) (x : Part) : (d.setPart q x).groups = d.groups := rfl
@[simp] theorem die_setPart_vfroot (d : Die) (q : Nat) (x : Part) : (d.setPart q x).vfroot = d.vfroot := rfl
@[simp] theorem die_setPart_migpool (d : Die) (q : Nat) (x : Part) : (d.setPart q x).migpool = d.migpool := rfl
@[simp] theorem die_setPart_migCnt (d : Die) (q : Nat) (x : Part) : (d.setPart q x).migCnt = d.migCnt := rfl
@[simp] theorem die_setPart_tlb (d : Die) (q : Nat) (x : Part) : (d.setPart q x).tlb = d.tlb := rfl
@[simp] theorem die_setPart_migDue (d : Die) (q : Nat) (x : Part) : (d.setPart q x).migDue = d.migDue := rfl
@[simp] theorem die_setPart_holdCnt (d : Die) (q : Nat) (x : Part) : (d.setPart q x).holdCnt = d.holdCnt := rfl
@[simp] theorem die_setPart_keys (d : Die) (q : Nat) (x : Part) : (d.setPart q x).keys = d.keys := rfl
@[simp] theorem die_setPart_slots (d : Die) (q : Nat) (x : Part) : (d.setPart q x).slots = d.slots := rfl
@[simp] theorem die_setPart_slotAge (d : Die) (q : Nat) (x : Part) : (d.setPart q x).slotAge = d.slotAge := rfl
@[simp] theorem die_setPart_smq (d : Die) (q : Nat) (x : Part) : (d.setPart q x).smq = d.smq := rfl
@[simp] theorem die_setPart_fwd (d : Die) (q : Nat) (x : Part) : (d.setPart q x).fwd = d.fwd := rfl
@[simp] theorem die_setPart_claims (d : Die) (q : Nat) (x : Part) : (d.setPart q x).claims = d.claims := rfl
@[simp] theorem die_setPart_holds (d : Die) (q : Nat) (x : Part) : (d.setPart q x).holds = d.holds := rfl
@[simp] theorem die_setPart_stubs (d : Die) (q : Nat) (x : Part) : (d.setPart q x).stubs = d.stubs := rfl
@[simp] theorem die_setPart_reqs (d : Die) (q : Nat) (x : Part) : (d.setPart q x).reqs = d.reqs := rfl
@[simp] theorem die_setPart_nextTag (d : Die) (q : Nat) (x : Part) : (d.setPart q x).nextTag = d.nextTag := rfl
@[simp] theorem die_setPart_chdc (d : Die) (q : Nat) (x : Part) : (d.setPart q x).chdc = d.chdc := rfl
@[simp] theorem die_setPart_chdu (d : Die) (q : Nat) (x : Part) : (d.setPart q x).chdu = d.chdu := rfl
@[simp] theorem die_setPart_chsc (d : Die) (q : Nat) (x : Part) : (d.setPart q x).chsc = d.chsc := rfl
@[simp] theorem die_setPart_chsu (d : Die) (q : Nat) (x : Part) : (d.setPart q x).chsu = d.chsu := rfl
@[simp] theorem die_setPart_chfl (d : Die) (q : Nat) (x : Part) : (d.setPart q x).chfl = d.chfl := rfl
@[simp] theorem die_setPart_chfd (d : Die) (q : Nat) (x : Part) : (d.setPart q x).chfd = d.chfd := rfl
@[simp] theorem die_setPart_chst (d : Die) (q : Nat) (x : Part) : (d.setPart q x).chst = d.chst := rfl
@[simp] theorem die_setPart_chrq (d : Die) (q : Nat) (x : Part) : (d.setPart q x).chrq = d.chrq := rfl
@[simp] theorem die_setPart_windows (d : Die) (q : Nat) (x : Part) : (d.setPart q x).windows = d.windows := rfl
@[simp] theorem die_setPart_launchDue (d : Die) (q : Nat) (x : Part) : (d.setPart q x).launchDue = d.launchDue := rfl
@[simp] theorem die_setPart_launches (d : Die) (q : Nat) (x : Part) : (d.setPart q x).launches = d.launches := rfl
@[simp] theorem die_setPart_launchAge (d : Die) (q : Nat) (x : Part) : (d.setPart q x).launchAge = d.launchAge := rfl
@[simp] theorem die_setPart_periodAt (d : Die) (q : Nat) (x : Part) : (d.setPart q x).periodAt = d.periodAt := rfl
@[simp] theorem die_setPart_rebindAt (d : Die) (q : Nat) (x : Part) : (d.setPart q x).rebindAt = d.rebindAt := rfl
@[simp] theorem die_setPart_ops (d : Die) (q : Nat) (x : Part) : (d.setPart q x).ops = d.ops := rfl
@[simp] theorem die_setPart_askCur (d : Die) (q : Nat) (x : Part) : (d.setPart q x).askCur = d.askCur := rfl
@[simp] theorem die_setPart_inForce (d : Die) (q : Nat) (x : Part) : (d.setPart q x).inForce = d.inForce := rfl
@[simp] theorem die_setPart_rules (d : Die) (q : Nat) (x : Part) : (d.setPart q x).rules = d.rules := rfl
@[simp] theorem die_setPart_kvq (d : Die) (q : Nat) (x : Part) : (d.setPart q x).kvq = d.kvq := rfl
@[simp] theorem die_setPart_swb (d : Die) (q : Nat) (x : Part) : (d.setPart q x).swb = d.swb := rfl
@[simp] theorem die_setPart_swn (d : Die) (q : Nat) (x : Part) : (d.setPart q x).swn = d.swn := rfl
@[simp] theorem die_setPart_swap (d : Die) (q : Nat) (x : Part) : (d.setPart q x).swap = d.swap := rfl
@[simp] theorem die_setPart_swapBad (d : Die) (q : Nat) (x : Part) : (d.setPart q x).swapBad = d.swapBad := rfl
@[simp] theorem die_setPart_swaps (d : Die) (q : Nat) (x : Part) : (d.setPart q x).swaps = d.swaps := rfl
@[simp] theorem die_setPart_mch (d : Die) (q : Nat) (x : Part) : (d.setPart q x).mch = d.mch := rfl
@[simp] theorem die_setPart_fredN (d : Die) (q : Nat) (x : Part) : (d.setPart q x).fredN = d.fredN := rfl
@[simp] theorem die_setPart_freds (d : Die) (q : Nat) (x : Part) : (d.setPart q x).freds = d.freds := rfl
@[simp] theorem die_setPart_netwin (d : Die) (q : Nat) (x : Part) : (d.setPart q x).netwin = d.netwin := rfl
@[simp] theorem die_setPart_rx (d : Die) (q : Nat) (x : Part) : (d.setPart q x).rx = d.rx := rfl
@[simp] theorem die_setPart_rxDone (d : Die) (q : Nat) (x : Part) : (d.setPart q x).rxDone = d.rxDone := rfl
@[simp] theorem die_setPart_keepAt (d : Die) (q : Nat) (x : Part) : (d.setPart q x).keepAt = d.keepAt := rfl
@[simp] theorem die_setPart_resends (d : Die) (q : Nat) (x : Part) : (d.setPart q x).resends = d.resends := rfl
@[simp] theorem die_setPart_deficit (d : Die) (q : Nat) (x : Part) : (d.setPart q x).deficit = d.deficit := rfl
@[simp] theorem die_setPart_power (d : Die) (q : Nat) (x : Part) : (d.setPart q x).power = d.power := rfl
@[simp] theorem die_setPart_tdisp (d : Die) (q : Nat) (x : Part) : (d.setPart q x).tdisp = d.tdisp := rfl
@[simp] theorem die_setPart_beats (d : Die) (q : Nat) (x : Part) : (d.setPart q x).beats = d.beats := rfl
@[simp] theorem die_setPart_beatAt (d : Die) (q : Nat) (x : Part) : (d.setPart q x).beatAt = d.beatAt := rfl
@[simp] theorem die_setPart_starve1 (d : Die) (q : Nat) (x : Part) : (d.setPart q x).starve1 = d.starve1 := rfl
@[simp] theorem die_setPart_starve2 (d : Die) (q : Nat) (x : Part) : (d.setPart q x).starve2 = d.starve2 := rfl
@[simp] theorem die_setPart_bookings (d : Die) (q : Nat) (x : Part) : (d.setPart q x).bookings = d.bookings := rfl

/-! ### `Tile.setCtx` -/

@[simp] theorem tile_setCtx_ctrs (y : Tile) (c : Nat) (x : Ctx) : (y.setCtx c x).ctrs = y.ctrs := rfl
@[simp] theorem tile_setCtx_bufs (y : Tile) (c : Nat) (x : Ctx) : (y.setCtx c x).bufs = y.bufs := rfl
@[simp] theorem tile_setCtx_dict (y : Tile) (c : Nat) (x : Ctx) : (y.setCtx c x).dict = y.dict := rfl
@[simp] theorem tile_setCtx_dictN (y : Tile) (c : Nat) (x : Ctx) : (y.setCtx c x).dictN = y.dictN := rfl
@[simp] theorem tile_setCtx_sbs (y : Tile) (c : Nat) (x : Ctx) : (y.setCtx c x).sbs = y.sbs := rfl
@[simp] theorem tile_setCtx_scr (y : Tile) (c : Nat) (x : Ctx) : (y.setCtx c x).scr = y.scr := rfl
@[simp] theorem tile_setCtx_lines (y : Tile) (c : Nat) (x : Ctx) : (y.setCtx c x).lines = y.lines := rfl
@[simp] theorem tile_setCtx_accs (y : Tile) (c : Nat) (x : Ctx) : (y.setCtx c x).accs = y.accs := rfl
@[simp] theorem tile_setCtx_planes (y : Tile) (c : Nat) (x : Ctx) : (y.setCtx c x).planes = y.planes := rfl
@[simp] theorem tile_setCtx_pmap (y : Tile) (c : Nat) (x : Ctx) : (y.setCtx c x).pmap = y.pmap := rfl
@[simp] theorem tile_setCtx_nests (y : Tile) (c : Nat) (x : Ctx) : (y.setCtx c x).nests = y.nests := rfl
@[simp] theorem tile_setCtx_dtab (y : Tile) (c : Nat) (x : Ctx) : (y.setCtx c x).dtab = y.dtab := rfl
@[simp] theorem tile_setCtx_dtabOk (y : Tile) (c : Nat) (x : Ctx) : (y.setCtx c x).dtabOk = y.dtabOk := rfl
@[simp] theorem tile_setCtx_frec (y : Tile) (c : Nat) (x : Ctx) : (y.setCtx c x).frec = y.frec := rfl
@[simp] theorem tile_setCtx_cmds (y : Tile) (c : Nat) (x : Ctx) : (y.setCtx c x).cmds = y.cmds := rfl
@[simp] theorem tile_setCtx_seq (y : Tile) (c : Nat) (x : Ctx) : (y.setCtx c x).seq = y.seq := rfl
@[simp] theorem tile_setCtx_handlers (y : Tile) (c : Nat) (x : Ctx) : (y.setCtx c x).handlers = y.handlers := rfl
@[simp] theorem tile_setCtx_pipes (y : Tile) (c : Nat) (x : Ctx) : (y.setCtx c x).pipes = y.pipes := rfl
@[simp] theorem tile_setCtx_bound (y : Tile) (c : Nat) (x : Ctx) : (y.setCtx c x).bound = y.bound := rfl
@[simp] theorem tile_setCtx_lastVf (y : Tile) (c : Nat) (x : Ctx) : (y.setCtx c x).lastVf = y.lastVf := rfl
@[simp] theorem tile_setCtx_chaffs (y : Tile) (c : Nat) (x : Ctx) : (y.setCtx c x).chaffs = y.chaffs := rfl
@[simp] theorem tile_setCtx_chaffc (y : Tile) (c : Nat) (x : Ctx) : (y.setCtx c x).chaffc = y.chaffc := rfl
@[simp] theorem tile_setCtx_chafft (y : Tile) (c : Nat) (x : Ctx) : (y.setCtx c x).chafft = y.chafft := rfl
@[simp] theorem tile_setCtx_utlb (y : Tile) (c : Nat) (x : Ctx) : (y.setCtx c x).utlb = y.utlb := rfl
@[simp] theorem tile_setCtx_failed (y : Tile) (c : Nat) (x : Ctx) : (y.setCtx c x).failed = y.failed := rfl
@[simp] theorem tile_setCtx_evac (y : Tile) (c : Nat) (x : Ctx) : (y.setCtx c x).evac = y.evac := rfl
@[simp] theorem tile_setCtx_spare (y : Tile) (c : Nat) (x : Ctx) : (y.setCtx c x).spare = y.spare := rfl
@[simp] theorem tile_setCtx_enqr (y : Tile) (c : Nat) (x : Ctx) : (y.setCtx c x).enqr = y.enqr := rfl
@[simp] theorem tile_setCtx_lastAcc (y : Tile) (c : Nat) (x : Ctx) : (y.setCtx c x).lastAcc = y.lastAcc := rfl
@[simp] theorem tile_setCtx_lastExe (y : Tile) (c : Nat) (x : Ctx) : (y.setCtx c x).lastExe = y.lastExe := rfl
@[simp] theorem tile_setCtx_tried (y : Tile) (c : Nat) (x : Ctx) : (y.setCtx c x).tried = y.tried := rfl
@[simp] theorem tile_setCtx_issAcc (y : Tile) (c : Nat) (x : Ctx) : (y.setCtx c x).issAcc = y.issAcc := rfl
@[simp] theorem tile_setCtx_issExe (y : Tile) (c : Nat) (x : Ctx) : (y.setCtx c x).issExe = y.issExe := rfl
@[simp] theorem tile_setCtx_usedBufs (y : Tile) (c : Nat) (x : Ctx) : (y.setCtx c x).usedBufs = y.usedBufs := rfl
@[simp] theorem tile_setCtx_cyc (y : Tile) (c : Nat) (x : Ctx) : (y.setCtx c x).cyc = y.cyc := rfl
@[simp] theorem tile_setCtx_setcs (y : Tile) (c : Nat) (x : Ctx) : (y.setCtx c x).setcs = y.setcs := rfl
@[simp] theorem tile_setCtx_closed (y : Tile) (c : Nat) (x : Ctx) : (y.setCtx c x).closed = y.closed := rfl
@[simp] theorem tile_setCtx_noBind (y : Tile) (c : Nat) (x : Ctx) : (y.setCtx c x).noBind = y.noBind := rfl

/-! ### `Ctx.setQueue` -/

@[simp] theorem ctx_setQueue_acc (c : Ctx) (q : Nat) (x : Queue) : (c.setQueue q x).acc = c.acc := rfl
@[simp] theorem ctx_setQueue_exe (c : Ctx) (q : Nat) (x : Queue) : (c.setQueue q x).exe = c.exe := rfl
@[simp] theorem ctx_setQueue_v (c : Ctx) (q : Nat) (x : Queue) : (c.setQueue q x).v = c.v := rfl
@[simp] theorem ctx_setQueue_p (c : Ctx) (q : Nat) (x : Queue) : (c.setQueue q x).p = c.p := rfl
@[simp] theorem ctx_setQueue_vshape (c : Ctx) (q : Nat) (x : Queue) : (c.setQueue q x).vshape = c.vshape := rfl
@[simp] theorem ctx_setQueue_lctl (c : Ctx) (q : Nat) (x : Queue) : (c.setQueue q x).lctl = c.lctl := rfl
@[simp] theorem ctx_setQueue_srseed (c : Ctx) (q : Nat) (x : Queue) : (c.setQueue q x).srseed = c.srseed := rfl
@[simp] theorem ctx_setQueue_lparam (c : Ctx) (q : Nat) (x : Queue) : (c.setQueue q x).lparam = c.lparam := rfl
@[simp] theorem ctx_setQueue_sbind (c : Ctx) (q : Nat) (x : Queue) : (c.setQueue q x).sbind = c.sbind := rfl
@[simp] theorem ctx_setQueue_waitto (c : Ctx) (q : Nat) (x : Queue) : (c.setQueue q x).waitto = c.waitto := rfl
@[simp] theorem ctx_setQueue_inflight (c : Ctx) (q : Nat) (x : Queue) : (c.setQueue q x).inflight = c.inflight := rfl
@[simp] theorem ctx_setQueue_snapshot (c : Ctx) (q : Nat) (x : Queue) : (c.setQueue q x).snapshot = c.snapshot := rfl
@[simp] theorem ctx_setQueue_snapOwed (c : Ctx) (q : Nat) (x : Queue) : (c.setQueue q x).snapOwed = c.snapOwed := rfl
@[simp] theorem ctx_setQueue_owed (c : Ctx) (q : Nat) (x : Queue) : (c.setQueue q x).owed = c.owed := rfl
@[simp] theorem ctx_setQueue_status (c : Ctx) (q : Nat) (x : Queue) : (c.setQueue q x).status = c.status := rfl
@[simp] theorem ctx_setQueue_grant (c : Ctx) (q : Nat) (x : Queue) : (c.setQueue q x).grant = c.grant := rfl
@[simp] theorem ctx_setQueue_grantWait (c : Ctx) (q : Nat) (x : Queue) : (c.setQueue q x).grantWait = c.grantWait := rfl
@[simp] theorem ctx_setQueue_smarg (c : Ctx) (q : Nat) (x : Queue) : (c.setQueue q x).smarg = c.smarg := rfl
@[simp] theorem ctx_setQueue_smres (c : Ctx) (q : Nat) (x : Queue) : (c.setQueue q x).smres = c.smres := rfl
@[simp] theorem ctx_setQueue_mgarg (c : Ctx) (q : Nat) (x : Queue) : (c.setQueue q x).mgarg = c.mgarg := rfl
@[simp] theorem ctx_setQueue_mgres (c : Ctx) (q : Nat) (x : Queue) : (c.setQueue q x).mgres = c.mgres := rfl
@[simp] theorem ctx_setQueue_op (c : Ctx) (q : Nat) (x : Queue) : (c.setQueue q x).op = c.op := rfl
@[simp] theorem ctx_setQueue_stage (c : Ctx) (q : Nat) (x : Queue) : (c.setQueue q x).stage = c.stage := rfl
@[simp] theorem ctx_setQueue_vf (c : Ctx) (q : Nat) (x : Queue) : (c.setQueue q x).vf = c.vf := rfl
@[simp] theorem ctx_setQueue_part (c : Ctx) (q : Nat) (x : Queue) : (c.setQueue q x).part = c.part := rfl
@[simp] theorem ctx_setQueue_release (c : Ctx) (q : Nat) (x : Queue) : (c.setQueue q x).release = c.release := rfl
@[simp] theorem ctx_setQueue_workDone (c : Ctx) (q : Nat) (x : Queue) : (c.setQueue q x).workDone = c.workDone := rfl
@[simp] theorem ctx_setQueue_stopCause (c : Ctx) (q : Nat) (x : Queue) : (c.setQueue q x).stopCause = c.stopCause := rfl
@[simp] theorem ctx_setQueue_stalled (c : Ctx) (q : Nat) (x : Queue) : (c.setQueue q x).stalled = c.stalled := rfl
@[simp] theorem ctx_setQueue_replay (c : Ctx) (q : Nat) (x : Queue) : (c.setQueue q x).replay = c.replay := rfl
@[simp] theorem ctx_setQueue_resuming (c : Ctx) (q : Nat) (x : Queue) : (c.setQueue q x).resuming = c.resuming := rfl

/-! ### `Ctx.setStream` -/

@[simp] theorem ctx_setStream_v (c : Ctx) (e : Bool) (x : Stream) : (c.setStream e x).v = c.v := by cases e <;> rfl
@[simp] theorem ctx_setStream_p (c : Ctx) (e : Bool) (x : Stream) : (c.setStream e x).p = c.p := by cases e <;> rfl
@[simp] theorem ctx_setStream_vshape (c : Ctx) (e : Bool) (x : Stream) : (c.setStream e x).vshape = c.vshape := by cases e <;> rfl
@[simp] theorem ctx_setStream_lctl (c : Ctx) (e : Bool) (x : Stream) : (c.setStream e x).lctl = c.lctl := by cases e <;> rfl
@[simp] theorem ctx_setStream_srseed (c : Ctx) (e : Bool) (x : Stream) : (c.setStream e x).srseed = c.srseed := by cases e <;> rfl
@[simp] theorem ctx_setStream_lparam (c : Ctx) (e : Bool) (x : Stream) : (c.setStream e x).lparam = c.lparam := by cases e <;> rfl
@[simp] theorem ctx_setStream_sbind (c : Ctx) (e : Bool) (x : Stream) : (c.setStream e x).sbind = c.sbind := by cases e <;> rfl
@[simp] theorem ctx_setStream_waitto (c : Ctx) (e : Bool) (x : Stream) : (c.setStream e x).waitto = c.waitto := by cases e <;> rfl
@[simp] theorem ctx_setStream_queues (c : Ctx) (e : Bool) (x : Stream) : (c.setStream e x).queues = c.queues := by cases e <;> rfl
@[simp] theorem ctx_setStream_inflight (c : Ctx) (e : Bool) (x : Stream) : (c.setStream e x).inflight = c.inflight := by cases e <;> rfl
@[simp] theorem ctx_setStream_snapshot (c : Ctx) (e : Bool) (x : Stream) : (c.setStream e x).snapshot = c.snapshot := by cases e <;> rfl
@[simp] theorem ctx_setStream_snapOwed (c : Ctx) (e : Bool) (x : Stream) : (c.setStream e x).snapOwed = c.snapOwed := by cases e <;> rfl
@[simp] theorem ctx_setStream_owed (c : Ctx) (e : Bool) (x : Stream) : (c.setStream e x).owed = c.owed := by cases e <;> rfl
@[simp] theorem ctx_setStream_status (c : Ctx) (e : Bool) (x : Stream) : (c.setStream e x).status = c.status := by cases e <;> rfl
@[simp] theorem ctx_setStream_grant (c : Ctx) (e : Bool) (x : Stream) : (c.setStream e x).grant = c.grant := by cases e <;> rfl
@[simp] theorem ctx_setStream_grantWait (c : Ctx) (e : Bool) (x : Stream) : (c.setStream e x).grantWait = c.grantWait := by cases e <;> rfl
@[simp] theorem ctx_setStream_smarg (c : Ctx) (e : Bool) (x : Stream) : (c.setStream e x).smarg = c.smarg := by cases e <;> rfl
@[simp] theorem ctx_setStream_smres (c : Ctx) (e : Bool) (x : Stream) : (c.setStream e x).smres = c.smres := by cases e <;> rfl
@[simp] theorem ctx_setStream_mgarg (c : Ctx) (e : Bool) (x : Stream) : (c.setStream e x).mgarg = c.mgarg := by cases e <;> rfl
@[simp] theorem ctx_setStream_mgres (c : Ctx) (e : Bool) (x : Stream) : (c.setStream e x).mgres = c.mgres := by cases e <;> rfl
@[simp] theorem ctx_setStream_op (c : Ctx) (e : Bool) (x : Stream) : (c.setStream e x).op = c.op := by cases e <;> rfl
@[simp] theorem ctx_setStream_stage (c : Ctx) (e : Bool) (x : Stream) : (c.setStream e x).stage = c.stage := by cases e <;> rfl
@[simp] theorem ctx_setStream_vf (c : Ctx) (e : Bool) (x : Stream) : (c.setStream e x).vf = c.vf := by cases e <;> rfl
@[simp] theorem ctx_setStream_part (c : Ctx) (e : Bool) (x : Stream) : (c.setStream e x).part = c.part := by cases e <;> rfl
@[simp] theorem ctx_setStream_release (c : Ctx) (e : Bool) (x : Stream) : (c.setStream e x).release = c.release := by cases e <;> rfl
@[simp] theorem ctx_setStream_workDone (c : Ctx) (e : Bool) (x : Stream) : (c.setStream e x).workDone = c.workDone := by cases e <;> rfl
@[simp] theorem ctx_setStream_stopCause (c : Ctx) (e : Bool) (x : Stream) : (c.setStream e x).stopCause = c.stopCause := by cases e <;> rfl
@[simp] theorem ctx_setStream_stalled (c : Ctx) (e : Bool) (x : Stream) : (c.setStream e x).stalled = c.stalled := by cases e <;> rfl
@[simp] theorem ctx_setStream_replay (c : Ctx) (e : Bool) (x : Stream) : (c.setStream e x).replay = c.replay := by cases e <;> rfl
@[simp] theorem ctx_setStream_resuming (c : Ctx) (e : Bool) (x : Stream) : (c.setStream e x).resuming = c.resuming := by cases e <;> rfl

@[simp] theorem stream_setStream_same (c : Ctx) (e : Bool) (x : Stream) : (c.setStream e x).stream e = x := by cases e <;> rfl
@[simp] theorem stream_setStream_other (c : Ctx) (e : Bool) (x : Stream) : (c.setStream e x).stream (!e) = c.stream (!e) := by
  cases e <;> rfl
@[simp] theorem setStream_stream (c : Ctx) (e : Bool) : c.setStream e (c.stream e) = c := by cases e <;> rfl
@[simp] theorem setStream_setStream (c : Ctx) (e : Bool) (x y : Stream) : (c.setStream e x).setStream e y = c.setStream e y := by
  cases e <;> rfl

/-! ### Reading back what has been set -/

@[simp] theorem die_setDie (s : State) (p : Nat) (d : Die) : (s.setDie p d).die p = d := get_put_same _ _ _ _
theorem die_setDie_other (s : State) {p q : Nat} (d : Die) (h : p ≠ q) : (s.setDie p d).die q = s.die q := get_put_other _ _ _ h
@[simp] theorem setDie_setDie (s : State) (p : Nat) (d e : Die) : (s.setDie p d).setDie p e = s.setDie p e := by
  simp only [State.setDie, put_put]
@[simp] theorem tile_dieSetTile (d : Die) (t : Nat) (x : Tile) : (d.setTile t x).tile t = x := get_put_same _ _ _ _
theorem tile_dieSetTile_other (d : Die) {t u : Nat} (x : Tile) (h : t ≠ u) : (d.setTile t x).tile u = d.tile u :=
  get_put_other _ _ _ h
@[simp] theorem dieSetTile_setTile (d : Die) (t : Nat) (x y : Tile) : (d.setTile t x).setTile t y = d.setTile t y := by
  simp only [Die.setTile, put_put]
@[simp] theorem tile_setTile (s : State) (p t : Nat) (x : Tile) : (s.setTile p t x).tile p t = x := by
  simp [State.setTile, State.tile]
@[simp] theorem setTile_setTile (s : State) (p t : Nat) (x y : Tile) : (s.setTile p t x).setTile p t y = s.setTile p t y := by
  simp [State.setTile]
@[simp] theorem ctx_tileSetCtx (y : Tile) (c : Nat) (x : Ctx) : (y.setCtx c x).ctx c = x := get_put_same _ _ _ _
theorem ctx_tileSetCtx_other (y : Tile) {c d : Nat} (x : Ctx) (h : c ≠ d) : (y.setCtx c x).ctx d = y.ctx d := get_put_other _ _ _ h
@[simp] theorem tileSetCtx_setCtx (y : Tile) (c : Nat) (x z : Ctx) : (y.setCtx c x).setCtx c z = y.setCtx c z := by
  simp only [Tile.setCtx, put_put]
@[simp] theorem ctx_setCtx (s : State) (p t c : Nat) (x : Ctx) : (s.setCtx p t c x).ctx p t c = x := by
  simp [State.setCtx, State.ctx]
@[simp] theorem setCtx_setCtx (s : State) (p t c : Nat) (x y : Ctx) : (s.setCtx p t c x).setCtx p t c y = s.setCtx p t c y := by
  simp [State.setCtx]
@[simp] theorem tile_setCtx (s : State) (p t c : Nat) (x : Ctx) : (s.setCtx p t c x).tile p t = (s.tile p t).setCtx c x := by
  simp [State.setCtx]
@[simp] theorem myTile_setMyTile (s : State) (x : Tile) : (s.setMyTile x).myTile = x := by
  simp [State.setMyTile, State.myTile]
@[simp] theorem myCtx_setMyCtx (s : State) (x : Ctx) : (s.setMyCtx x).myCtx = x := by simp [State.setMyCtx, State.myCtx]
@[simp] theorem setMyCtx_setMyCtx (s : State) (x y : Ctx) : (s.setMyCtx x).setMyCtx y = s.setMyCtx y := by
  simp [State.setMyCtx]
@[simp] theorem myTile_setMyCtx (s : State) (x : Ctx) : (s.setMyCtx x).myTile = s.myTile.setCtx s.iss.ctx x := by
  simp [State.setMyCtx, State.myTile]
@[simp] theorem myCtx_setMe (s : State) (x : Stream) : (s.setMe x).myCtx = s.myCtx.setStream s.iss.exe x := by
  simp [State.setMe]
@[simp] theorem me_setMe (s : State) (x : Stream) : (s.setMe x).me = x := by simp [State.me]
@[simp] theorem setMe_setMe (s : State) (x y : Stream) : (s.setMe x).setMe y = s.setMe y := by
  rw [State.setMe, myCtx_setMe, setMe_iss, setStream_setStream, State.setMe, setMyCtx_setMyCtx]; rfl
@[simp] theorem me_pend (s : State) (w : Write) (h : Option (Bool × Word)) (n : Nat) : (s.pend w h n).me = s.me := by
  simp [State.me, State.pend]; rfl
@[simp] theorem inflight_pend (s : State) (w : Write) (h : Option (Bool × Word)) (n : Nat) :
    (s.pend w h n).myCtx.inflight =
      s.myCtx.inflight ++ [{ exe := s.iss.exe, w := w, shift := h, left := n, soon := n == 1 }] := by
  simp [State.pend]

end Sys2Proof.Laws
end

