-- ==== Sys2Proof/Laws/Ops.lean ====
section
/-! SUPPORT. The shared operations, one lemma each for what it can do: how an instruction ends, events, results put in
flight, the queues, and the engine forms. -/

namespace Sys2Proof.Laws

open Sys2Proof Sys2Proof.Machine

/-! ### How an instruction ends -/

/-- A ready instruction comes to what its meaning gives. -/
theorem issue_ready {i : Instr} {s : State} (h : Ready i s) (r : R State) : issue i s r = finish s r := by
  obtain ⟨h1, h2, h3, -⟩ := h
  simp [issue, h1, h2, h3]

/-- Without power nothing is issued. -/
theorem issue_unpowered {i : Instr} {s : State} (h : s.powered = false) (r : R State) : issue i s r = .fault .unpowered := by
  simp [issue, h]

/-- Every ending of an instruction but for the lack of power is a next state. -/
theorem issue_next {i : Instr} {s : State} (h : s.powered = true) (r : R State) : ∃ t, issue i s r = .next t := by
  have hf : ∀ q : R State, ∃ t, finish s q = .next t := by
    intro q
    match q with
    | .ok t => simp only [finish]; split <;> exact ⟨_, rfl⟩
    | .error (.trap _ _ _ _) => exact ⟨_, rfl⟩
    | .error (.deferred _ _) => exact ⟨_, rfl⟩
    | .error (.wait _ _ _) => exact ⟨_, rfl⟩
    | .error .stall => exact ⟨_, rfl⟩
  unfold issue
  simp only [h, Bool.not_true, Bool.false_eq_true, if_false]
  split <;> exact hf _

theorem finish_ok {s t : State} (h : overFull s t = false) : finish s (.ok t) = .next t.complete := by
  simp [finish, h, State.complete]

/-- A precise trap but for `SOFT_TRAP` (R263). -/
theorem finish_trap (s t : State) {cause : Nat} (addr : Word) (h : cause ≠ cSOFT_TRAP) :
    finish s (.error (.trap cause addr 0 t)) = .next (s.trapped t cause addr) := by
  simp [finish, State.trapped, h]

theorem count_setMe (s : State) (x : Stream) (h : x.gload = s.me.gload) : (s.setMe x).myCtx.count = s.myCtx.count := by
  rw [myCtx_setMe, Ctx.count, Ctx.count, ctx_setStream_inflight]
  simp only [State.me] at h
  cases he : s.iss.exe <;> simp [Ctx.setStream, Ctx.stream, he] at h ⊢ <;> rw [h]

theorem count_pend (s : State) (w : Write) (h : Option (Bool × Word)) (n : Nat) :
    (s.pend w h n).myCtx.count = s.myCtx.count + 1 := by
  simp [State.pend, Ctx.count]; omega

theorem overFull_of_count {s t : State} (h : t.myCtx.count ≤ s.myCtx.count) : overFull s t = false := by
  simp only [overFull, Bool.and_eq_false_iff, decide_eq_false_iff_not]; omega

theorem overFull_of_le {s t : State} (h : t.myCtx.count ≤ 64) : overFull s t = false := by
  simp only [overFull, Bool.and_eq_false_iff, decide_eq_false_iff_not]; omega

/-- One more result than before a ready instruction fits (R253). -/
theorem overFull_pend {i : Instr} {s u : State} (hs : Ready i s) (hu : u.myCtx.count = s.myCtx.count) (w : Write)
    (h : Option (Bool × Word)) (n : Nat) : overFull s (u.pend w h n) = false := by
  have := hs.2.2.2
  exact overFull_of_le (by rw [count_pend]; omega)

/-! ### Events -/

theorem event_next {s t u : State} : event s t = .next u ↔ s.powered = true ∧ t = u := by
  unfold event
  cases s.powered <;> simp

theorem event_powered {s : State} (h : s.powered = true) (t : State) : event s t = .next t := by simp [event, h]

/-! ### The queues -/

theorem push_ok (s : State) {q : Nat} (e : QEntry) (h : (s.myCtx.queue q).taken < queueDepth q) :
    s.push q e = .ok (s.setMyCtx (s.myCtx.setQueue q { s.myCtx.queue q with
      entries := (s.myCtx.queue q).entries ++ [{ e with age := 5 }] })) := by
  simp [State.push, Nat.not_le.mpr h]

theorem push_full (s : State) {q : Nat} (e : QEntry) (h : queueDepth q ≤ (s.myCtx.queue q).taken) :
    s.push q e = .error (.wait .poll true s) := by simp [State.push, h]

theorem pop_ok (s : State) {q : Nat} {e : QEntry} {es : List QEntry} (h : (s.myCtx.queue q).entries = e :: es)
    (hp : e.present = true) (hg : e.poison = false) :
    s.pop q = .ok (e.val, s.setMyCtx (s.myCtx.setQueue q
      { entries := es, freeing := (s.myCtx.queue q).freeing ++ [5] })) := by
  simp [State.pop, h, hp, hg]

/-! ### Withdrawing a wait leaves every tile -/

theorem withdrawKind_tile (s : State) (p t c : Nat) (e g : Bool) (k : WaitKind) (q u : Nat) :
    (s.withdrawKind p t c e g k).tile q u = s.tile q u := by
  have hm : ∀ (s : State) (r : Nat) (f : Die → Die), (∀ d, (f d).tiles = d.tiles) → (s.modDie r f).tile q u = s.tile q u := by
    intro s r f hf
    by_cases hr : r = q
    · subst hr; simp [State.modDie, State.tile, Die.tile, hf]
    · simp [State.modDie, State.tile, die_setDie_other _ _ hr]
  cases k <;> simp only [State.withdrawKind]
  case sync home obj _ =>
    refine (hm _ home _ ?_).trans rfl
    intro d; rfl
  case barrier gr =>
    split
    · rfl
    · exact hm _ _ _ (fun d => rfl)
  case current => exact hm _ _ _ (fun d => rfl)
  case edit => rfl
  case manager => exact hm _ _ _ (fun d => rfl)
  case pages tier => exact hm _ _ _ (fun d => rfl)

theorem unckpt_tile (s : State) (p t c q u : Nat) : (s.unckpt p t c).tile q u = s.tile q u := by
  unfold State.unckpt
  by_cases hr : p = q
  · subst hr; dsimp only; split <;> simp [State.modDie, State.tile, Die.tile, Die.setPart]
  · dsimp only; split <;> simp [State.modDie, State.tile, die_setDie_other _ _ hr]

theorem withdraw_tile (s : State) (p t c : Nat) (e : Bool) (q u : Nat) : (s.withdraw p t c e).tile q u = s.tile q u := by
  unfold State.withdraw
  split
  · exact unckpt_tile s p t c q u
  · next w _ =>
    suffices H : ∀ (l : List WaitKind) (s : State),
        (l.foldl (fun s k => s.withdrawKind p t c e true k) s).tile q u = s.tile q u by
      rw [unckpt_tile, H, withdrawKind_tile]
    intro l
    induction l with
    | nil => intro s; rfl
    | cons k l ih => intro s; rw [List.foldl_cons, ih, withdrawKind_tile]

end Sys2Proof.Laws
end

