-- ==== Sys2Proof/Laws/PerInstr.lean ====
section
/-! SUPPORT. For each instruction: a full word states its class, its opcode and a full word's bit 0 (R79, R89 to R96). -/

namespace Sys2Proof.Laws.Encoding

/-- A full word's class and opcode are those of the instruction, and bit 0 is 0. -/
def Statement (i : Instr) : Prop :=
  (opcode i).1 < 7 → isParcel i = false →
    bits (encodeWord i) 4 2 = (opcode i).1 ∧ bits (encodeWord i) 12 5 = (opcode i).2 ∧ bit (encodeWord i) 0 = false

theorem of_regF {i : Instr} {f : RegF} {c o : Nat} (hi : encodeWord i = f.toWord c o) (ho : opcode i = (c, o)) (hc : decide (c < 8) = true)
    (h2 : decide (o < 256) = true) : Statement i := fun _ _ => by
  have h := Laws.RegF.class_toWord f (of_decide_eq_true hc) (of_decide_eq_true h2)
  rw [hi, ho]; exact ⟨h.1, h.2.1, h.2.2.2⟩

theorem of_immF {i : Instr} {f : ImmF} {c o : Nat} (hi : encodeWord i = f.toWord c o) (ho : opcode i = (c, o)) (hc : decide (c < 8) = true)
    (h2 : decide (o < 256) = true) : Statement i := fun _ _ => by
  have h := Laws.ImmF.class_toWord f (of_decide_eq_true hc) (of_decide_eq_true h2)
  rw [hi, ho]; exact ⟨h.1, h.2.1, h.2.2.2⟩

theorem of_wideF {i : Instr} {f : WideF} {c o : Nat} (hi : encodeWord i = f.toWord c o) (ho : opcode i = (c, o)) (hc : decide (c < 8) = true)
    (h2 : decide (o < 256) = true) : Statement i := fun _ _ => by
  have h := Laws.WideF.class_toWord f (of_decide_eq_true hc) (of_decide_eq_true h2)
  rw [hi, ho]; exact ⟨h.1, h.2.1, h.2.2.2⟩

theorem of_memF {i : Instr} {f : MemF} {c o : Nat} (hi : encodeWord i = f.toWord c o) (ho : opcode i = (c, o)) (hc : decide (c < 8) = true)
    (h2 : decide (o < 256) = true) : Statement i := fun _ _ => by
  have h := Laws.MemF.class_toWord f (of_decide_eq_true hc) (of_decide_eq_true h2)
  rw [hi, ho]; exact ⟨h.1, h.2.1, h.2.2.2⟩

theorem of_engF {i : Instr} {f : EngF} {c o : Nat} (hi : encodeWord i = f.toWord c o) (ho : opcode i = (c, o)) (hc : decide (c < 8) = true)
    (h2 : decide (o < 256) = true) : Statement i := fun _ _ => by
  have h := Laws.EngF.class_toWord f (of_decide_eq_true hc) (of_decide_eq_true h2)
  rw [hi, ho]; exact ⟨h.1, h.2.1, h.2.2.2⟩

theorem nop (f : WideF) : Statement (.nop f) := of_wideF (f := f) rfl rfl rfl rfl
theorem nopShort (stop : Bool) (n : BitVec 4) : Statement (.nopShort stop n) := fun _ h => absurd h Bool.noConfusion
theorem rep (c : BitVec 6) (m : BitVec 4) (s : BitVec 2) : Statement (.rep c m s) := fun _ h => absurd h Bool.noConfusion
theorem dictionaryParcel (stop : Bool) (i : BitVec 10) : Statement (.dictionaryParcel stop i) := fun _ h => absurd h Bool.noConfusion
theorem add (f : RegF) : Statement (.add f) := of_regF (f := f) rfl rfl rfl rfl
theorem sub (f : RegF) : Statement (.sub f) := of_regF (f := f) rfl rfl rfl rfl
theorem mul (f : RegF) : Statement (.mul f) := of_regF (f := f) rfl rfl rfl rfl
theorem mulh (f : RegF) : Statement (.mulh f) := of_regF (f := f) rfl rfl rfl rfl
theorem mulhn (f : RegF) : Statement (.mulhn f) := of_regF (f := f) rfl rfl rfl rfl
theorem div (f : RegF) : Statement (.div f) := of_regF (f := f) rfl rfl rfl rfl
theorem divn (f : RegF) : Statement (.divn f) := of_regF (f := f) rfl rfl rfl rfl
theorem rem (f : RegF) : Statement (.rem f) := of_regF (f := f) rfl rfl rfl rfl
theorem remn (f : RegF) : Statement (.remn f) := of_regF (f := f) rfl rfl rfl rfl
theorem min (f : RegF) : Statement (.min f) := of_regF (f := f) rfl rfl rfl rfl
theorem max (f : RegF) : Statement (.max f) := of_regF (f := f) rfl rfl rfl rfl
theorem minn (f : RegF) : Statement (.minn f) := of_regF (f := f) rfl rfl rfl rfl
theorem maxn (f : RegF) : Statement (.maxn f) := of_regF (f := f) rfl rfl rfl rfl
theorem and (f : RegF) : Statement (.and f) := of_regF (f := f) rfl rfl rfl rfl
theorem or (f : RegF) : Statement (.or f) := of_regF (f := f) rfl rfl rfl rfl
theorem xor (f : RegF) : Statement (.xor f) := of_regF (f := f) rfl rfl rfl rfl
theorem shl (f : RegF) : Statement (.shl f) := of_regF (f := f) rfl rfl rfl rfl
theorem shr (f : RegF) : Statement (.shr f) := of_regF (f := f) rfl rfl rfl rfl
theorem sra (f : RegF) : Statement (.sra f) := of_regF (f := f) rfl rfl rfl rfl
theorem addx (f : RegF) : Statement (.addx f) := of_regF (f := f) rfl rfl rfl rfl
theorem sel (f : RegF) : Statement (.sel f) := of_regF (f := f) rfl rfl rfl rfl
theorem clz (f : RegF) : Statement (.clz f) := of_regF (f := f) rfl rfl rfl rfl
theorem ctz (f : RegF) : Statement (.ctz f) := of_regF (f := f) rfl rfl rfl rfl
theorem popc (f : RegF) : Statement (.popc f) := of_regF (f := f) rfl rfl rfl rfl
theorem addi (f : ImmF) : Statement (.addi f) := of_immF (f := f) rfl rfl rfl rfl
theorem andi (f : ImmF) : Statement (.andi f) := of_immF (f := f) rfl rfl rfl rfl
theorem ori (f : ImmF) : Statement (.ori f) := of_immF (f := f) rfl rfl rfl rfl
theorem xori (f : ImmF) : Statement (.xori f) := of_immF (f := f) rfl rfl rfl rfl
theorem shli (f : ImmF) : Statement (.shli f) := of_immF (f := f) rfl rfl rfl rfl
theorem shri (f : ImmF) : Statement (.shri f) := of_immF (f := f) rfl rfl rfl rfl
theorem srai (f : ImmF) : Statement (.srai f) := of_immF (f := f) rfl rfl rfl rfl
theorem bext (f : ImmF) : Statement (.bext f) := of_immF (f := f) rfl rfl rfl rfl
theorem bins (f : ImmF) : Statement (.bins f) := of_immF (f := f) rfl rfl rfl rfl
theorem movi (f : WideF) : Statement (.movi f) := of_wideF (f := f) rfl rfl rfl rfl
theorem movh (f : WideF) : Statement (.movh f) := of_wideF (f := f) rfl rfl rfl rfl
theorem cmp (f : RegF) : Statement (.cmp f) := of_regF (f := f) rfl rfl rfl rfl
theorem cmpi (f : ImmF) : Statement (.cmpi f) := of_immF (f := f) rfl rfl rfl rfl
theorem prep (f : WideF) : Statement (.prep f) := of_wideF (f := f) rfl rfl rfl rfl
theorem prepx (f : RegF) : Statement (.prepx f) := of_regF (f := f) rfl rfl rfl rfl
theorem br (f : RegF) : Statement (.br f) := of_regF (f := f) rfl rfl rfl rfl
theorem brf (f : RegF) : Statement (.brf f) := of_regF (f := f) rfl rfl rfl rfl
theorem jmp (f : RegF) : Statement (.jmp f) := of_regF (f := f) rfl rfl rfl rfl
theorem call (f : RegF) : Statement (.call f) := of_regF (f := f) rfl rfl rfl rfl
theorem ret (f : RegF) : Statement (.ret f) := of_regF (f := f) rfl rfl rfl rfl
theorem bqpop (f : RegF) : Statement (.bqpop f) := of_regF (f := f) rfl rfl rfl rfl
theorem loopset (f : ImmF) : Statement (.loopset f) := of_immF (f := f) rfl rfl rfl rfl
theorem brloop (f : RegF) : Statement (.brloop f) := of_regF (f := f) rfl rfl rfl rfl
theorem qpush (f : RegF) : Statement (.qpush f) := of_regF (f := f) rfl rfl rfl rfl
theorem qpop (f : RegF) : Statement (.qpop f) := of_regF (f := f) rfl rfl rfl rfl
theorem ld (f : MemF) : Statement (.ld f) := of_memF (f := f) rfl rfl rfl rfl
theorem st (f : MemF) : Statement (.st f) := of_memF (f := f) rfl rfl rfl rfl
theorem ldq (f : MemF) : Statement (.ldq f) := of_memF (f := f) rfl rfl rfl rfl
theorem vld (f : MemF) : Statement (.vld f) := of_memF (f := f) rfl rfl rfl rfl
theorem vst (f : MemF) : Statement (.vst f) := of_memF (f := f) rfl rfl rfl rfl
theorem atom (f : MemF) : Statement (.atom f) := of_memF (f := f) rfl rfl rfl rfl
theorem cas (f : MemF) : Statement (.cas f) := of_memF (f := f) rfl rfl rfl rfl
theorem atomf (f : MemF) : Statement (.atomf f) := of_memF (f := f) rfl rfl rfl rfl
theorem fence (f : ImmF) : Statement (.fence f) := of_immF (f := f) rfl rfl rfl rfl
theorem acq (f : ImmF) : Statement (.acq f) := of_immF (f := f) rfl rfl rfl rfl
theorem rel (f : ImmF) : Statement (.rel f) := of_immF (f := f) rfl rfl rfl rfl
theorem bind (f : RegF) : Statement (.bind f) := of_regF (f := f) rfl rfl rfl rfl
theorem unbind (f : RegF) : Statement (.unbind f) := of_regF (f := f) rfl rfl rfl rfl
theorem publish (f : ImmF) : Statement (.publish f) := of_immF (f := f) rfl rfl rfl rfl
theorem waitv (f : ImmF) : Statement (.waitv f) := of_immF (f := f) rfl rfl rfl rfl
theorem cinc (f : ImmF) : Statement (.cinc f) := of_immF (f := f) rfl rfl rfl rfl
theorem lnset (f : MemF) : Statement (.lnset f) := of_memF (f := f) rfl rfl rfl rfl
theorem lnclr (f : MemF) : Statement (.lnclr f) := of_memF (f := f) rfl rfl rfl rfl
theorem lnpeek (f : MemF) : Statement (.lnpeek f) := of_memF (f := f) rfl rfl rfl rfl
theorem vadd (f : RegF) : Statement (.vadd f) := of_regF (f := f) rfl rfl rfl rfl
theorem vsub (f : RegF) : Statement (.vsub f) := of_regF (f := f) rfl rfl rfl rfl
theorem vmul (f : RegF) : Statement (.vmul f) := of_regF (f := f) rfl rfl rfl rfl
theorem vfma (f : RegF) : Statement (.vfma f) := of_regF (f := f) rfl rfl rfl rfl
theorem vfms (f : RegF) : Statement (.vfms f) := of_regF (f := f) rfl rfl rfl rfl
theorem vmin (f : RegF) : Statement (.vmin f) := of_regF (f := f) rfl rfl rfl rfl
theorem vmax (f : RegF) : Statement (.vmax f) := of_regF (f := f) rfl rfl rfl rfl
theorem vabs (f : RegF) : Statement (.vabs f) := of_regF (f := f) rfl rfl rfl rfl
theorem vneg (f : RegF) : Statement (.vneg f) := of_regF (f := f) rfl rfl rfl rfl
theorem vand (f : RegF) : Statement (.vand f) := of_regF (f := f) rfl rfl rfl rfl
theorem vor (f : RegF) : Statement (.vor f) := of_regF (f := f) rfl rfl rfl rfl
theorem vxor (f : RegF) : Statement (.vxor f) := of_regF (f := f) rfl rfl rfl rfl
theorem vnot (f : RegF) : Statement (.vnot f) := of_regF (f := f) rfl rfl rfl rfl
theorem vshl (f : RegF) : Statement (.vshl f) := of_regF (f := f) rfl rfl rfl rfl
theorem vshr (f : RegF) : Statement (.vshr f) := of_regF (f := f) rfl rfl rfl rfl
theorem vsra (f : RegF) : Statement (.vsra f) := of_regF (f := f) rfl rfl rfl rfl
theorem vcmp (f : RegF) : Statement (.vcmp f) := of_regF (f := f) rfl rfl rfl rfl
theorem vsel (f : RegF) : Statement (.vsel f) := of_regF (f := f) rfl rfl rfl rfl
theorem vbcast (f : RegF) : Statement (.vbcast f) := of_regF (f := f) rfl rfl rfl rfl
theorem vrowb (f : RegF) : Statement (.vrowb f) := of_regF (f := f) rfl rfl rfl rfl
theorem vcolb (f : RegF) : Statement (.vcolb f) := of_regF (f := f) rfl rfl rfl rfl
theorem vrsum (f : RegF) : Statement (.vrsum f) := of_regF (f := f) rfl rfl rfl rfl
theorem vrmax (f : RegF) : Statement (.vrmax f) := of_regF (f := f) rfl rfl rfl rfl
theorem vcsum (f : RegF) : Statement (.vcsum f) := of_regF (f := f) rfl rfl rfl rfl
theorem vcmax (f : RegF) : Statement (.vcmax f) := of_regF (f := f) rfl rfl rfl rfl
theorem vtrans (f : RegF) : Statement (.vtrans f) := of_regF (f := f) rfl rfl rfl rfl
theorem vshuf (f : RegF) : Statement (.vshuf f) := of_regF (f := f) rfl rfl rfl rfl
theorem viota (f : RegF) : Statement (.viota f) := of_regF (f := f) rfl rfl rfl rfl
theorem vmovs (f : RegF) : Statement (.vmovs f) := of_regF (f := f) rfl rfl rfl rfl
theorem vins (f : RegF) : Statement (.vins f) := of_regF (f := f) rfl rfl rfl rfl
theorem vshape (f : ImmF) : Statement (.vshape f) := of_immF (f := f) rfl rfl rfl rfl
theorem vexp2 (f : RegF) : Statement (.vexp2 f) := of_regF (f := f) rfl rfl rfl rfl
theorem vlog2 (f : RegF) : Statement (.vlog2 f) := of_regF (f := f) rfl rfl rfl rfl
theorem vrcp (f : RegF) : Statement (.vrcp f) := of_regF (f := f) rfl rfl rfl rfl
theorem vrsq (f : RegF) : Statement (.vrsq f) := of_regF (f := f) rfl rfl rfl rfl
theorem pand (f : RegF) : Statement (.pand f) := of_regF (f := f) rfl rfl rfl rfl
theorem por (f : RegF) : Statement (.por f) := of_regF (f := f) rfl rfl rfl rfl
theorem pxor (f : RegF) : Statement (.pxor f) := of_regF (f := f) rfl rfl rfl rfl
theorem pandn (f : RegF) : Statement (.pandn f) := of_regF (f := f) rfl rfl rfl rfl
theorem pnot (f : RegF) : Statement (.pnot f) := of_regF (f := f) rfl rfl rfl rfl
theorem pset (f : ImmF) : Statement (.pset f) := of_immF (f := f) rfl rfl rfl rfl
theorem pcnt (f : RegF) : Statement (.pcnt f) := of_regF (f := f) rfl rfl rfl rfl
theorem cspush (f : RegF) : Statement (.cspush f) := of_regF (f := f) rfl rfl rfl rfl
theorem cspop (f : RegF) : Statement (.cspop f) := of_regF (f := f) rfl rfl rfl rfl
theorem csbal (f : RegF) : Statement (.csbal f) := of_regF (f := f) rfl rfl rfl rfl
theorem vdot4 (f : RegF) : Statement (.vdot4 f) := of_regF (f := f) rfl rfl rfl rfl
theorem cvt (f : RegF) : Statement (.cvt f) := of_regF (f := f) rfl rfl rfl rfl
theorem cvti (f : RegF) : Statement (.cvti f) := of_regF (f := f) rfl rfl rfl rfl
theorem xunp (f : RegF) : Statement (.xunp f) := of_regF (f := f) rfl rfl rfl rfl
theorem xpack (f : RegF) : Statement (.xpack f) := of_regF (f := f) rfl rfl rfl rfl
theorem xscale (f : RegF) : Statement (.xscale f) := of_regF (f := f) rfl rfl rfl rfl
theorem xfp6j (f : RegF) : Statement (.xfp6j f) := of_regF (f := f) rfl rfl rfl rfl
theorem xfp6s (f : RegF) : Statement (.xfp6s f) := of_regF (f := f) rfl rfl rfl rfl
theorem xshdec (f : RegF) : Statement (.xshdec f) := of_regF (f := f) rfl rfl rfl rfl
theorem xshenc (f : RegF) : Statement (.xshenc f) := of_regF (f := f) rfl rfl rfl rfl
theorem mnest (f : EngF) : Statement (.mnest f) := of_engF (f := f) rfl rfl rfl rfl
theorem mgo (f : EngF) : Statement (.mgo f) := of_engF (f := f) rfl rfl rfl rfl
theorem ldstat (f : EngF) : Statement (.ldstat f) := of_engF (f := f) rfl rfl rfl rfl
theorem mplane (f : EngF) : Statement (.mplane f) := of_engF (f := f) rfl rfl rfl rfl
theorem mma (f : EngF) : Statement (.mma f) := of_engF (f := f) rfl rfl rfl rfl
theorem attn (f : EngF) : Statement (.attn f) := of_engF (f := f) rfl rfl rfl rfl
theorem aclr (f : EngF) : Statement (.aclr f) := of_engF (f := f) rfl rfl rfl rfl
theorem ard (f : EngF) : Statement (.ard f) := of_engF (f := f) rfl rfl rfl rfl
theorem awr (f : EngF) : Statement (.awr f) := of_engF (f := f) rfl rfl rfl rfl
theorem ascl (f : EngF) : Statement (.ascl f) := of_engF (f := f) rfl rfl rfl rfl
theorem msmx (f : EngF) : Statement (.msmx f) := of_engF (f := f) rfl rfl rfl rfl
theorem cnest (f : EngF) : Statement (.cnest f) := of_engF (f := f) rfl rfl rfl rfl
theorem cgo (f : EngF) : Statement (.cgo f) := of_engF (f := f) rfl rfl rfl rfl
theorem cpy (f : EngF) : Statement (.cpy f) := of_engF (f := f) rfl rfl rfl rfl
theorem gath (f : EngF) : Statement (.gath f) := of_engF (f := f) rfl rfl rfl rfl
theorem scat (f : EngF) : Statement (.scat f) := of_engF (f := f) rfl rfl rfl rfl
theorem decomp (f : EngF) : Statement (.decomp f) := of_engF (f := f) rfl rfl rfl rfl
theorem slabmv (f : EngF) : Statement (.slabmv f) := of_engF (f := f) rfl rfl rfl rfl
theorem dsend (f : EngF) : Statement (.dsend f) := of_engF (f := f) rfl rfl rfl rfl
theorem spull (f : EngF) : Statement (.spull f) := of_engF (f := f) rfl rfl rfl rfl
theorem sdrop (f : EngF) : Statement (.sdrop f) := of_engF (f := f) rfl rfl rfl rfl
theorem sfwd (f : EngF) : Statement (.sfwd f) := of_engF (f := f) rfl rfl rfl rfl
theorem mcst (f : EngF) : Statement (.mcst f) := of_engF (f := f) rfl rfl rfl rfl
theorem fred (f : EngF) : Statement (.fred f) := of_engF (f := f) rfl rfl rfl rfl
theorem tierpf (f : EngF) : Statement (.tierpf f) := of_engF (f := f) rfl rfl rfl rfl
theorem nvrd (f : EngF) : Statement (.nvrd f) := of_engF (f := f) rfl rfl rfl rfl
theorem nvwr (f : EngF) : Statement (.nvwr f) := of_engF (f := f) rfl rfl rfl rfl
theorem netq (f : EngF) : Statement (.netq f) := of_engF (f := f) rfl rfl rfl rfl
theorem waitb (f : ImmF) : Statement (.waitb f) := of_immF (f := f) rfl rfl rfl rfl
theorem enqr (f : RegF) : Statement (.enqr f) := of_regF (f := f) rfl rfl rfl rfl
theorem join (f : ImmF) : Statement (.join f) := of_immF (f := f) rfl rfl rfl rfl
theorem leave (f : ImmF) : Statement (.leave f) := of_immF (f := f) rfl rfl rfl rfl
theorem gbar (f : ImmF) : Statement (.gbar f) := of_immF (f := f) rfl rfl rfl rfl
theorem tstart (f : RegF) : Statement (.tstart f) := of_regF (f := f) rfl rfl rfl rfl
theorem texit (f : RegF) : Statement (.texit f) := of_regF (f := f) rfl rfl rfl rfl
theorem dorm (f : RegF) : Statement (.dorm f) := of_regF (f := f) rfl rfl rfl rfl
theorem hmsg (f : RegF) : Statement (.hmsg f) := of_regF (f := f) rfl rfl rfl rfl
theorem seqTree (f : RegF) : Statement (.seqTree f) := of_regF (f := f) rfl rfl rfl rfl
theorem seqCheck (f : RegF) : Statement (.seqCheck f) := of_regF (f := f) rfl rfl rfl rfl
theorem seqWinnow (f : RegF) : Statement (.seqWinnow f) := of_regF (f := f) rfl rfl rfl rfl
theorem seqRoll (f : RegF) : Statement (.seqRoll f) := of_regF (f := f) rfl rfl rfl rfl
theorem seqPreempt (f : RegF) : Statement (.seqPreempt f) := of_regF (f := f) rfl rfl rfl rfl
theorem seqResume (f : RegF) : Statement (.seqResume f) := of_regF (f := f) rfl rfl rfl rfl
theorem seqStat (f : RegF) : Statement (.seqStat f) := of_regF (f := f) rfl rfl rfl rfl
theorem resv (f : RegF) : Statement (.resv f) := of_regF (f := f) rfl rfl rfl rfl
theorem flowq (f : RegF) : Statement (.flowq f) := of_regF (f := f) rfl rfl rfl rfl
theorem getc (f : ImmF) : Statement (.getc f) := of_immF (f := f) rfl rfl rfl rfl
theorem setc (f : ImmF) : Statement (.setc f) := of_immF (f := f) rfl rfl rfl rfl
theorem trap (f : ImmF) : Statement (.trap f) := of_immF (f := f) rfl rfl rfl rfl
theorem eret (f : RegF) : Statement (.eret f) := of_regF (f := f) rfl rfl rfl rfl
theorem yield (f : RegF) : Statement (.yield f) := of_regF (f := f) rfl rfl rfl rfl
theorem opend (f : RegF) : Statement (.opend f) := of_regF (f := f) rfl rfl rfl rfl
theorem tlbi (f : RegF) : Statement (.tlbi f) := of_regF (f := f) rfl rfl rfl rfl
theorem ckpt (f : RegF) : Statement (.ckpt f) := of_regF (f := f) rfl rfl rfl rfl
theorem resultWriteback (p t c : Nat) : Statement (.resultWriteback p t c) := fun h _ => absurd h (Nat.lt_irrefl 7)
theorem queueEntryPresent (p t c q : Nat) : Statement (.queueEntryPresent p t c q) := fun h _ => absurd h (Nat.lt_irrefl 7)
theorem queuePlaceFreed (p t c q : Nat) : Statement (.queuePlaceFreed p t c q) := fun h _ => absurd h (Nat.lt_irrefl 7)
theorem globalLoadDataArrival (p t c : Nat) (x poisoned : Bool) : Statement (.globalLoadDataArrival p t c x poisoned) := fun h _ => absurd h (Nat.lt_irrefl 7)
theorem ldqEntryFill (p t c q : Nat) : Statement (.ldqEntryFill p t c q) := fun h _ => absurd h (Nat.lt_irrefl 7)
theorem stalledReadProceeds (p t c : Nat) (x : Bool) : Statement (.stalledReadProceeds p t c x) := fun h _ => absurd h (Nat.lt_irrefl 7)
theorem waitTimeout (p t c : Nat) (x : Bool) : Statement (.waitTimeout p t c x) := fun h _ => absurd h (Nat.lt_irrefl 7)
theorem waitOrphan (p t c : Nat) (x : Bool) : Statement (.waitOrphan p t c x) := fun h _ => absurd h (Nat.lt_irrefl 7)
theorem waitbPass (p t c : Nat) (x : Bool) : Statement (.waitbPass p t c x) := fun h _ => absurd h (Nat.lt_irrefl 7)
theorem waitvPass (p t c : Nat) (x : Bool) : Statement (.waitvPass p t c x) := fun h _ => absurd h (Nat.lt_irrefl 7)
theorem publishSwap (p t c : Nat) (x : Bool) : Statement (.publishSwap p t c x) := fun h _ => absurd h (Nat.lt_irrefl 7)
theorem acqGrant (p o : Nat) : Statement (.acqGrant p o) := fun h _ => absurd h (Nat.lt_irrefl 7)
theorem gbarGenerationComplete (p g : Nat) : Statement (.gbarGenerationComplete p g) := fun h _ => absurd h (Nat.lt_irrefl 7)
theorem asyncInterrupt (p t c cause : Nat) : Statement (.asyncInterrupt p t c cause) := fun h _ => absurd h (Nat.lt_irrefl 7)
theorem timingReplay (p t c fails : Nat) : Statement (.timingReplay p t c fails) := fun h _ => absurd h (Nat.lt_irrefl 7)
theorem operatorEnd (p o : Nat) : Statement (.operatorEnd p o) := fun h _ => absurd h (Nat.lt_irrefl 7)
theorem tillerThreadStart (p t : Nat) : Statement (.tillerThreadStart p t) := fun h _ => absurd h (Nat.lt_irrefl 7)
theorem handlerMessageReceive (p : Nat) : Statement (.handlerMessageReceive p) := fun h _ => absurd h (Nat.lt_irrefl 7)
theorem enqrAccept (p t : Nat) : Statement (.enqrAccept p t) := fun h _ => absurd h (Nat.lt_irrefl 7)
theorem engineCommandStart (p t q : Nat) : Statement (.engineCommandStart p t q) := fun h _ => absurd h (Nat.lt_irrefl 7)
theorem copyCommandStart (p t q : Nat) : Statement (.copyCommandStart p t q) := fun h _ => absurd h (Nat.lt_irrefl 7)
theorem engineCommandRetire (p t q : Nat) : Statement (.engineCommandRetire p t q) := fun h _ => absurd h (Nat.lt_irrefl 7)
theorem copyCommandRetire (p t q : Nat) : Statement (.copyCommandRetire p t q) := fun h _ => absurd h (Nat.lt_irrefl 7)
theorem engineLineFillResume (p t q : Nat) : Statement (.engineLineFillResume p t q) := fun h _ => absurd h (Nat.lt_irrefl 7)
theorem backpressureWriteResume (p t q : Nat) : Statement (.backpressureWriteResume p t q) := fun h _ => absurd h (Nat.lt_irrefl 7)
theorem slabMovePiece (p t q : Nat) : Statement (.slabMovePiece p t q) := fun h _ => absurd h (Nat.lt_irrefl 7)
theorem launchTagWrite (p v n : Nat) : Statement (.launchTagWrite p v n) := fun h _ => absurd h (Nat.lt_irrefl 7)
theorem launchComplete (p q : Nat) : Statement (.launchComplete p q) := fun h _ => absurd h (Nat.lt_irrefl 7)
theorem operatorDispatch (p q : Nat) : Statement (.operatorDispatch p q) := fun h _ => absurd h (Nat.lt_irrefl 7)
theorem stageFirstInput (p o g : Nat) : Statement (.stageFirstInput p o g) := fun h _ => absurd h (Nat.lt_irrefl 7)
theorem sqin (d : BitVec 8) : Statement (.sqin d) := fun h _ => absurd h (Nat.lt_irrefl 7)
theorem sqout (a : BitVec 8) : Statement (.sqout a) := fun h _ => absurd h (Nat.lt_irrefl 7)
theorem rebindingInterval (p : Nat) : Statement (.rebindingInterval p) := fun h _ => absurd h (Nat.lt_irrefl 7)
theorem periodStart (p : Nat) : Statement (.periodStart p) := fun h _ => absurd h (Nat.lt_irrefl 7)
theorem dispatchAgeLimit (p q : Nat) : Statement (.dispatchAgeLimit p q) := fun h _ => absurd h (Nat.lt_irrefl 7)
theorem gangTick (p q : Nat) : Statement (.gangTick p q) := fun h _ => absurd h (Nat.lt_irrefl 7)
theorem gangSwitch (p q : Nat) : Statement (.gangSwitch p q) := fun h _ => absurd h (Nat.lt_irrefl 7)
theorem overrun (p o : Nat) : Statement (.overrun p o) := fun h _ => absurd h (Nat.lt_irrefl 7)
theorem overrunAbort (p o : Nat) : Statement (.overrunAbort p o) := fun h _ => absurd h (Nat.lt_irrefl 7)
theorem zmonRelease (p t c : Nat) : Statement (.zmonRelease p t c) := fun h _ => absurd h (Nat.lt_irrefl 7)
theorem alloc (w : BitVec 64) : Statement (.alloc w) := fun h _ => absurd h (Nat.lt_irrefl 7)
theorem free (w : BitVec 64) : Statement (.free w) := fun h _ => absurd h (Nat.lt_irrefl 7)
theorem rule (w : BitVec 64) : Statement (.rule w) := fun h _ => absurd h (Nat.lt_irrefl 7)
theorem slabnew (w : BitVec 64) : Statement (.slabnew w) := fun h _ => absurd h (Nat.lt_irrefl 7)
theorem slabfree (w : BitVec 64) : Statement (.slabfree w) := fun h _ => absurd h (Nat.lt_irrefl 7)
theorem reclaimTimeout (p tier : Nat) : Statement (.reclaimTimeout p tier) := fun h _ => absurd h (Nat.lt_irrefl 7)
theorem claimMet (p tier : Nat) : Statement (.claimMet p tier) := fun h _ => absurd h (Nat.lt_irrefl 7)
theorem smPreemptApply (p n : Nat) : Statement (.smPreemptApply p n) := fun h _ => absurd h (Nat.lt_irrefl 7)
theorem nvmeCompletion (p t q status : Nat) (data : List (BitVec 8)) : Statement (.nvmeCompletion p t q status data) := fun h _ => absurd h (Nat.lt_irrefl 7)
theorem nvmeCommandTimeout (p t q : Nat) : Statement (.nvmeCommandTimeout p t q) := fun h _ => absurd h (Nat.lt_irrefl 7)
theorem pageWalk (p t v : Nat) (va : BitVec 64) : Statement (.pageWalk p t v va) := fun h _ => absurd h (Nat.lt_irrefl 7)
theorem pageMigration (p v : Nat) (va : BitVec 64) : Statement (.pageMigration p v va) := fun h _ => absurd h (Nat.lt_irrefl 7)
theorem slotArrival (p : Nat) (full : Bool) : Statement (.slotArrival p full) := fun h _ => absurd h (Nat.lt_irrefl 7)
theorem flitResend (p : Nat) : Statement (.flitResend p) := fun h _ => absurd h (Nat.lt_irrefl 7)
theorem starvationLimit (p tier : Nat) : Statement (.starvationLimit p tier) := fun h _ => absurd h (Nat.lt_irrefl 7)
theorem readRequest (p : Nat) : Statement (.readRequest p) := fun h _ => absurd h (Nat.lt_irrefl 7)
theorem readResponse (p : Nat) : Statement (.readResponse p) := fun h _ => absurd h (Nat.lt_irrefl 7)
theorem write (p : Nat) : Statement (.write p) := fun h _ => absurd h (Nat.lt_irrefl 7)
theorem writeAck (p : Nat) : Statement (.writeAck p) := fun h _ => absurd h (Nat.lt_irrefl 7)
theorem atomic (p : Nat) : Statement (.atomic p) := fun h _ => absurd h (Nat.lt_irrefl 7)
theorem atomicResponse (p : Nat) : Statement (.atomicResponse p) := fun h _ => absurd h (Nat.lt_irrefl 7)
theorem nack (p : Nat) : Statement (.nack p) := fun h _ => absurd h (Nat.lt_irrefl 7)
theorem requestTimeout (p tag : Nat) : Statement (.requestTimeout p tag) := fun h _ => absurd h (Nat.lt_irrefl 7)
theorem multicastWrite (p : Nat) : Statement (.multicastWrite p) := fun h _ => absurd h (Nat.lt_irrefl 7)
theorem multicastAck (p : Nat) : Statement (.multicastAck p) := fun h _ => absurd h (Nat.lt_irrefl 7)
theorem reductionContribution (p : Nat) : Statement (.reductionContribution p) := fun h _ => absurd h (Nat.lt_irrefl 7)
theorem syncRequest (p : Nat) : Statement (.syncRequest p) := fun h _ => absurd h (Nat.lt_irrefl 7)
theorem control (p : Nat) : Statement (.control p) := fun h _ => absurd h (Nat.lt_irrefl 7)
theorem create (w : BitVec 64) : Statement (.create w) := fun h _ => absurd h (Nat.lt_irrefl 7)
theorem mgFree (w : BitVec 64) : Statement (.mgFree w) := fun h _ => absurd h (Nat.lt_irrefl 7)
theorem addMember (w : BitVec 64) : Statement (.addMember w) := fun h _ => absurd h (Nat.lt_irrefl 7)
theorem del (w : BitVec 64) : Statement (.del w) := fun h _ => absurd h (Nat.lt_irrefl 7)
theorem handler (w : BitVec 64) : Statement (.handler w) := fun h _ => absurd h (Nat.lt_irrefl 7)
theorem query (w : BitVec 64) : Statement (.query w) := fun h _ => absurd h (Nat.lt_irrefl 7)
theorem netPacketReceive (p q : Nat) (k : NetPacket) : Statement (.netPacketReceive p q k) := fun h _ => absurd h (Nat.lt_irrefl 7)
theorem netRetransmitTimeout (p t q : Nat) : Statement (.netRetransmitTimeout p t q) := fun h _ => absurd h (Nat.lt_irrefl 7)
theorem netSpaceTimeout (p t q : Nat) : Statement (.netSpaceTimeout p t q) := fun h _ => absurd h (Nat.lt_irrefl 7)
theorem netRequestComplete (p t q : Nat) : Statement (.netRequestComplete p t q) := fun h _ => absurd h (Nat.lt_irrefl 7)
theorem netRecordComplete (p q : Nat) : Statement (.netRecordComplete p q) := fun h _ => absurd h (Nat.lt_irrefl 7)
theorem nrxheadWrite (a : BitVec 8) : Statement (.nrxheadWrite a) := fun h _ => absurd h (Nat.lt_irrefl 7)
theorem stub (p : Nat) : Statement (.stub p) := fun h _ => absurd h (Nat.lt_irrefl 7)
theorem stubTouch (p v : Nat) (va : BitVec 64) : Statement (.stubTouch p v va) := fun h _ => absurd h (Nat.lt_irrefl 7)
theorem pullRequest (p : Nat) : Statement (.pullRequest p) := fun h _ => absurd h (Nat.lt_irrefl 7)
theorem pullResponse (p : Nat) : Statement (.pullResponse p) := fun h _ => absurd h (Nat.lt_irrefl 7)
theorem pullAck (p : Nat) : Statement (.pullAck p) := fun h _ => absurd h (Nat.lt_irrefl 7)
theorem repointSlot (p : Nat) : Statement (.repointSlot p) := fun h _ => absurd h (Nat.lt_irrefl 7)
theorem stubReleaseSlot (p : Nat) : Statement (.stubReleaseSlot p) := fun h _ => absurd h (Nat.lt_irrefl 7)
theorem stubRenewal (p k : Nat) : Statement (.stubRenewal p k) := fun h _ => absurd h (Nat.lt_irrefl 7)
theorem renewalReceive (p : Nat) : Statement (.renewalReceive p) := fun h _ => absurd h (Nat.lt_irrefl 7)
theorem holderLeaseExpiry (p k : Nat) : Statement (.holderLeaseExpiry p k) := fun h _ => absurd h (Nat.lt_irrefl 7)
theorem ownerLeaseExpiry (p k : Nat) : Statement (.ownerLeaseExpiry p k) := fun h _ => absurd h (Nat.lt_irrefl 7)
theorem releaseResend (p k : Nat) : Statement (.releaseResend p k) := fun h _ => absurd h (Nat.lt_irrefl 7)
theorem holdStall (p t c : Nat) (x : Bool) : Statement (.holdStall p t c x) := fun h _ => absurd h (Nat.lt_irrefl 7)
theorem holdKeepalive (p : Nat) : Statement (.holdKeepalive p) := fun h _ => absurd h (Nat.lt_irrefl 7)
theorem stubBind (w : BitVec 64) : Statement (.stubBind w) := fun h _ => absurd h (Nat.lt_irrefl 7)
theorem stubUnbind (w : BitVec 64) : Statement (.stubUnbind w) := fun h _ => absurd h (Nat.lt_irrefl 7)
theorem frecClear (k : Nat) : Statement (.frecClear k) := fun h _ => absurd h (Nat.lt_irrefl 7)
theorem heartbeat (p : Nat) : Statement (.heartbeat p) := fun h _ => absurd h (Nat.lt_irrefl 7)
theorem dieFailure (p : Nat) : Statement (.dieFailure p) := fun h _ => absurd h (Nat.lt_irrefl 7)
theorem tileFailure (p t : Nat) : Statement (.tileFailure p t) := fun h _ => absurd h (Nat.lt_irrefl 7)
theorem memoryEccError (p : Nat) (sram corrected : Bool) (addr : Nat) : Statement (.memoryEccError p sram corrected addr) := fun h _ => absurd h (Nat.lt_irrefl 7)
theorem marginEvent (p addr : Nat) : Statement (.marginEvent p addr) := fun h _ => absurd h (Nat.lt_irrefl 7)
theorem marginStep (p : Nat) : Statement (.marginStep p) := fun h _ => absurd h (Nat.lt_irrefl 7)
theorem marginBackoffExpiry (p : Nat) : Statement (.marginBackoffExpiry p) := fun h _ => absurd h (Nat.lt_irrefl 7)
theorem operatingPointChange (p rail : Nat) : Statement (.operatingPointChange p rail) := fun h _ => absurd h (Nat.lt_irrefl 7)
theorem railsetWrite (p : Nat) (w : BitVec 64) : Statement (.railsetWrite p w) := fun h _ => absurd h (Nat.lt_irrefl 7)
theorem currentGrant (p cl rail : Nat) : Statement (.currentGrant p cl rail) := fun h _ => absurd h (Nat.lt_irrefl 7)
theorem boostGrant (p : Nat) : Statement (.boostGrant p) := fun h _ => absurd h (Nat.lt_irrefl 7)
theorem boostExpiry (p : Nat) : Statement (.boostExpiry p) := fun h _ => absurd h (Nat.lt_irrefl 7)
theorem coolmodeWrite (p : Nat) (w : BitVec 64) : Statement (.coolmodeWrite p w) := fun h _ => absurd h (Nat.lt_irrefl 7)
theorem coolFlow (p z flow : Nat) : Statement (.coolFlow p z flow) := fun h _ => absurd h (Nat.lt_irrefl 7)
theorem coolTemp (p z temp : Nat) : Statement (.coolTemp p z temp) := fun h _ => absurd h (Nat.lt_irrefl 7)
theorem coolPress (p kpa : Nat) : Statement (.coolPress p kpa) := fun h _ => absurd h (Nat.lt_irrefl 7)
theorem coolVoid (p z : Nat) : Statement (.coolVoid p z) := fun h _ => absurd h (Nat.lt_irrefl 7)
theorem flowEvacTimeout (p z : Nat) : Statement (.flowEvacTimeout p z) := fun h _ => absurd h (Nat.lt_irrefl 7)
theorem zoneEvac (p z : Nat) : Statement (.zoneEvac p z) := fun h _ => absurd h (Nat.lt_irrefl 7)
theorem zvalveEvacWrite (p z : Nat) (w : BitVec 64) : Statement (.zvalveEvacWrite p z w) := fun h _ => absurd h (Nat.lt_irrefl 7)
theorem parkTimeout (p z : Nat) : Statement (.parkTimeout p z) := fun h _ => absurd h (Nat.lt_irrefl 7)
theorem primeTimeout (p z flow temp : Nat) (void : Bool) : Statement (.primeTimeout p z flow temp void) := fun h _ => absurd h (Nat.lt_irrefl 7)
theorem fullReset  : Statement (.fullReset) := fun h _ => absurd h (Nat.lt_irrefl 7)
theorem bootPhaseComplete (phase code die svn : Nat) : Statement (.bootPhaseComplete phase code die svn) := fun h _ => absurd h (Nat.lt_irrefl 7)
theorem dtimeSync (now : Nat) : Statement (.dtimeSync now) := fun h _ => absurd h (Nat.lt_irrefl 7)
theorem rackLinkUp (pkg : Nat) (same : Bool) : Statement (.rackLinkUp pkg same) := fun h _ => absurd h (Nat.lt_irrefl 7)
theorem lockInterfaceRequest (p v : Nat) : Statement (.lockInterfaceRequest p v) := fun h _ => absurd h (Nat.lt_irrefl 7)
theorem startInterfaceRequest (p v : Nat) : Statement (.startInterfaceRequest p v) := fun h _ => absurd h (Nat.lt_irrefl 7)
theorem stopInterfaceRequest (p v : Nat) : Statement (.stopInterfaceRequest p v) := fun h _ => absurd h (Nat.lt_irrefl 7)
theorem vfConfigChange (p v : Nat) : Statement (.vfConfigChange p v) := fun h _ => absurd h (Nat.lt_irrefl 7)
theorem getMeasurements (p k : Nat) : Statement (.getMeasurements p k) := fun h _ => absurd h (Nat.lt_irrefl 7)
theorem keyDelivery (p slot q v : Nat) : Statement (.keyDelivery p slot q v) := fun h _ => absurd h (Nat.lt_irrefl 7)
theorem teardown (p v : Nat) : Statement (.teardown p v) := fun h _ => absurd h (Nat.lt_irrefl 7)
theorem hostWrite (p : Nat) (tgt : HostTarget) (addr : Nat) (data : List (BitVec 8)) : Statement (.hostWrite p tgt addr data) := fun h _ => absurd h (Nat.lt_irrefl 7)
theorem hostRead (p : Nat) (tgt : HostTarget) (addr len : Nat) : Statement (.hostRead p tgt addr len) := fun h _ => absurd h (Nat.lt_irrefl 7)
theorem dirtyLineEviction (p home line : Nat) : Statement (.dirtyLineEviction p home line) := fun h _ => absurd h (Nat.lt_irrefl 7)
theorem powerRemoval  : Statement (.powerRemoval) := fun h _ => absurd h (Nat.lt_irrefl 7)
theorem renewalAcknowledgement (p : Nat) : Statement (.renewalAcknowledgement p) := fun h _ => absurd h (Nat.lt_irrefl 7)
theorem releaseAcknowledgement (p : Nat) : Statement (.releaseAcknowledgement p) := fun h _ => absurd h (Nat.lt_irrefl 7)
theorem holdKeepaliveArrival (p : Nat) : Statement (.holdKeepaliveArrival p) := fun h _ => absurd h (Nat.lt_irrefl 7)
theorem heartbeatArrival (p : Nat) : Statement (.heartbeatArrival p) := fun h _ => absurd h (Nat.lt_irrefl 7)
theorem netAcknowledgement (p t q first count : Nat) (ready : Bool) : Statement (.netAcknowledgement p t q first count ready) := fun h _ => absurd h (Nat.lt_irrefl 7)
theorem ideKmKeySet (p v : Nat) : Statement (.ideKmKeySet p v) := fun h _ => absurd h (Nat.lt_irrefl 7)
theorem teardownComplete (p v : Nat) : Statement (.teardownComplete p v) := fun h _ => absurd h (Nat.lt_irrefl 7)
theorem zmonHold (p q : Nat) : Statement (.zmonHold p q) := fun h _ => absurd h (Nat.lt_irrefl 7)
theorem conditionCleared (p z cause : Nat) : Statement (.conditionCleared p z cause) := fun h _ => absurd h (Nat.lt_irrefl 7)
theorem slotInjection (p : Nat) : Statement (.slotInjection p) := fun h _ => absurd h (Nat.lt_irrefl 7)

end Sys2Proof.Laws.Encoding
end

