-- ==== Sys2Proof/Tests/Slice0.lean ====
section
/-! SUPPORT. The author's own tests: ill-formed terms that `wf` refuses, words written out from the encoding tables, one
step from a fetched word, and for every statement with hypotheses a state and operands that meet them. -/

namespace Sys2Proof.Tests
open Sys2Proof Sys2Proof.Machine
set_option Elab.async false

/-! ### Well-formedness: each check refuses something and lets its neighbour through -/

/-- Register fields (R15, R80): numbers past the file, a selector that no file has, a register where the form has none. -/
theorem test_wf_fields :
    ([.add ⟨true, 0, 0, 4, 0, 0x50, 5, 4⟩, .add ⟨true, 0, 0, 4, 0, 0x84, 5, 4⟩, .add ⟨true, 0, 0, 4, 1, 6, 5, 4⟩,
      .add ⟨true, 0, 0, 4, 0, 6, 5, 0xC0⟩, .vadd ⟨true, 0, 0, 4, 0, 0x20, 2, 1⟩, .vmovs ⟨true, 0, 0, 4, 0, 5, 1, 0x80⟩,
      .pset ⟨true, 0, 1, 0, 0, 0xC0⟩, .pcnt ⟨true, 0, 0, 0, 0, 0, 0xC8, 4⟩, .br ⟨true, 0, 0, 0, 0, 0, 0xCC, 0⟩,
      .qpush ⟨true, 0, 0, 0, 0, 0, 4, 0xC6⟩, .qpop ⟨true, 0, 0, 0, 0, 0, 0xC5, 4⟩, .ldq ⟨true, true, 0, 0, 6, 0, 4, 0xC4⟩,
      .cspush ⟨true, 0, 0, 4, 0, 0, 1, 0xC8⟩, .cinc ⟨true, 0, 1, 0, 0, 0x05⟩, .aclr ⟨true, 0, 0, false, 0, 0, 0, 0, 0x05⟩,
      .vld ⟨true, true, 0, 0, 4, 0x20, 5, 1⟩, .texit ⟨true, 0, 0, 0, 0, 0, 0, 1⟩, .sel ⟨true, 0, 0, 0, 0xCC, 6, 5, 4⟩].all
        (fun i => !wf i)) = true ∧
    ([.add ⟨true, 0, 0, 4, 0, 0x4F, 0x83, 4⟩, .vadd ⟨true, 0, 0, 4, 0, 0x1F, 2, 1⟩, .pset ⟨true, 0, 1, 0, 0, 0xC1⟩,
      .br ⟨true, 0, 0, 0, 0, 0, 0xCB, 0⟩, .qpop ⟨true, 0, 0, 0, 0, 0, 0xC4, 4⟩, .cinc ⟨true, 0, 1, 0, 0, 0xFF⟩,
      .aclr ⟨true, 0, 0, false, 0, 0, 0, 0, 0⟩, .sel ⟨true, 0, 0, 0, 0xCB, 6, 5, 4⟩].all (fun i => wf i)) = true := by decide

/-- Types, predicates and modifier bits (R37, R82, R97, R147, R173). -/
theorem test_wf_types :
    ([.add ⟨true, 0, 0, 8, 0, 6, 5, 4⟩, .add ⟨true, 1, 0, 4, 0, 6, 5, 4⟩, .add ⟨true, 0, 1, 4, 0, 6, 5, 4⟩,
      .mulh ⟨true, 0, 0, 5, 0, 6, 5, 4⟩, .mulhn ⟨true, 0, 0, 4, 0, 6, 5, 4⟩, .addx ⟨true, 0, 8, 4, 0, 6, 5, 4⟩,
      .cmp ⟨true, 0, 8, 4, 0, 6, 5, 0xC2⟩, .bext ⟨true, 0, 0, 4, 5, 4⟩, .st ⟨true, true, 1, 0, 6, 0, 4, 5⟩,
      .ld ⟨true, true, 3, 0, 6, 0, 4, 5⟩, .ld ⟨true, false, 1, 0, 6, 0, 4, 5⟩, .vld ⟨true, false, 0, 0, 4, 0, 5, 1⟩,
      .atom ⟨true, false, 9, 0, 4, 6, 5, 4⟩, .atom ⟨true, true, 16, 0, 4, 6, 5, 4⟩, .atom ⟨true, true, 0, 0, 3, 6, 5, 4⟩,
      .cas ⟨true, false, 1, 0, 4, 6, 5, 4⟩, .atomf ⟨true, false, 3, 0, 8, 6, 5, 4⟩, .atomf ⟨true, false, 0, 0, 10, 6, 5, 4⟩,
      .fence ⟨true, 12, 0, 0, 0, 0⟩, .acq ⟨true, 2, 0, 0, 4, 0⟩, .lnset ⟨true, false, 0, 0, 0, 0, 4, 0⟩,
      .vadd ⟨true, 0, 0x10, 4, 0, 3, 2, 1⟩, .vadd ⟨true, 0, 0, 11, 0, 3, 2, 1⟩, .vadd ⟨true, 0, 0x50, 8, 0, 3, 2, 1⟩,
      .vmin ⟨true, 0, 0x80, 4, 0, 3, 2, 1⟩, .vcmp ⟨true, 0, 6, 8, 0, 3, 2, 0xC1⟩, .vsra ⟨true, 0, 0, 5, 0, 3, 2, 1⟩,
      .viota ⟨true, 0, 3, 4, 0, 0, 0, 1⟩, .vtrans ⟨true, 1, 0, 4, 0, 0, 2, 1⟩, .vexp2 ⟨true, 0, 0, 4, 0, 0, 2, 1⟩,
      .cspush ⟨true, 0, 0, 2, 0, 0, 1, 0xC0⟩, .vdot4 ⟨true, 0, 4, 4, 4, 3, 2, 1⟩, .cvti ⟨true, 0, 0x104, 4, 0, 0, 5, 4⟩,
      .cvt ⟨true, 0, 6, 8, 0, 0, 2, 1⟩, .xunp ⟨true, 0, 8, 8, 0, 5, 2, 1⟩, .xfp6s ⟨true, 0, 8, 0, 1, 0, 2, 1⟩,
      .xfp6s ⟨true, 0, 0x108, 0, 3, 0, 2, 1⟩, .xshdec ⟨true, 0, 3, 8, 4, 3, 2, 1⟩, .xshenc ⟨true, 0, 8, 8, 0, 5, 2, 1⟩,
      .tlbi ⟨true, 0, 8, 0, 0, 5, 4, 0⟩, .waitb ⟨true, 1, 0, 0, 5, 0xC3⟩].all (fun i => !wf i)) = true ∧
    ([.mulh ⟨true, 0, 0, 4, 0, 6, 5, 4⟩, .mulhn ⟨true, 0, 0, 5, 0, 6, 5, 4⟩, .addx ⟨true, 0, 7, 4, 0, 6, 5, 4⟩,
      .ld ⟨true, true, 2, 0, 6, 0, 4, 5⟩, .atom ⟨true, false, 8, 0, 4, 6, 5, 4⟩, .atom ⟨true, false, 16, 0, 4, 6, 5, 4⟩,
      .vadd ⟨true, 0, 0x80, 4, 0, 3, 2, 1⟩, .vadd ⟨true, 0, 0x40, 8, 0, 3, 2, 1⟩, .vcmp ⟨true, 0, 6, 4, 0, 3, 2, 0xC1⟩,
      .viota ⟨true, 0, 2, 4, 0, 0, 0, 1⟩, .xunp ⟨true, 0, 13, 8, 0, 5, 2, 1⟩, .xfp6s ⟨true, 0, 8, 0, 3, 0, 2, 1⟩,
      .xshdec ⟨true, 0, 2, 8, 4, 3, 2, 1⟩, .tlbi ⟨true, 0, 7, 0, 0, 5, 4, 0⟩].all (fun i => wf i)) = true := by decide

/-- Immediates (R97, and each form's own rule). -/
theorem test_wf_immediates :
    ([.nop ⟨true, 4096, 0⟩, .shli ⟨true, 0, 256, 4, 5, 4⟩, .bext ⟨true, 0, 0xFC1, 6, 5, 4⟩, .loopset ⟨true, 0, 0, 0, 4, 0⟩,
      .loopset ⟨true, 0, 5, 0, 4, 0⟩, .pset ⟨true, 0, 4096, 0, 0, 0xC1⟩, .vshape ⟨true, 0, 0x4000, 0, 0, 0⟩,
      .cinc ⟨true, 0, 0x10000, 0, 0, 0xC1⟩, .publish ⟨true, 0, 256, 0, 0, 0⟩, .waitv ⟨true, 0, 256, 0, 4, 0⟩,
      .join ⟨true, 0, 64, 0, 4, 0⟩, .leave ⟨true, 0, 64, 0, 4, 0⟩, .gbar ⟨true, 0, 64, 0, 4, 0⟩, .trap ⟨true, 0, 256, 0, 0, 0⟩,
      .getc ⟨true, 0, 4096, 0, 0, 4⟩, .setc ⟨true, 0, 4096, 0, 4, 0⟩, .fence ⟨true, 0, 1, 0, 0, 0⟩,
      .rel ⟨true, 0, 1, 0, 4, 0⟩].all (fun i => !wf i)) = true ∧
    ([.nop ⟨true, 4095, 0⟩, .shli ⟨true, 0, 255, 4, 5, 4⟩, .bext ⟨true, 0, 0xFC0, 6, 5, 4⟩, .loopset ⟨true, 0, 4, 0, 4, 0⟩,
      .pset ⟨true, 0, 4095, 0, 0, 0xC1⟩, .vshape ⟨true, 0, 0x3FFF, 0, 0, 0⟩, .cinc ⟨true, 0, 0xFFFF, 0, 0, 0xC1⟩,
      .publish ⟨true, 0, 255, 0, 0, 0⟩, .join ⟨true, 0, 63, 0, 4, 0⟩, .trap ⟨true, 0, 255, 0, 0, 0⟩,
      .getc ⟨true, 0, 4095, 0, 0, 4⟩].all (fun i => wf i)) = true := by decide

/-- Units, layouts and the remote-ignore bit of engine forms (R82, R191, R211). -/
theorem test_wf_engines :
    ([.ldstat ⟨true, 0, 0, false, 1, 0, 0, 4, 0xC1⟩, .ldstat ⟨true, 0x20, 0, false, 3, 0, 0, 4, 0xC1⟩,
      .ldstat ⟨true, 0x400, 0, false, 3, 0, 0, 4, 0xC1⟩, .mma ⟨true, 0, 6, false, 1, 0, 6, 5, 0xC2⟩,
      .mma ⟨true, 13, 0, false, 1, 0, 6, 5, 0xC2⟩, .mma ⟨true, 2, 0, false, 1, 0, 6, 5, 0xC2⟩,
      .attn ⟨true, 9, 1, false, 1, 7, 6, 5, 0xC2⟩, .aclr ⟨true, 8, 0, false, 0, 0, 0, 0, 0xC2⟩,
      .aclr ⟨true, 0, 0, true, 0, 0, 0, 0, 0xC2⟩, .ard ⟨true, 0x140, 0, false, 1, 0, 0, 5, 0xC2⟩,
      .awr ⟨true, 0x2C, 0, false, 1, 0, 0, 5, 0xC2⟩, .ascl ⟨true, 12, 0, false, 0, 0, 6, 5, 0xC2⟩,
      .msmx ⟨true, 12, 1, false, 0, 0, 6, 5, 0xC2⟩, .msmx ⟨true, 0, 0, false, 0, 0, 6, 5, 0xC2⟩,
      .mplane ⟨true, 3, 0, false, 0, 0, 0, 0, 0⟩, .mnest ⟨true, 8, 0, false, 0, 0, 6, 5, 0⟩,
      .cgo ⟨true, 2, 0, false, 0, 0, 0, 0, 0xC1⟩, .cpy ⟨true, 2, 0, false, 0, 6, 5, 4, 0xC1⟩,
      .cpy ⟨true, 0, 1, false, 0, 6, 5, 4, 0xC1⟩, .gath ⟨true, 13, 0, false, 0, 6, 5, 4, 0xC1⟩,
      .scat ⟨true, 13, 0, false, 0, 6, 5, 4, 0xC1⟩, .decomp ⟨true, 0, 0, true, 0, 6, 5, 4, 0xC1⟩,
      .mcst ⟨true, 128, 0, false, 0, 0, 5, 4, 0xC1⟩, .fred ⟨true, 6, 0, false, 0, 6, 5, 4, 0xC1⟩,
      .tierpf ⟨true, 2, 0, false, 0, 0, 5, 4, 0xC1⟩, .nvrd ⟨true, 2, 0, false, 0, 6, 5, 4, 0xC1⟩,
      .nvwr ⟨true, 3, 0, false, 0, 6, 5, 4, 0xC1⟩, .netq ⟨true, 0, 0, true, 0, 0, 5, 4, 0xC1⟩,
      .dsend ⟨true, 1, 0, false, 0, 6, 5, 4, 0xC1⟩].all (fun i => !wf i)) = true ∧
    ([.ldstat ⟨true, 0, 0, false, 3, 0, 0, 4, 0xC1⟩, .ldstat ⟨true, 0x2E, 0, false, 4, 0, 0, 4, 0xC1⟩,
      .mma ⟨true, 13, 0, false, 7, 0, 6, 5, 0xC2⟩, .attn ⟨true, 9, 4, false, 1, 7, 6, 5, 0xC2⟩,
      .msmx ⟨true, 8, 1, false, 0, 0, 6, 5, 0xC2⟩, .cgo ⟨true, 2, 0, false, 4, 0, 0, 0, 0xC1⟩,
      .gath ⟨true, 12, 0, false, 0, 6, 5, 4, 0xC1⟩, .fred ⟨true, 5, 0, false, 0, 6, 5, 4, 0xC1⟩].all (fun i => wf i)) = true := by
  decide

/-! ### Words of every class, from the tables of chapters 5 to 11 and R72, R73, R85 -/

theorem test_words_scalar :
    decodeWord 0x00048000C0A08282 = .ok (.addx ⟨true, 0, 2, 4, 0, 6, 5, 4⟩) ∧
    decodeWord 0x00001840C0A082A2 = .ok (.sel ⟨true, 0, 0, 0, 0xC2, 6, 5, 4⟩) ∧
    decodeWord 0x00000190C0A084E2 = .ok (.bext ⟨true, 0, 200, 6, 5, 4⟩) ∧
    decodeWord 0x0004C000C0B84702 = .ok (.cmp ⟨true, 0, 2, 6, 0, 6, 5, 0xC2⟩) ∧
    decodeWord 0x0000000000D80942 = .ok (.qpush ⟨true, 0, 0, 0, 0, 0, 6, 0xC0⟩) := ⟨rfl, rfl, rfl, rfl, rfl⟩

theorem test_words_memory :
    decodeWord 0x0000108000A0E026 = .ok (.st ⟨true, false, 0, 8, 4, 0, 5, 7⟩) ∧
    decodeWord 0x000000C000B82046 = .ok (.ldq ⟨true, false, 0, 0, 6, 0, 5, 0xC1⟩) ∧
    decodeWord 0x20002100E0804066 = .ok (.vld ⟨true, true, 0, 16, 8, 7, 4, 2⟩) ∧
    decodeWord 0x120000C0C0A10106 = .ok (.atom ⟨true, false, 0x90, 0, 6, 6, 5, 8⟩) ∧
    decodeWord 0x0000018161400266 = .ok (.bind ⟨true, 0, 0, 0, 12, 11, 10, 0⟩) ∧
    decodeWord 0x000000040018A346 = .ok (.cinc ⟨true, 0, 2, 0, 0, 0xC5⟩) := ⟨rfl, rfl, rfl, rfl, rfl, rfl⟩

theorem test_words_vector :
    decodeWord 0x18000000E0C0A2CA = .ok (.vsra ⟨true, 3, 0, 0, 0, 7, 6, 5⟩) ∧
    decodeWord 0x000500006038430A = .ok (.vcmp ⟨true, 0, 2, 8, 0, 3, 1, 0xC2⟩) ∧
    decodeWord 0x000040C2000006AA = .ok (.vshape ⟨true, 0, 0x2061, 0, 0, 0⟩) ∧
    decodeWord 0x2001000000B8490A = .ok (.cspush ⟨true, 4, 0, 8, 0, 0, 5, 0xC2⟩) ∧
    decodeWord 0x0004802060402A0A = .ok (.vdot4 ⟨true, 0, 2, 4, 1, 3, 2, 1⟩) := ⟨rfl, rfl, rfl, rfl, rfl⟩

theorem test_words_convert :
    decodeWord 0x119120000020600E = .ok (.cvt ⟨true, 2, 0xC8, 9, 0, 0, 1, 3⟩) ∧
    decodeWord 0x001B00012040C04E = .ok (.xunp ⟨true, 0, 13, 8, 0, 9, 2, 6⟩) ∧
    decodeWord 0x0010210000A0E0CE = .ok (.xfp6s ⟨true, 0, 8, 1, 8, 0, 5, 7⟩) ∧
    decodeWord 0x00030060402080EE = .ok (.xshdec ⟨true, 0, 1, 8, 3, 2, 1, 4⟩) := ⟨rfl, rfl, rfl, rfl⟩

theorem test_words_matrix :
    decodeWord 0x08E0800000982052 = .ok (.ldstat ⟨true, 0x8E, 0, false, 4, 0, 0, 4, 0xC1⟩) ∧
    decodeWord 0x0200200000F860F2 = .ok (.ard ⟨true, 0x20, 0, false, 1, 0, 0, 7, 0xC3⟩) ∧
    decodeWord 0x209021816158A0B2 = .ok (.attn ⟨true, 0x209, 0, false, 1, 12, 11, 10, 0xC5⟩) ∧
    decodeWord 0x001A00000018C0D2 = .ok (.aclr ⟨true, 1, 5, false, 0, 0, 0, 0, 0xC6⟩) ∧
    decodeWord 0x008A0001C1F90152 = .ok (.msmx ⟨true, 8, 5, false, 0, 0, 14, 15, 0xC8⟩) := ⟨rfl, rfl, rfl, rfl, rfl⟩

theorem test_words_copy :
    decodeWord 0x0020800000188036 = .ok (.cgo ⟨true, 2, 0, false, 4, 0, 0, 0, 0xC4⟩) ∧
    decodeWord 0x00102141211840B6 = .ok (.decomp ⟨true, 1, 0, false, 1, 10, 9, 8, 0xC2⟩) ∧
    decodeWord 0x041000016158A196 = .ok (.mcst ⟨true, 0x41, 0, false, 0, 0, 11, 10, 0xC5⟩) ∧
    decodeWord 0x1F8000C0A098E1B6 = .ok (.fred ⟨true, 0x1F8, 0, false, 0, 6, 5, 4, 0xC7⟩) := ⟨rfl, rfl, rfl, rfl⟩

theorem test_words_system :
    decodeWord 0x000000C0A08000BA = .ok (.tstart ⟨true, 0, 0, 0, 6, 5, 4, 0⟩) ∧
    decodeWord 0x000000012100E25A = .ok (.seqWinnow ⟨true, 0, 0, 0, 0, 9, 8, 7⟩) ∧
    decodeWord 0x000000260000861A = .ok (.getc ⟨true, 0, 0x013, 0, 0, 4⟩) ∧
    decodeWord 0x00020000A08006DA = .ok (.tlbi ⟨true, 0, 1, 0, 0, 5, 4, 0⟩) ∧
    decodeWord 0x000000120000065A = .ok (.trap ⟨true, 0, 9, 0, 0, 0⟩) := ⟨rfl, rfl, rfl, rfl, rfl⟩

/-- Parcels (R72, R73, R85): the examples `rep(8, 0b0011)` 0x0C73 and `nop #3` 0x0097, and a dictionary parcel of index 5. -/
theorem test_parcels :
    decode [0x73, 0x0C] = .ok (.rep 7 3 0, []) ∧ decode [0x97, 0x00] = .ok (.nopShort true 2, []) ∧
    decode [0x2D, 0x00] = .ok (.dictionaryParcel true 5, []) := ⟨rfl, rfl, rfl⟩

/-- The bytes of a word lie lowest first (R78): the `CMP` word of chapter 5, with a byte of the next word behind it. -/
theorem test_byte_order :
    decode [0x02, 0x47, 0xB8, 0xC0, 0x00, 0xC0, 0x04, 0x00, 0x12] = .ok (.cmp ⟨true, 0, 2, 6, 0, 6, 5, 0xC2⟩, [0x12]) := rfl

/-- One step runs the instruction that stands where the machine fetches: `movi x6, #10` (chapter 5). -/
theorem test_step_fetches :
    (match Machine.step (State.reset.withFetchWord 64 0x000000000140C602) with
     | .next s => (s.ctx 0 0 0).inflight.map (·.w) | _ => []) = [.x 6 10] := by decide +kernel

/-! ### Witnesses: states and operands that meet the hypotheses of each statement -/

/-- `Ready` as a value. -/
def ready (i : Instr) (s : State) : Bool :=
  s.powered && streamOk s.iss.exe i && (loadCheck i s).toOption.isSome && decide (s.myCtx.count < 64)

theorem ready_iff (i : Instr) (s : State) : ready i s = true ↔ Ready i s := by
  simp only [ready, Ready, Bool.and_eq_true, decide_eq_true_eq, and_assoc]
  cases loadCheck i s <;> simp [Except.toOption]

/-- A computation ends well, with a result of which `p` holds. -/
def meets {ε α : Type} (x : Except ε α) (p : α → Bool) : Bool := x.toOption.any p

theorem meets_iff {ε α : Type} (x : Except ε α) (p : α → Bool) : meets x p = true ↔ ∃ a, x = .ok a ∧ p a = true := by
  cases x <;> simp [meets, Except.toOption]

/-- The execute stream of context 0 of tile 0 issues, with these main registers; and its access stream. -/
def xs (l : List (Nat × Word)) : State := l.foldl (fun s e => s.setMe { s.me with x := SMap.set 0 s.me.x e.1 e.2 }) State.reset
def as (l : List (Nat × Word)) : State :=
  l.foldl (fun s e => s.setMe { s.me with x := SMap.set 0 s.me.x e.1 e.2 }) { State.reset with iss := { exe := false } }
/-- Fields d, a, b of type i32, and of no type. -/
def rf : RegF := ⟨true, 0, 0, 4, 0, 6, 5, 4⟩
def r0 : RegF := ⟨true, 0, 0, 0, 0, 6, 5, 4⟩

/-! ### The spec's worked examples, one step each -/

/-- What an instruction puts in flight. -/
def flying (i : Instr) (s : State) : List Write :=
  match Machine.exec i s with | .next t => t.myCtx.inflight.map (·.w) | _ => []

/-- The table of R102, and the example of `ADDX` (R103). -/
theorem test_shifts :
    flying (.shl rf) (xs [(5, 1), (6, 40)]) = [.x 4 0] ∧ flying (.sra rf) (xs [(5, 0x80000000), (6, 40)]) = [.x 4 0xFFFFFFFFFFFFFFFF] ∧
    flying (.shr { rf with t1 := 6 }) (xs [(5, 0xF000000000000000), (6, 0x104)]) = [.x 4 0x0F00000000000000] ∧
    flying (.shl { rf with t1 := 6 }) (xs [(5, 3), (6, 0x100)]) = [.x 4 3] ∧
    flying (.addx { rf with m := 2 }) (xs [(5, 0x1000), (6, 0xFFFFFFFFFFFFFFFE)]) = [.x 4 0x0FF8] := by decide +kernel

/-- The examples of R101 and R109. -/
theorem test_division :
    flying (.div { rf with t1 := 0 }) (xs [(5, 0x80), (6, 0xFF)]) = [.x 4 0xFFFFFFFFFFFFFF80] ∧
    flying (.remn { rf with t1 := 3 }) (xs [(5, 0x1FFFE)]) = [.x 4 0xFFFE] ∧
    flying (.cmpi ⟨true, 0, 0xFFFFFF, 1, 5, 0xC0⟩) (xs [(5, 0xFF)]) = [.cond 0 true] := by decide +kernel

/-- Banks (R24): a value written to X48 is X52 after a `BRLOOP`. -/
theorem test_banks :
    let c : Ctx := { lctl := mkLctl 0 false 0 0 0 }
    ({ c.land true (c.dest true 48 7) with lctl := mkLctl 0 false 0 0 3 } : Ctx).reg true 52 = 7 := by decide +kernel

/-- The examples of `VABS`, `VNEG` (R150), `VSRA` (R153) and `VDOT4` (R170), on a row of one element. -/
theorem test_vector_integers :
    let s := fun (l : SMap VReg) (shape : Word) => (xs []).setMyCtx { (xs []).myCtx with vshape := shape, v := l, p := [(3, 1)] }
    let low := fun (w : List Write) => w.map (fun x => match x with | .v r m v => (r, m % 2 ^ 32, v % 2 ^ 32) | _ => (0, 0, 0))
    low (flying (.vabs ⟨true, 0, 0x80, 0, 0, 0, 2, 1⟩) (s [(2, 0x80)] 0)) = [(1, 0xFF, 0x7F)] ∧
    low (flying (.vabs ⟨true, 0, 0, 0, 0, 0, 2, 1⟩) (s [(2, 0x80)] 0)) = [(1, 0xFF, 0x80)] ∧
    low (flying (.vneg ⟨true, 0, 0x80, 3, 0, 0, 2, 1⟩) (s [(2, 5)] 0x1000)) = [(1, 0xFFFF, 0)] ∧
    low (flying (.vsra ⟨true, 3, 0, 0, 0, 7, 6, 5⟩) (s [(6, 0x80F01234), (7, 0x01080403)] 0x2000)) = [(5, 0xFFFFFFFF, 0xC0FF0106)] ∧
    low (flying (.vdot4 ⟨true, 0, 2, 4, 1, 3, 2, 1⟩) (s [(2, 0x04030201), (3, 0xFF020301), (1, 10)] 0x2000)) = [(1, 0xFFFFFFFF, 0x413)] ∧
    low (flying (.vdot4 ⟨true, 0, 0, 4, 1, 3, 2, 1⟩) (s [(2, 0x04030201), (3, 0xFF020301), (1, 10)] 0x2000)) = [(1, 0xFFFFFFFF, 19)] := by
  decide +kernel

/-- The examples of chapter 8: `CVT` with saturation, `CVTI` toward zero, `XUNP` and `XFP6J`. -/
theorem test_conversions :
    let s := fun (l : SMap VReg) (shape : Word) => (xs [(5, 0xC0B00000), (9, 0x81)]).setMyCtx { (xs []).myCtx with
      vshape := shape, v := l, exe := (xs [(5, 0xC0B00000), (9, 0x81)]).me }
    let val := fun (w : List Write) => w.map (fun x => match x with | .v _ _ v => v | .x _ v => v.toNat | _ => 0)
    val (flying (.cvt ⟨true, 0, 0x88, 11, 0, 0, 1, 2⟩) (s [(1, 0x7FC000003A83126FC053333343FA0000)] 0x2060)) = [0x7F01C57E] ∧
    val (flying (.cvti ⟨true, 0, 0x18, 4, 0, 0, 5, 4⟩) (s [] 0)) = [0xFFFFFFFFFFFFFFFB] ∧
    val (flying (.xunp ⟨true, 0, 13, 8, 0, 9, 2, 6⟩) (s [(2, 0x17A3)] 0x2060)) = [0x4000000041C00000C080000040C00000] ∧
    val (flying (.xfp6j ⟨true, 0, 0, 11, 0, 3, 2, 4⟩) (s [(2, 0xB), (3, 1)] 0)) = [0xBA] ∧
    val (flying (.xfp6j ⟨true, 0, 1, 11, 0, 3, 2, 4⟩) (s [(2, 0xB), (3, 1)] 0)) = [0xBD] := by decide +kernel

/-- The walk-through of R58: code 0xB6 of depth 8 against 3, 2v × 3 = 327, drained as 327 × 0.25 / 2 = 40.875. -/
theorem test_sheaf : sheaf2v 0xB6 8 = 109 ∧ 109 * 3 = 327 ∧ roundV 8 {} (FVal.mul (.ofInt 327) ((f32 0x3E800000).shift (-1))) = 0x42238000 := by
  decide +kernel

theorem witness_DecodeInvertsEncode :
    ((opcode (.add rf)).1 < 7 ∧ isParcel (.add rf) = false ∧ wf (.add rf) = true) ∧
    (isParcel (.rep 63 15 3) = true ∧ wf (.rep 63 15 3) = true) := by decide +kernel

theorem witness_StepRunsDecoded :
    let s := State.reset.withFetchWord 64 0x000000000140C602
    s.inputs = [] ∧ s.powered = true ∧ nextEvent s = none ∧ nextIssue s = some (0, 0, .issue 0 true true) ∧
      meets (gather (s.atIssue 0 0 0 true true) 0 0 (s.ctx 0 0 0).part (s.ctx 0 0 0).vf 4 (s.stream 0 0 0 true).pc)
        (fun x => x == ([{ addr := 0, word := some 0x000000000140C602, parcel := 0xC602 }], 8)) = true ∧
      meets ({ addr := 0, word := some 0x000000000140C602, parcel := 0xC602 } : Raw).decode (fun i => i == .movi ⟨true, 10, 6⟩) =
        true := by decide +kernel

/-- Both streams of a context stand at `trap #9`. -/
theorem witness_StepRunsDecoded_pair :
    let s := State.reset.withFetchWord 64 0x000000120000065A
    let s := s.modCtx 0 0 0 fun x => { x with acc := x.exe }
    let r : Raw := { addr := 0, word := some 0x000000120000065A, parcel := 0x065A }
    s.inputs = [] ∧ s.powered = true ∧ nextEvent s = none ∧ nextIssue s = some (0, 0, .pair 0 true true) ∧
      meets (gather (s.atIssue 0 0 0 true true) 0 0 (s.ctx 0 0 0).part (s.ctx 0 0 0).vf 4 (s.stream 0 0 0 true).pc)
        (fun x => x == ([r], 8)) = true ∧ meets r.decode (fun i => i == .trap ⟨true, 0, 9, 0, 0, 0⟩) = true ∧
      lastOf (Machine.exec (.trap ⟨true, 0, 9, 0, 0, 0⟩) ((s.atIssue 0 0 0 true true).running 8)) = .trapped cSOFT_TRAP := by
  decide +kernel

theorem witness_WhereNothingRuns :
    ((opcode (.vadd rf)).1 < 7 ∧ (as []).powered = true ∧ streamOk (as []).iss.exe (.vadd rf) = false) ∧
    (2 ≤ (opcode (.vadd rf)).1 ∧ (opcode (.vadd rf)).1 ≤ 4) ∧ (opcode (.cpy ⟨true, 0, 0, false, 0, 6, 5, 4, 0⟩)).1 = 5 := by decide +kernel

/-- Every step of a powered device answers a state, and the reset state meets the invariants. -/
theorem witness_invariants :
    State.reset.memOk = true ∧ State.reset.shapesOk = true ∧
      (match Machine.step State.reset with | .next _ => true | _ => false) = true := by decide +kernel

theorem witness_ScalarResults : ([Instr.add rf, .sub rf, .mul rf, .mulh rf, .mulhn { rf with t1 := 5 }, .min rf, .max rf,
      .minn { rf with t1 := 5 }, .maxn { rf with t1 := 5 }, .and rf, .or rf, .xor rf, .shl rf, .shr rf, .sra rf, .addx rf,
      .addi ⟨true, 0, 0x800000, 0, 5, 4⟩, .andi ⟨true, 0, 1, 4, 5, 4⟩, .ori ⟨true, 0, 1, 4, 5, 4⟩, .xori ⟨true, 0, 1, 4, 5, 4⟩,
      .shli ⟨true, 0, 255, 4, 5, 4⟩, .shri ⟨true, 0, 255, 4, 5, 4⟩, .srai ⟨true, 0, 255, 4, 5, 4⟩, .movi ⟨true, 10, 6⟩,
      .movh ⟨true, 10, 6⟩].all (fun i => (scalarResult i (xs [])).isSome && ready i (xs []))) = true := by decide +kernel

theorem witness_DivisionResults : ([Instr.div rf, .divn { rf with t1 := 5 }, .rem rf, .remn { rf with t1 := 5 }].all
    (fun i => (divisionResult i (xs [(6, 7)])).isSome && ready i (xs [(6, 7)]) && ready i (xs []))) = true := by decide +kernel

/-- Zero and not; fields that end at bit 63: position 63 of length 1, position 0 of length 64. -/
theorem witness_BitOperations :
    (ready (.clz rf) (xs []) ∧ lowW 4 ((xs []).reg 5) = 0) ∧ (ready (.ctz rf) (xs [(5, 1)]) ∧ lowW 4 ((xs [(5, 1)]).reg 5) ≠ 0) ∧
    ready (.popc rf) (xs []) ∧
    [(63 : BitVec 24), 0xFC0].all (fun imm => wf (.bext ⟨true, 0, imm, 6, 5, 4⟩) && ready (.bext ⟨true, 0, imm, 6, 5, 4⟩) (xs []) &&
      wf (.bins ⟨true, 0, imm, 7, 5, 4⟩) && ready (.bins ⟨true, 0, imm, 7, 5, 4⟩) (xs [])) := by decide +kernel

theorem witness_ConditionsChoose :
    ready (.sel { r0 with e := 0xCB }) (xs []) ∧ ready (.cmp { rf with d := 0xC2, m := 7 }) (xs []) ∧
      ready (.cmpi ⟨true, 7, 0, 6, 5, 0xC0⟩) (xs []) := by decide +kernel

/-- Steer register 2 with a target or none, a condition, and `LCTL`. -/
def steered (v c : Bool) (lctl : Word) : State :=
  let s := xs []
  let s := s.setMyCtx { s.myCtx with lctl := lctl }
  s.setMe { s.me with j := SMap.set {} s.me.j 2 { tvalid := v, cond := c, target := 64 } }
def jf : RegF := ⟨true, 0, 0, 0, 0, 0, 0xC2, 0⟩

theorem witness_PreparedTransfers :
    ready (.prep ⟨true, -32, 0xC2⟩) (xs []) ∧
    [(64 : Word), 65].all (fun v => ready (.prepx { r0 with d := 0xC4, b := 0 }) (xs [(5, v)])) ∧
    (∀ v c : Bool, ((steered v c 0).steer jf.a).tvalid = v ∧ ready (.br jf) (steered v c 0) ∧ ready (.brf jf) (steered v c 0) ∧
      ready (.jmp jf) (steered v c 0) ∧ ready (.ret jf) (steered v c 0) ∧ ready (.call { jf with d := 31 }) (steered v c 0)) := by
  decide +kernel

/-- Iterations left, and none. -/
theorem witness_LoopControl :
    [(1 : BitVec 24), 4].all (fun n => wf (.loopset ⟨true, 0, n, 0, 5, 0⟩) && ready (.loopset ⟨true, 0, n, 0, 5, 0⟩) (xs [(5, 3)])) ∧
    [mkLctl 1 false 3 0 0, mkLctl 0 false 1 0 0].all (fun w => ((steered true false w).steer jf.a).tvalid &&
      lctlSc (steered true false w).myCtx.lctl != 0 && ready (.brloop jf) (steered true false w)) := by decide +kernel

/-- A queue that holds n present entries. -/
def queued (s : State) (q n : Nat) : State :=
  s.setMyCtx (s.myCtx.setQueue q ⟨List.replicate n { val := 1 }, []⟩)

/-- One place left in a queue of either depth, and a present entry. -/
theorem witness_QueueTransfer :
    (((queued (xs []) 4 15).myCtx.queue 4).taken < queueDepth 4 ∧ ready (.qpush { r0 with d := 0xC4 }) (queued (xs []) 4 15)) ∧
    (((queued (as []) 5 31).myCtx.queue 5).taken < queueDepth 5 ∧ ready (.qpush { r0 with d := 0xC5 }) (queued (as []) 5 31)) ∧
    (((queued (xs []) 0 1).myCtx.queue 0).entries = [{ val := 1 }] ∧ ({ val := 1 } : QEntry).present ∧
      ready (.qpop { r0 with a := 0xC0 }) (queued (xs []) 0 1)) ∧
    (((queued (xs []) 5 1).myCtx.queue 5).entries = [{ val := 1 }] ∧ ready (.bqpop { r0 with d := 0xC1 }) (queued (xs []) 5 1)) := by
  decide +kernel

/-- A dictionary of one word, and a repeat in front of an addition. -/
def dicted (w : Word) : State := (xs []).setMyTile { (xs []).myTile with dict := [(0, w)], dictN := 1 }
def repeating : State :=
  let s := State.reset.withFetchWord 16 0x0C73
  (s.setDie 0 { s.die 0 with dram := Memory.write (s.die 0).dram (placeFrame * 4096 + 2) 8 0x00008000C0A08042 }).aim 0 0 0 true

theorem witness_IdlingAndParcels :
    ready (.nop ⟨true, 4095, 0⟩) (xs []) ∧ ready (.nopShort true 15) (xs []) ∧
    ((dicted 0).dictWord true 0 = some 2 ∧ ready (.dictionaryParcel true 0) (dicted 0)) ∧
    ((dicted 0).myTile.dictN ≤ (1 : BitVec 10).toNat ∧ ready (.dictionaryParcel true 1) (dicted 0)) ∧
    (ready (.rep 7 3 0) repeating ∧ repeating.iss.ipc = repeating.iss.wpc ∧ meets repeating.repeated (· == 0x00008000C0A08042) ∧
      meets (decodeWord 0x00008000C0A08042) (fun i => !repBarred i && (stepFields i).all (fun f =>
        !bit (3 : BitVec 4) f.1 || f.2.2.steps (field 0x00008000C0A08042 f.2.1 8)))) := by decide +kernel

theorem witness_ResultsLand :
    Kind.sd.ok 63 ∧ (63 : BitVec 8) ≠ 0 ∧ Kind.sd.ok 0x4F ∧ Kind.s.ok 0x83 ∧ (0x83 : BitVec 8) ≠ 63 := by decide +kernel

/-! ### Memory -/

/-- Address X4 + imm, scratchpad or global; line 2 of scratchpad full. -/
def mf (sp : Bool) (t1 : BitVec 4) (d : BitVec 8) : MemF := ⟨true, sp, 0, 0, t1, 6, 4, d⟩
def filled (s : State) : State := s.setMyTile { s.myTile with lines := [(2, { full := true }), (3, { full := true })] }

/-- The last 8 bytes of a full line; and any line, full or not, for a peek and for the forms on metadata. -/
theorem witness_ScratchReads :
    (let s := filled (xs [(4, 0x178)])
     let f := { mf true 6 7 with b := 0 }
     ready (.ld f) s ∧ (s.ea f).toNat % 8 = 0 ∧
       meets (s.scratch (s.ea f)) (fun x => x.1 == 0x178 && (x.2.myTile.lineInfo 2).full && x.2.myTile.good 2)) ∧
    (let s := xs [(4, 0x178)]
     let f := { mf true 6 7 with b := 0, m := 2 }
     ready (.ld f) s ∧ meets (s.scratch (s.ea f)) (fun x => x.2.myTile.good (x.1 / 128)) ∧
       ready (.lnset { f with t1 := 0, m := 0, d := 0 }) s ∧ ready (.lnclr { f with t1 := 0, m := 0, d := 0 }) s ∧
       ready (.lnpeek { f with t1 := 0, m := 0 }) s) := by decide +kernel

/-- The last byte of scratchpad, and 8 bytes at the end of a line that nothing has written. -/
theorem witness_ScratchStores :
    ([(0 : BitVec 4), 6].all fun t =>
      let s := xs [(4, if t = 0 then 0x3FFFFF else 0x178), (5, 0x1122334455667788)]
      let f := { mf true t 5 with b := 0 }
      wf (.st f) && ready (.st f) s && (s.ea f).toNat % sizeOf_ t.toNat == 0 &&
        meets (s.scratch (s.ea f)) (fun x => (x.2.myTile.cyc.find (x.1 / 128)).isNone && !x.2.scratchClash x.1 (sizeOf_ t.toNat) &&
          x.2.myTile.cyc == [])) ∧
    -- a tile that has written nothing in this cycle meets `lineOk` and `noAtom`
    (∀ t : Tile, t.cyc = [] → (∀ n, t.lineOk n) ∧ t.noAtom) ∧
    (126 % 128 + [(0 : Byte), 0].length ≤ 128) := by
  refine ⟨by decide +kernel, fun t h => ⟨fun n => ?_, fun n c hc => ?_⟩, by decide⟩
  · simp [Tile.lineOk, h, SMap.find]
  · simp [h, SMap.find] at hc

/-- A KV slab of 2^12 positions of 128 bytes in DRAM: its first address. -/
def slabbed (s : State) : State :=
  s.setDie 0 { s.die 0 with slots := [(0, { state := 1, slabs := [(0, ⟨1, 0x1000, 12, 128, none, 0⟩)] })] }
def kva : Word := 0x1F0000000000000
def kloc : Loc := .mem 0 1 0x1000 0

theorem witness_QueueLoad :
    (let s := filled (as [(4, 0x178)])
     let f := { mf true 6 0xC0 with b := 0 }
     ready (.ldq f) s ∧ meets (s.scratch (s.ea f)) (fun x => (x.2.myCtx.queue 0).taken < queueDepth 0 &&
       x.2.myCtx.count == s.myCtx.count)) ∧
    (let s := slabbed (as [(4, kva)])
     let f := { mf false 6 0xC5 with b := 0 }
     ready (.ldq f) s ∧ (s.ea f).toNat % 8 = 0 ∧ meets (s.xlate (s.ea f) .load) (fun x => x.1 == kloc && x.2.iss == s.iss &&
       x.2.myCtx.count == s.myCtx.count && !x.2.clash kloc 8 && decide ((x.2.myCtx.queue 5).taken < queueDepth 5))) := by
  decide +kernel

/-- All 128 elements of a row of f32 at their places behind X4, in full lines; and one element, a partial write. -/
theorem witness_VectorMemory :
    (let s := (xs [(4, 0x100)]).setMyCtx { (xs [(4, 0x100)]).myCtx with vshape := 0x2060 }
     let f := mf true 8 2
     wf (.vld { f with b := 0 }) ∧ ready (.vld { f with b := 0 }) (filled s) ∧
       meets (vSpots (filled s) { f with b := 0 }) (fun x => x.1.length == 4 && x.1.all (fun e =>
         (x.2.myTile.lineInfo (e.2.1 / 128)).full && x.2.myTile.good (e.2.1 / 128))) ∧
       wf (.vst { f with b := 0 }) ∧ ready (.vst { f with b := 0 }) s ∧
       meets (vSpots s { f with b := 0 }) (fun x => x.1.all (fun e => e.2.1 / 128 == 2) && decide (x.1.length * 4 < 128))) := by
  decide +kernel

/-- Each atomic form on a quiet line, with acquire and release. -/
theorem witness_ScratchAtomics :
    (let s := xs [(4, 0x178), (6, 5)]
     [Instr.atom { mf true 6 7 with m := 0xC0 }, .cas { mf true 6 7 with m := 0xC0 }, .atomf { mf true 8 7 with m := 0xC0 }].all
       fun i => (atomicOp i s).any (fun x => x.1.sp && ready i s && (s.ea x.1).toNat % sizeOf_ x.1.t1.toNat == 0 && s.storesDone &&
         s.loadsDone && meets (s.scratch (s.ea x.1)) (fun y => !y.2.scratchClash y.1 (sizeOf_ x.1.t1.toNat) && (y.2.myTile.cyc.find (y.1 / 128)).isNone &&
           y.2.myTile.good (y.1 / 128)))) ∧
    2 ^ 32 - 1 < 2 ^ width 4 := by decide +kernel

theorem witness_GlobalAccess :
    let s := slabbed (as [(4, kva), (6, 5)])
    let ok := fun (x : Loc × State) => x.1 == kloc && x.2.iss == s.iss && x.2.myCtx.count == s.myCtx.count && x.2.me == s.me &&
      !x.2.clash kloc 8 && x.2.badLoc 0 kloc 8 == 0 && !x.2.heldLoc kloc
    let f := { mf false 6 7 with b := 0 }
    ready (.ld f) s ∧ ready (.st f) s ∧ wf (.st f) ∧ (s.ea f).toNat % 8 = 0 ∧ meets (s.xlate (s.ea f) .load) ok ∧
      meets (s.xlate (s.ea f) .store) ok ∧
      [Instr.atom { mf false 6 7 with m := 0xC0 }, .cas { mf false 6 7 with m := 0xC0 }, .atomf { mf false 8 7 with m := 0xC0 }].all
        (fun i => (atomicOp i s).isSome && ready i s && s.storesDone && s.loadsDone) := by decide +kernel

/-- An object at the end of the index range, of the last die, with no region and with one; held and not held. -/
theorem witness_SyncForms :
    let a : Word := 0x1FFFF
    let free := as [(4, a), (5, 0x80), (6, 0x80)]
    let owned := fun (h : List Holder) => free.setSync 7 0x3FFF { owner := some (0, 0), regions := [(0, 0x80, 0x80)], holders := h }
    let granted := (owned []).setMe { (owned []).me with wait := some ⟨0, true, .sync 7 0x3FFF true, true, [], false⟩ }
    -- an object of the same realm's partition on another die, and one of another realm's
    let theirs := fun (p : Nat) => free.setSync 7 0x3FFF { owner := some (p, p), holders := [] }
    let apart := { theirs 1 with cfg := { free.cfg with realm := [(5, 1)] } }
    let b : RegF := ⟨true, 0, 0, 0, 6, 5, 4, 0⟩
    (ready (.fence ⟨true, 0, 0, 0, 0, 0⟩) free ∧ free.cfg.syncUser (0, 0) 0 0 ∧ free.storesDone ∧ free.loadsDone) ∧
      (bits a 63 23 = 0 ∧ bits a 22 14 < free.peers ∧ ready (.bind b) free ∧ ready (.unbind { b with e := 0 }) (owned []) ∧
        (SMap.get ({} : SyncObj) ((owned []).die 7).sync 0x3FFF).owner = some (0, 0)) ∧
      (granted.reg 4 = a ∧ ready (.acq ⟨true, 1, 0, 0, 4, 0⟩) granted ∧ granted.me.granted (.sync 7 0x3FFF true)) ∧
      ([[], [(⟨0, 0, 0, false⟩ : Holder)]].all fun h => ready (.rel ⟨true, 0, 0, 0, 4, 0⟩) (owned h) && (owned h).storesDone &&
        (owned h).loadsDone && ((owned h).myCtx.stream (!(owned h).iss.exe)).answered_ && !(owned h).flushHeld 0 &&
        (SMap.get ({} : SyncObj) ((owned h).die 7).sync 0x3FFF).heldBy 0 0 0 == !h.isEmpty) ∧
      (free.cfg.syncUser (1, 1) 0 0 ∧ ready (.bind b) (theirs 1)) ∧
      (apart.cfg.syncUser (1, 1) 0 0 = false ∧ apart.reg 4 = a ∧ ready (.acq ⟨true, 1, 0, 0, 4, 0⟩) apart ∧
        ready (.rel ⟨true, 0, 0, 0, 4, 0⟩) apart ∧ ready (.bind b) apart ∧ ready (.unbind { b with e := 0 }) apart) := by decide +kernel

theorem witness_BuffersAndCounters :
    let s := xs [(4, 1)]
    let buf := fun (v : BitVec 32) => s.setMyTile { s.myTile with bufs := [(255, { valid := true, version := v, cur := 0, shd := 1 })] }
    let ctr := fun (r : BitVec 8) => s.setMyTile (s.myTile.setCounter 63 { rights := r })
    (ready (.publish ⟨true, 0, 255, 0, 0, 0⟩) (buf 0) ∧ ((buf 0).myTile.buffer 255).valid ∧ ((buf 0).myTile.buffer 255).overlap = false ∧
      (buf 0).storesDone ∧ (buf 0).loadsDone ∧ (buf 0).myTile.shadowBusy ((buf 0).myTile.buffer 255) = false ∧
      (buf 0).myTile.usedBufs.contains 255 = false) ∧
    (ready (.waitv ⟨true, 0, 255, 0, 4, 0⟩) (buf 1) ∧ ((buf 1).myTile.buffer 255).valid ∧
      (((buf 1).myTile.buffer 255).version - ((buf 1).reg 4).setWidth 32).toInt ≥ 0) ∧
    [(1 : BitVec 8), 0].all (fun r => ready (.cinc ⟨true, 0, 0xFFFF, 0, 0, 0xFF⟩) (ctr r) && (ctr r).storesDone && (ctr r).loadsDone &&
      ((ctr r).myTile.counter 63).rights.getLsbD 0 == (r == 1)) := by decide +kernel

/-! ### Vectors, conversions, engines -/

/-- A state with a shape and these values in V1 and V3. -/
def vs (shape : Word) (v1 v3 : VReg) : State :=
  (xs []).setMyCtx { (xs []).myCtx with vshape := shape, v := [(1, v1), (3, v3)] }
/-- One row of four columns of 32 bits. -/
def v4 : State := vs 0x2060 0x40000000030000000200000001 0x1000000010000000100000001
/-- d, a, b, e are 1, 2, 3 and 4, of type i32. -/
def vf : RegF := ⟨true, 0, 0, 4, 4, 3, 2, 1⟩

/-- The last element of a register, of 32 bits; a pipe, and none owned. -/
theorem witness_VectorIssue :
    (1 ≤ 32 ∧ [511].Nodup ∧ ([511].all fun e => decide (32 * (e + 1) ≤ 16384 ∧ (fun _ => 2 ^ 32 - 1) e < 2 ^ 32)) ∧ num 2 ≠ num 1) ∧
    v4.myPipe = some 0 ∧
    ({ v4 with cfg := { v4.cfg with owner := [(5, 1), (6, 1)] } } : State).myPipe = none := by decide +kernel

theorem witness_VectorArithmetic :
    ([Instr.vadd vf, .vsub vf, .vmul vf, .vfma vf, .vfms vf, .vmin vf, .vmax vf, .vabs vf, .vneg vf, .vexp2 { vf with t1 := 8 },
        .vlog2 { vf with t1 := 8 }, .vrcp { vf with t1 := 8 }, .vrsq { vf with t1 := 8 }, .vdot4 vf].all fun i =>
      (laneResult i v4).any (fun x => width x.1.t1.toNat == v4.shapeW && meets (v4.occupy x.2.2.1) (fun _ => true)) && ready i v4) ∧
    -- a narrower type: sub-elements
    ((laneResult (.vadd { vf with t1 := 0 }) v4).any (fun x => x.2.1 && decide (width x.1.t1.toNat < v4.shapeW)) ∧
      ready (.vadd { vf with t1 := 0 }) v4) ∧
    ([Instr.vshl vf, .vshr vf, .vsra vf].all fun i => (shiftResult i v4).any (fun x => decide (width x.1.t1.toNat ≤ v4.shapeW)) &&
      ready i v4) := by decide +kernel

theorem witness_VectorBits :
    ([Instr.vand { vf with e := 0 }, .vor { vf with e := 0 }, .vxor { vf with e := 0 }, .vnot { vf with b := 0, e := 0 }].all fun i =>
      (bitwise i).isSome && wf i && ready i v4) ∧ vsOk v4.myCtx.vshape ∧ width 4 ≤ v4.shapeW ∧
    meets (v4.occupy false) (fun _ => true) ∧ ready (.vsel { vf with e := 0xC2 }) v4 ∧ width 4 = v4.shapeW := by decide +kernel

/-- An ordinary predicate and, with two stages, a stage predicate as destination. -/
theorem witness_PredicateResults :
    let st := v4.setMyCtx { v4.myCtx with lctl := mkLctl 1 false 2 0 0 }
    (ready (.vcmp { vf with d := 0xC7 }) v4 ∧ width 4 = v4.shapeW ∧ v4.myCtx.isStage 7 = false ∧
      meets (v4.occupy false) (fun _ => true)) ∧
    (ready (.vcmp { vf with d := 0xC5 }) st ∧ st.myCtx.isStage 5) ∧
    ([Instr.pand r0, .por r0, .pxor r0, .pandn r0, .pnot r0].all fun i => ready i v4 && ready i st) ∧
    v4.myCtx.isStage (num r0.d) = false ∧ st.myCtx.isStage (num r0.d) ∧ ready (.pset ⟨true, 0, 4095, 0, 0, 0xC7⟩) v4 ∧
    ready (.pcnt { r0 with a := 0xC7 }) v4 := by decide +kernel

/-- 32 columns and 33; 1,024 elements and 2,048. -/
theorem witness_VectorPermutes :
    let f : RegF := ⟨true, 0, 0, 0, 0, 3, 2, 1⟩
    (ready (.vtrans f) (vs 0x3E0 0 0) ∧ vsOk 0x3E0 ∧ width 0 = (vs 0x3E0 0 0).shapeW ∧ (vs 0x3E0 0 0).shapeC = 32 ∧
      meets ((vs 0x3E0 0 0).occupy false) (fun _ => true)) ∧
    (ready (.vtrans f) (vs 0x400 0 0) ∧ vsOk 0x400 ∧ width 0 = (vs 0x400 0 0).shapeW ∧ (vs 0x400 0 0).shapeC = 33) ∧
    (ready (.vshuf f) (vs 0x7FF 0 0) ∧ vsOk 0x7FF ∧ (vs 0x7FF 0 0).shapeN = 2048) ∧
    (ready (.vshuf f) (vs 0x3FF 0 0) ∧ vsOk 0x3FF ∧ (vs 0x3FF 0 0).shapeN = 1024 ∧
      meets ((vs 0x3FF 0 0).occupy false) (fun _ => true)) := by decide +kernel

theorem witness_RowsAndColumns :
    vsOk v4.myCtx.vshape ∧ meets (v4.occupy false) (fun _ => true) ∧ width 4 = v4.shapeW ∧
    wf (.vbcast { vf with e := 0, b := 0 }) ∧ ready (.vbcast { vf with e := 0, b := 0 }) v4 ∧
    ([Instr.vrowb vf, .vcolb vf, .vrsum vf, .vcsum vf, .vrmax vf, .vcmax vf].all fun i => ready i v4) ∧
    ([(0 : BitVec 10), 1, 2].all fun m => wf (.viota ⟨true, 0, m, 4, 0, 0, 0, 1⟩) && ready (.viota ⟨true, 0, m, 4, 0, 0, 0, 1⟩) v4 &&
      bit (v4.myCtx.pred 0) 3) := by decide +kernel

/-- An element inside the shape and the first outside; the greatest legal shape of bytes, and one that is too large. -/
theorem witness_ElementsAndShape :
    ([(3 : Word), 4].all fun n => let s := v4.setMe { v4.me with x := [(3, n)] }
      meets (s.occupy false) (fun _ => true) && ready (.vmovs { vf with e := 0 }) s && ready (.vins { vf with e := 0 }) s &&
        decide (width 4 = s.shapeW)) ∧
    ([(0x1FEF : BitVec 24), 0x1FF0, 0x3000].all fun n => ready (.vshape ⟨true, 0, n, 0, 0, 0⟩) v4) := by decide +kernel

/-- Lanes with room for one record and none; records to pop and to balance. -/
theorem witness_ConditionalStreams :
    let lanes := fun (n : Nat) => v4.setMyTile { v4.myTile with sbs := (List.range 4).map (fun l => (2 * 128 + l, List.replicate n 7)) }
    let push : Instr := .cspush { vf with d := 0xC2, b := 0, e := 0 }
    let pop : Instr := .cspop { vf with a := 0xC2, b := 0, e := 0 }
    width 4 = v4.shapeW ∧ wf push ∧ wf pop ∧
      ([15, 16].all fun n => ready push (lanes n) && ready pop (lanes n) && ready (.csbal { r0 with d := 0, a := 0xC2, b := 0 }) (lanes n) &&
        meets ((lanes n).occupy false) (fun u => (u.myTile.lane 2 3).length == n)) := by decide +kernel

theorem witness_Conversions :
    ([Instr.cvt { vf with t1 := 9, m := 8 }, .xunp { vf with t1 := 8, m := 13 }, .xpack { vf with t1 := 13, m := 8 },
        .xscale { vf with t1 := 8, m := 8 }, .xfp6j { vf with t1 := 8, m := 1 }, .xshdec { vf with t1 := 8, m := 1 }].all fun i =>
      ready i v4 && (convResult i v4).any (fun x => decide (v4.shapeN ≤ x.2.1) &&
        meets (xStart v4 (width x.1.t1.toNat :: x.2.2.1)) (fun _ => true))) ∧
    (ready (.cvti { rf with m := 8, b := 0 }) v4 ∧ meets (v4.occupyFor 1 false) (fun _ => true)) ∧
    (ready (.xfp6s { vf with t1 := 1, m := 8 }) v4 ∧ meets (xStart v4 [6, 32]) (fun _ => true) ∧ v4.myCtx.count < 63) ∧
    (ready (.xshenc { vf with t1 := 14, m := 8 }) v4 ∧ meets (xStart v4 [8, 32]) (fun _ => true) ∧ v4.shapeN ≤ 2048) := by
  decide +kernel

/-- Operands 4, 5 and 6 of every M and C form, at values that its checks let through. -/
def engineRuns : List (Instr × List (Nat × Word)) :=
  let f : EngF := ⟨true, 0, 0, false, 1, 6, 5, 4, 0xC1⟩
  let m : List (Nat × Word) := [(4, 0x100), (5, 0), (6, 0x200)]
  [(.ldstat { f with lay := 3 }, m), (.mma f, m), (.attn { f with m := 9 }, m), (.aclr f, m), (.ard f, m), (.awr { f with m := 32 }, m),
    (.ascl f, m), (.msmx { f with unit := 1 }, m), (.mgo f, m), (.cgo f, m),
    (.cpy f, [(4, kva), (5, kva), (6, 0xFFFFFFFF)]), (.gath { f with m := 7 }, [(4, kva), (5, 0x100), (6, kva)]),
    (.scat { f with m := 7 }, [(4, kva), (5, 0x100), (6, kva)]), (.decomp f, [(4, kva), (5, 0x100), (6, 0)]),
    (.slabmv f, m.take 0), (.dsend f, [(4, 0x1000), (5, 0x1007), (6, 0x1000)]), (.spull f, [(4, 0x1000), (5, 0x1000)]),
    (.sdrop f, [(4, 0x1000)]), (.sfwd f, [(4, 0x1000), (5, 0x1007)]), (.mcst f, [(4, 0x100), (5, 0x80)]),
    (.fred f, [(4, 0x100), (5, 0x200), (6, 5)]), (.tierpf f, [(4, 0x1000), (5, 0x1000)]),
    (.nvrd f, [(4, 0x100000000000000), (5, kva)]), (.nvwr f, [(4, 0x100000000000000), (5, kva)]), (.netq f, [(4, 0x1C0), (5, 63)])]

/-- Every form queues its command; X4 = 1 fails the alignment check of one; 16 commands leave a half no place. -/
theorem witness_EngineIssue :
    (engineRuns.all fun e => let s := if (opcode e.1).1 == 4 then xs e.2 else as e.2
      ready e.1 s && (engineCmd e.1 s).any (fun x => meets x.2 (fun c => s.myTile.room c))) ∧
    (let s := xs [(4, 1)]
     let i : Instr := .ldstat ⟨true, 0, 0, false, 3, 0, 0, 4, 0xC1⟩
     ready i s ∧ (engineCmd i s).any (fun x => match x.2 with | .error e => e.1 == cMISALIGN | .ok _ => false)) ∧
    (let s := (xs [(4, 0x100)]).setMyTile { (xs []).myTile with cmds := List.replicate 16 { seq := 0, i := .fullReset, queues := [0] } }
     let i : Instr := .ldstat ⟨true, 0, 0, false, 3, 0, 0, 4, 0xC1⟩
     ready i s ∧ (engineCmd i s).any (fun x => meets x.2 (fun c => !s.myTile.room c))) := by decide +kernel

theorem witness_EngineOperands :
    let f : EngF := ⟨true, 0, 0, false, 1, 6, 5, 4, 0xC1⟩
    let s := xs [(4, 0x100), (5, 0)]
    let own := fun (s : State) (g : EngF) => (halves g).all (fun q => s.cfg.engineOwner 0 0 q == s.myCtx.part &&
      !splitArray s.cfg 0 0 q) && s.cfg.engineOwner 0 0 4 == s.myCtx.part
    (own s { f with m := 16 } ∧ (s.reg 4).toNat % 128 = 0 ∧ (s.reg 4).toNat + 128 * ldLines f.m ≤ 2 ^ 22) ∧
    (bits (s.reg 5) 63 32 = 0 ∧ rowsIn (halves f) (rowsOf (s.reg 5)).row0 (rowsOf (s.reg 5)).n ∧
      (s.reg 4).toNat + 128 * rowLines (bits f.m 3 0) ≤ 2 ^ 22) ∧
    (let s := as [(4, kva), (5, kva), (6, 0xFFFFFFFF)]
     own s f ∧ bits (s.reg 4) 63 57 = 0 ∧ bits (s.reg 5) 63 57 = 0 ∧ s.reg 6 ≠ 0 ∧ bits (s.reg 6) 63 32 = 0) ∧
    -- a level of a nest, the stationary and the streamed base
    ([(5 : BitVec 11), 6, 7].all fun m => ready (.mnest { f with m := m, lay := 0, e := 0, d := 0 }) s &&
      ready (.cnest { f with m := m, lay := 0, e := 0, d := 0 }) (as [(4, 0x100), (5, 0)])) ∧
    (bits (0x100 : Word) 63 48 = 0 ∧ rowsZero 0 ∧ eaddrOk 0x100 ∧ eaddrOk 0 ∧ bits (0x100 : Word) 63 14 = 0) ∧
    ([(0 : BitVec 11), 1, 2].all fun m => let g : EngF := ⟨true, m, 4, false, 0, 0, 0, 0, 0⟩
      ready (.mplane g) s && wf (.mplane g) && own s g) := by decide +kernel

/-- A streamed row of i8 against a plane of i8; a row to clear; a row to write. -/
theorem witness_MatrixPasses :
    let t : Tile := { lines := (List.range 5).map (fun k => (2 + k, { full := true })) }
    let f : EngF := ⟨true, 0, 0, false, 1, 6, 5, 4, 0xC1⟩
    let run := fun (i : Instr) (va : Word) => ({ seq := 0, i := i, va := va, queues := [0], st := .running } : Cmd)
    ({} : Plane).ty ≤ 1 ∧ ({} : Plane).axis ≠ 1 ∧ pairing ({} : Plane).ty ({} : Plane).depth 0 = some .int ∧
      t.plane (physPlane {} 0 0 [] 0 0) = {} ∧ t.rowBusy (run (.mma f) 0x100) 0 0 = false ∧
      meets (t.cmdRead 0 0 (run (.mma f) 0x100) 0x100 128 (some 1) false) (fun x => x.2.accs == t.accs) ∧
      t.rowBusy (run (.aclr f) 0) 0 0 = false ∧
      meets (t.cmdRead 0 0 (run (.awr f) 0x100) 0x100 512 (some 1) false) (fun x => x.2.accs == t.accs) := by decide +kernel

/-! ### Threads, traps and system forms -/

/-- Counter 63 reached exactly, and one short of what can come; an entry for the last tile. -/
theorem witness_WaitsAndAnswers :
    let s := xs [(5, 0xFFFFFFFF)]
    let at_ := fun (v : BitVec 32) => s.setMyTile (s.myTile.setCounter 63 { val := v, rights := 0x80 })
    let w : ImmF := ⟨true, 0, 4, 0, 5, 0xFF⟩
    let thr : BitVec 32 := (s.reg 5 + w.imm.signExtend 64).setWidth 32
    (ready (.waitb w) (at_ 3) ∧ (((at_ 3).myTile.counter 63).val - thr).toInt ≥ 0) ∧
    (ready (.waitb w) (at_ 2) ∧ (((at_ 2).myTile.counter 63).val - thr).toInt < 0 ∧ ((at_ 2).myTile.ctx 7).status = .free) ∧
    (let ans := fun (a : Nat) => s.setMe { s.me with answer := some a }
     [0, cPERM_FAULT].all fun a => ready (.enqr ⟨true, 0, 0, 0, 0, 5, 4, 0⟩) (ans a) && ready (.hmsg ⟨true, 0, 0, 0, 6, 5, 4, 0⟩) (ans a)) ∧
    (let s := xs [(4, 0x100), (5, 31 * 2 ^ 9)]
     let s := s.setMyTile { s.myTile with scr := Memory.write [] 0x100 8 0x001A00000018C0D2 }
     let i : Instr := .aclr ⟨true, 1, 5, false, 0, 0, 0, 0, 0xC6⟩
     ready (.enqr ⟨true, 0, 0, 0, 0, 5, 4, 0⟩) s ∧ s.me.answer = none ∧ s.me.awaits = false ∧ bits (s.reg 5) 63 14 = 0 ∧
       bits (s.reg 5) 8 0 = s.iss.peer ∧ s.iss.peer < s.peers ∧ (s.reg 4).toNat % 32 = 0 ∧
       meets (s.scratch (s.reg 4)) (fun x => x.2.me == s.me && x.2.myCtx.part == s.myCtx.part && x.2.cfg == s.cfg && x.2.storesDone &&
         enqrWord (BitVec.ofNat 64 (x.2.myTile.rd x.1 8)) == some i) ∧
       (enqrEngines i).any (fun es => es.all (fun e => s.cfg.engineOwner 0 31 e == s.myCtx.part))) := by decide +kernel

/-- Group 63: empty, with another member, and with the issuing stream. -/
theorem witness_GroupForms :
    let s := xs [(4, 7)]
    let f : ImmF := ⟨true, 0, 63, 0, 4, 0⟩
    let grp := fun (m : List StreamId) => s.setMyDie (s.myDie.setGroup 63 { key := 7, members := m })
    let bar := s.setMe { s.me with wait := some ⟨0, true, .barrier 63, true, [], false⟩ }
    (ready (.join f) s ∧ (s.myDie.group 63).members = []) ∧
      (ready (.join f) (grp [9]) ∧ ((grp [9]).myDie.group 63).owner = s.myCtx.part ∧ s.myId ∉ [9] ∧ s.reg 4 = 7) ∧
      (ready (.join f) (grp [s.myId]) ∧ ready (.leave f) (grp [s.myId])) ∧
      (ready (.gbar f) bar ∧ bar.me.granted (.barrier 63)) := by decide +kernel

/-- An operator on tile 0; context 7 of the same tile to start; the other stream running or ended. -/
theorem witness_ThreadsStartAndEnd :
    let base := (xs [(4, 0x1000), (5, 0), (6, 7 * 2 ^ 14)]).setMyCtx { (xs [(4, 0x1000), (5, 0), (6, 7 * 2 ^ 14)]).myCtx with op := 3 }
    let s := base.setDie 0 { base.die 0 with ops := [(3, { live := true })], tiles := [(0, { base.myTile with bound := some 3 })] }
    let e := s.reg 6
    (ready (.tstart ⟨true, 0, 0, 0, 6, 5, 4, 0⟩) s ∧ bit (s.reg 4) 0 = false ∧ bits (s.reg 4) 63 57 = 0 ∧ bits e 63 18 = 0 ∧
      bits e 8 0 = 0 ∧ bits e 13 9 = 0 ∧ bits e 16 14 = 7 ∧ bit e 17 = false ∧ (s.tile 0 0).noBind.contains 7 = false ∧ 0 < s.peers ∧ ¬ (s.reg 4 = 0 ∧ s.reg 5 = 0) ∧
      (s.tile 0 0).bound = some s.myCtx.op ∧ (s.myDie.op s.myCtx.op).live ∧ s.cfg.binds 0 0 7 s.myCtx.part ∧ s.storesDone ∧
      ((s.tile 0 0).ctx 7).status = .free ∧ s.myCtx.op = 3) ∧
    ([StreamStatus.running, .texit, .dorm].all fun x => let s := s.setMyCtx { s.myCtx with acc := { status := x } }
      [Instr.texit ⟨true, 0, 0, 0, 0, 0, 0, 0⟩, .dorm ⟨true, 0, 0, 0, 0, 0, 0, 0⟩, .opend ⟨true, 0, 0, 0, 0, 0, 0, 0⟩].all (ready · s) &&
        !s.ctxBusy 0 0 0) := by decide +kernel

theorem witness_SystemForms :
    let f : RegF := ⟨true, 0, 0, 0, 0, 5, 4, 0⟩
    let s := xs []
    ready (.yield ⟨true, 0, 0, 0, 0, 0, 0, 0⟩) s ∧
      -- an engine entry, a granted and a dropped reservation
      (ready (.resv { f with b := 0 }) (xs [(4, 0)]) ∧
        (let s := (xs [(4, 0x102)]).setMe { (xs [(4, 0x102)]).me with wait := some ⟨0, true, .current, true, [], false⟩ }
         ready (.resv { f with b := 0 }) s ∧ bits (s.reg 4) 63 8 = 1 ∧ s.me.granted .current) ∧
        (ready (.resv { f with b := 0 }) (xs [(4, 0x105)]) ∧ ((xs []).myDie.op 0).current 5 1 = none ∧
          (xs [(4, 0x105)]).me.granted .current = false) ∧
        (ready (.resv { f with b := 0 }) (xs [(4, 0x100)]) ∧ bits ((xs [(4, 0x100)]).reg 4) 7 0 = 0 ∧
          (xs [(4, 0x100)]).me.granted .current = false)) ∧
      -- zone 15, all eight units for 1 ms, and no unit
      ([(0x10008 : Word), 0].all fun b => let s := xs [(4, 15), (5, b)]
        ready (.flowq f) s && bits (s.reg 4) 63 4 == 0 && bits b 15 4 == 0 && bits b 63 32 == 0 && decide (bits b 3 0 ≤ 8) &&
          (bits b 3 0 == 0 || bits b 31 16 != 0)) ∧
      (ready (.tlbi { f with m := 4 }) s ∧ s.reg 4 = 0 ∧ s.reg 5 = 0 ∧
        s.myDie.tiles.all (fun t => t.2.ctxs.all (fun c => c.2.part != 0 || c.2.answered))) ∧
      (let s := s.setMyCtx { s.myCtx with acc := { posted := [(3, 0, 0, 8)] } }
       ready (.tlbi { f with m := 4 }) s ∧ s.myTile.ctxs.all (fun c => c.2.part != 0 || c.2.answered) = false) ∧
      (let s := xs [(4, 0x1000), (5, 0xFFFFFF)]
       ready (.tlbi { f with m := 2 }) s ∧ bits (s.reg 4) 11 0 = 0 ∧ bits (s.reg 4) 63 57 = 0 ∧ bits (s.reg 5) 63 24 = 0) ∧
      -- the graph sequencer's context, and another
      (let s := slabbed (xs [(4, kva)])
       let t := { s with cfg := { s.cfg with gseq := [(0, 0)] } }
       ready (.ckpt { f with b := 0 }) s ∧ s.cfg.seqCtx 0 0 ≠ (0, 0) ∧ ready (.ckpt { f with b := 0 }) t ∧ t.cfg.seqCtx 0 0 = (0, 0) ∧
         bits (t.reg 4) 63 57 = 0 ∧ bits (t.reg 4) 11 0 = 0 ∧ t.myDie.ops.any (fun o => o.2.live && !o.2.hook && o.2.part == 0) = false ∧
         (let u := t.modPart 0 0 fun x => { x with ckpt := true }
          meets (storeLines u (t.reg 4).toNat (u.ckptBytes 0 0) ((u.ckptBytes 0 0).length / 128 + 1)) (fun _ => true))) := by
  decide +kernel

/-- With a handler, in a handler, and without; the greatest cause and detail. -/
theorem witness_TrapsTakenAndReturned :
    let s := xs []
    let h := s.setMe { s.me with tvec := 0x1000, epc := 0x80 }
    let m := h.setMe { h.me with tmode := true }
    ready (.trap ⟨true, 0, 255, 0, 0, 0⟩) s ∧ 255 < 256 ∧ (h.stream 0 0 0 true).tvec ≠ 0 ∧ (h.stream 0 0 0 true).tmode = false ∧
      (s.stream 0 0 0 true).tvec = 0 ∧ (m.stream 0 0 0 true).tmode = true ∧ s.me.snapLoad = none ∧
      (let g : GLoad := { op := .load, ty := 6, dest := 7, bkb := 0, bank := false, ea := 0, size := 8, peer := 0, addr := 0, vf := 0 }
       (m.setMe { m.me with snapLoad := some g }).me.snapLoad ≠ none) ∧
      (ready (.eret ⟨true, 0, 0, 0, 0, 0, 0, 0⟩) m ∧ m.me.tmode ∧ m.iss.wpc = m.iss.ipc ∧ m.me.gload = none ∧ m.myCtx.inflight = [] ∧
        (m.trapReturn 0 0 0 true).myCtx.count ≤ 64) ∧
      ready (.eret ⟨true, 0, 0, 0, 0, 0, 0, 0⟩) h := by decide +kernel

/-- The first and the last register of each bank, and an index below, between and above the tables. -/
theorem witness_ControlRegisters :
    ([(0x010 : BitVec 24), 0x011, 0x013, 0x015, 0x016, 0x017, 0x019, 0x020, 0x02B, 0x030, 0x031, 0x032, 0x033, 0x100, 0x13F, 0x140,
        0x17F, 0x200, 0x2FF, 0x321, 0x322, 0x3C0, 0x3D1, 0x3D2, 0x3F0, 0x401].all fun n =>
      (controlValue n.toNat (xs [])).isSome && ready (.getc ⟨true, 0, n, 0, 0, 4⟩) (xs [])) ∧
    ([(0x013 : BitVec 24), 0x014, 0x016, 0x030, 0x031, 0x140, 0x17F, 0x321, 0x3D1, 0x034, 0x100, 0x187, 0x2FF, 0x401].all fun n =>
      (controlWrite n.toNat 0x2000 (xs [(4, 0x2000)])).isSome && ready (.setc ⟨true, 0, n, 0, 4, 0⟩) (xs [(4, 0x2000)])) ∧
    (ready (.setc ⟨true, 0, 0x010, 0, 4, 0⟩) (xs [(4, 0x2060)]) ∧ (xs []).iss.exe ∧ vsOk 0x2060) ∧
    ([(0x00F : BitVec 24), 0x421].all fun n => ready (.getc ⟨true, 0, n, 0, 0, 4⟩) (xs []) && ready (.setc ⟨true, 0, n, 0, 4, 0⟩) (xs []) &&
      decide (n.toNat < 0x010 ∨ 0x420 < n.toNat)) ∧
    ([0x140, 0x17F].all fun n => ({ setcs := [(n, 1)] } : Tile).setcs == [(n, 1)]) := by decide +kernel

/-- Slot 0xFFF in a state, with X4 naming it and X5 as given; scratchpad at 0x100 holds a tree of one node. -/
def slotted (x : Slot) (b : Word) : State :=
  let s := xs [(4, 0xFFF), (5, b)]
  let s := s.setMyTile { s.myTile with scr := Memory.write [] 0x100 16 0xFF00000001 }
  s.setMyDie { s.myDie with slots := [(0xFFF, x)], rules := [(0, 0x8000000000000000)] }

theorem witness_SequenceForms :
    let f : RegF := ⟨true, 0, 0, 0, 0, 5, 4, 7⟩
    let own := fun (s : State) (x : Slot) => decide (s.myDie.slot 0xFFF = x ∧ x.state ≠ 0 ∧ s.cfg.partOf s.iss.peer x.vf = s.myCtx.part)
    -- no other form waits at the manager, so that the turn comes at once
    let kept := fun (s w : State) => w.myDie.smq == [] && meets w.smTurn (fun u => u.myDie == w.myDie && u.myTile == w.myTile &&
      u.myCtx == s.myCtx && u.iss == s.iss && u.cfg == s.cfg)
    (let x : Slot := { state := 1 }
     let s := slotted x 0x100
     ready (.seqTree f) s ∧ bits (s.reg 4) 63 12 = 0 ∧ bits (s.reg 5) 63 39 = 0 ∧ bits (s.reg 5) 38 32 + 1 = 1 ∧
       meets (s.seqAddr (s.reg 5) 16) (fun y => kept s y.2 && own y.2 x && treeOk [⟨1, 0xFF, 0⟩] 0 x &&
         !(y.2.myTile.checkLine (y.1 / 128)).1 && y.2.myTile.seqRead y.1 16 == 0xFF00000001)) ∧
    (let x : Slot := { state := 2, nodes := [⟨1, 0xFF, 0⟩] }
     let s := slotted x 0x180
     ready (.seqCheck f) s ∧ meets (s.seqAddr (s.reg 5) 32) (fun y => kept s y.2 && own y.2 x &&
       !(y.2.myTile.checkLine (y.1 / 128)).1 && y.2.myTile.seqRead y.1 32 == 0)) ∧
    (let x : Slot := { state := 3, nodes := [⟨1, 0xFF, 0⟩], checks := [⟨0, 0, 0⟩, ⟨0, 0, 0⟩] }
     let s := slotted x 0x180
     ready (.seqWinnow f) s ∧ bits (s.reg 5) 63 32 = 0 ∧ meets (s.seqAddr (s.reg 5) 128) (fun y => kept s y.2 && own y.2 x &&
       !y.2.scratchClash y.1 128 && bit (SMap.get (0 : Word) y.2.myDie.rules 0) 63)) ∧
    ([((0x8000000000000005 : Word), ({ state := 6, len := 5 } : Slot)), (0x8000000000000000, { state := 1 }), (0, { state := 4, path := [0, 1] })].all fun e =>
      ready (.seqRoll f) (slotted e.2 e.1) && own (slotted e.2 e.1) e.2 &&
        kept (slotted e.2 e.1) (slotted e.2 e.1)) ∧
    ([1, 3, 4, 6].all fun n => ready (.seqPreempt f) (slotted { state := n } 0) && own (slotted { state := n } 0) { state := n }) ∧
    ([(5, (3 : Word)), (4, 0), (6, 3)].all fun e => ready (.seqResume f) (slotted { state := e.1 } e.2) &&
      (slotted { state := e.1 } e.2).myDie.claims == [] && (slotted { state := e.1 } e.2).myDie.swaps == [] && bits e.2 63 2 == 0) ∧
    ([(0 : Word), 1, 2].all fun b => ready (.seqStat f) (slotted { state := 2 } b) && bits b 1 0 != 3) := by decide +kernel

/-! ### Events -/

/-- Context 7 of tile 31 of die 7; its execute stream; that tile; and that die. -/
def onCtx (x : Ctx) : State := State.reset.setCtx 7 31 7 x
def onExe (x : Stream) : State := onCtx { exe := x, status := .running }
def onTile (t : Tile) : State := State.reset.setTile 7 31 t
def onDie (d : Die) : State := State.reset.setDie 7 d
/-- The same at a time. -/
def at_ (n : Nat) (s : State) : State := { s with dtime := BitVec.ofNat 64 n }

theorem witness_TileEvents :
    let due : Pending := { exe := true, w := .x 63 5, left := 0 }
    let g : GLoad := { op := .load, ty := 6, dest := 7, bkb := 0, bank := false, ea := kva, size := 8, peer := 0, addr := 0, vf := 0, data := some 9 }
    let e : QEntry := { src := .scratch 0x100 6, age := 1 }
    let q := (onTile { ctxs := [(7, { queues := [(0, ⟨[e], [1, 5]⟩)] })], lines := [(2, { full := true })] })
    (onCtx { inflight := [due] }).powered ∧ ((onCtx { inflight := [due] }).ctx 7 31 7).inflight.filter (·.due) = [due] ∧
      due.shift = none ∧ e ∈ ((q.ctx 7 31 7).queue 0).entries ∧ e.age = 1 ∧
      (onExe { gload := some g }).stream 7 31 7 true = { gload := some g } ∧ ((onExe { gload := some g }).ctx 7 31 7).longInFlight true = false ∧ g.cause = 0 ∧ sel g.dest = 0 ∧ num g.dest ≠ 0 ∧
      ((q.ctx 7 31 7).queue 0).entries = [e] ∧ ((q.tile 7 31).lineInfo 2).full ∧ (q.tile 7 31).good 2 ∧
      meets ((q.tile 7 31).resolve 0x100) (· == 0x100) := by decide +kernel

theorem witness_WaitsEndOrTrap :
    let w := fun (k : WaitKind) => onExe { status := .running, wait := some ⟨0, true, k, false, [], false⟩ }
    let t := fun (k : WaitKind) (t : Tile) => State.reset.setTile 7 31 { t with ctxs := ((w k).tile 7 31).ctxs }
    let full := t (.lines [0, 32767]) { lines := [(0, { full := true }), (32767, { full := true })] }
    let orphan := t (.counter 63 5) { ctrs := [(63, { val := 4 })] }
    (([0, 32767].all fun n => ((full.tile 7 31).lineInfo n).full) ∧ (full.stream 7 31 7 true).wait = some ⟨0, true, .lines [0, 32767], false, [], false⟩) ∧
      (let s := t (.counter 63 4) { ctrs := [(63, { val := 4 })] }
       (((s.tile 7 31).counter 63).val - 4).toInt ≥ 0) ∧
      (let s := t (.version 255 4) { bufs := [(255, { version := 4 })] }
       (((s.tile 7 31).buffer 255).version - 4).toInt ≥ 0) ∧
      (let s := t (.publish 255) {}
       (s.tile 7 31).shadowBusy ((s.tile 7 31).buffer 255) = false) ∧
      (orphan.tile 7 31).orphan 63 5 ∧
      (let s := at_ 1000000 (w .poll)
       (s.stream 7 31 7 true).wait.any (fun x => x.kind != .answer && x.limited && !x.ready && x.since + (s.ctx 7 31 7).waitto.toNat == s.now) ∧
         ((s.ctx 7 31 7).stream false).tmode = false ∧
         (s.ctx 7 31 7).waitto ≠ 0) ∧
      (let s := onExe { status := .running, async := [cOVERRUN] }
       cOVERRUN ∈ (s.ctx 7 31 7).exe.async ∧ (s.ctx 7 31 7).exe.status = .running ∧ (s.ctx 7 31 7).takesAsync) ∧
      ((onExe {}).ctx 7 31 7).status = .running ∧ ((onExe {}).die 7).power.point 1 < 15 := by decide +kernel

/-- A command of a half and one of the copy engine: queued, finished, stalled at an empty line, held at a full one. -/
theorem witness_CommandsMove :
    [0, 4].all (fun q =>
      let c : Cmd := { seq := 9, i := if q == 4 then .cgo ⟨true, 0, 0, false, 0, 0, 0, 0, 0xFF⟩ else .aclr ⟨true, 0, 0, false, 0, 0, 0, 0, 0xFF⟩,
                       queues := [q], ctr := 0xFF, entered := true }
      let s := fun (c : Cmd) => onTile { cmds := [c], lines := [(2, { full := true })] }
      ((s c).tile 7 31).cmd 9 == some c && (c.queues.contains 4 == (q == 4)) && ((s c).tile 7 31).atHead c && (s c).mayStart 7 31 c &&
        !c.badCurrent ((s c).die 7).power 31 &&
        ((s { c with st := .finished }).tile 7 31).retirable { c with st := .finished } && c.counter == some 63 &&
        ((s { c with stall := .empty 2 }).tile 7 31).lineInfo 2 == { full := true } && !((s c).tile 7 31).backed 3) = true := by
  decide +kernel

/-- A packet from die 0 to die 7. -/
def pk : Packet := { kind := 0x01, src := 0, dst := 7, size := 8 }
def onNet (s : State) (k : Packet) : State := { s with net := [k] }

/-- A slot of each tier to inject; a listed kind and one beyond the list; a request that its frame lets through and one
that it does not. -/
theorem witness_FabricSlots :
    ([0, 1, 2].all fun n => let k := { pk with tier := n, src := 7, dst := 0 }
      ((onNet State.reset k).nextInjection 7).any (fun x => x.1 == n && (onNet State.reset k).waiting 7 n x.2 == [k])) ∧
    (let k := { pk with tier := 1, src := 7, dst := 0 }
     let dir := State.reset.dirOf k
     let s := onNet (onDie { starve1 := [(dir, 64)] }) k
     dir < 4 ∧ s.waiting 7 1 dir = [k] ∧ 64 ≤ SMap.get 0 (s.die 7).starve1 dir ∧
       (List.range dir).all (fun e => decide (SMap.get 0 (s.die 7).starve1 e < 64))) ∧
    (0 < 8 * 2 ∧ 15 < 8 * 2 ∧ (route 2 0 15).getLast?.map (·.to_) = some 15 ∧ (route 2 0 7).length ≤ 4) ∧
    (let y := { pk with reserved := true, booked := some 0, taken := true }
     [{ pk with taken := true }, { y with booked := some 1 }].all (fun x => x.taken && x.dst == 7 && y.dst == 7 && y.reserved &&
       (!x.reserved || decide (y.booked.getD 0 < x.booked.getD 0)))) ∧
    ([0x12, 0x13].all fun n => let k := { pk with kind := n, injected := true }
      (onNet State.reset k).arriving 7 == some k && !(onNet State.reset k).gone 7 0) ∧
    ([(0 : Nat), 5].all fun key => [0x01, 0x03, 0x05].all fun n =>
      let k := { pk with kind := n, key := key, taken := true, addr := 0x1000, bytes := [1, 2, 3, 4, 5, 6, 7, 8], op := .atom 0 1, ty := 6 }
      let s := onNet (onDie { keys := [(5, some 0)] }) k
      s.taken 7 n (fun k => !s.heldLoc k.loc) == some k && (s.consume k).served k == (key == 5) && k.dst == 7 &&
        (s.consume k).badLoc 7 k.loc 8 == 0) := by decide +kernel

theorem witness_ResponsesAndArrivals :
    -- responses
    (let r : Req := { tag := 3, kind := 0x01, dst := 0, since := 0, tile := 31, ctx := 7, exe := true }
     let g : GLoad := { op := .load, ty := 6, dest := 7, bkb := 0, bank := false, ea := 0, size := 8, peer := 0, addr := 0, vf := 0, tag := some 3 }
     let s := fun (r : Req) (k : Packet) => onNet ((onDie { tiles := [(31, { ctxs := [(7, { exe := { gload := some g, posted := [(3, 0, 0, 8)] } })] })], reqs := [r] })) k
     ([0x02, 0x06].all fun n => let k := { pk with kind := n, tag := 3, taken := true }
       (s r k).taken 7 n (fun _ => true) == some k && ((s r k).die 7).reqOf k.tag == some r && ((s r k).stream 7 31 7 true).gload == some g) ∧
     (let k := { pk with kind := 0x04, tag := 3, taken := true }
      (s { r with kind := 0x03 } k).taken 7 0x04 (fun _ => true) = some k) ∧
     (let k := { pk with kind := 0x07, tag := 3, taken := true, args := [0x03] }
      (s { r with kind := 0x03 } k).taken 7 0x07 (fun _ => true) = some k ∧ k.arg 0 = 0x03) ∧
     r.since + 100000 ≤ (at_ 100000 (s r pk)).now ∧ r.queue = none) ∧
    -- arrivals at a tile with a dormant context
    (let tl : Tile := { bound := some 0, ctxs := [(7, { status := .dormant })] }
     let k := { pk with kind := 0x0F, tile := 31, taken := true, addr := 0x3FFF80, size := 128, bytes := List.replicate 128 1, args := [0x1000] }
     let s := onNet (onTile tl) k
     s.taken 7 0x0F (fun k => s.messageCause 7 k != 0 || (s.tile 7 k.tile).handlers.length < 16) = some k ∧ s.messageCause 7 k = 0 ∧
       (let far := { k with addr := 0x3FFFFF }
        let s := onNet (onTile tl) far
        s.taken 7 0x0F (fun k => s.messageCause 7 k != 0 || (s.tile 7 k.tile).handlers.length < 16) = some far ∧ s.messageCause 7 far ≠ 0 ∧
          far.dst = 7 ∧ s.gone 7 far.src = false) ∧
       (s.tile 7 31).handlers = [] ∧ (s.tile 7 31).dormant none = some 7 ∧ meets ((s.tile 7 31).resolve k.addr) (· == 0x3FFF80) ∧
       (let m : Claim := { entry := 0x1000, x1 := 1, x2 := 2, x3 := 3, x4 := 4 }
        ((onTile { tl with handlers := [m] }).tile 7 31).handlers = [m] ∧ m.entry ≠ 0)) ∧
    (let e : Enqr := ⟨0, 0, 0, true, 0x001A00000018C0D2, 0, 0, 0, 0, 0, 0, 0, 0, 0⟩
     let s := onTile { enqr := [e] }
     let rest : Tile := { s.tile 7 31 with enqr := [] }
     (s.tile 7 31).enqr.erase e = [] ∧ (s.tile 7 31).nextEntry [] (s.tile 7 31).enqr = some e ∧ (enqrWord e.word).any (fun i =>
       match takeWord i { cfg := s.cfg, peers := s.peers, p := 7, t := 31, part := e.part, tile := rest } e.va e.vb e.ve with
       | .cmd r => meets r (fun _ => true) | _ => false)) ∧
    (let k := { pk with kind := 0x10, taken := true, args := [0x3FFF, 1] }
     (onNet State.reset k).taken 7 0x10 (fun _ => true) = some k ∧
       (SMap.get ({} : SyncObj) ((onNet State.reset k).die 7).sync (k.arg 0)).owner = none) ∧
    (let o : SyncObj := { queue := [⟨7, 31, 7, true⟩] }
     (SMap.get ({} : SyncObj) ((onDie { sync := [(0x3FFF, o)] }).die 7).sync 0x3FFF) = o ∧ o.grants ∧ (onDie { sync := [(0x3FFF, o)] }).flushHeld 7 = false) ∧
    (let g : Group := { members := [511], required := [511], arrived := [511], isOpen := true }
     ((onDie { groups := [(63, g)] }).die 7).group 63 = g ∧ g.isOpen ∧ g.required.all (g.arrived.contains ·)) := by decide +kernel

/-! ### Launches, sequences and storage -/

/-- A launch whose graph of two entries, the second its end, stands in the KV slab. -/
def launched : State :=
  let s := slabbed (xs [])
  let ones := 0xFFFFFFFFFFFFFFFF
  s.setDie 0 { s.die 0 with launches := [(0, [{ id := 5, vf := 0, graph := kva }])], dram :=
    [(0x1000, 64, 2), (0x1040, 32, ones * 2 ^ 96), (0x1060, 32, ones * 2 ^ 96 + 2 * 2 ^ 64)].foldl (fun m e => Memory.write m e.1 e.2.1 e.2.2) [] }

/-- R224, R377: 2^128 − 2^104 and its opposite, of two packages, cancel exactly beside 2^−149 of a third. -/
theorem test_fred_exact : fredElem 0 [(8, 0x7F7FFFFF), (0, 1), (511, 0xFF7FFFFF)] = 1 := by decide +kernel
/-- R224: only −0 sums to −0; a NaN is canonical. -/
theorem test_fred_zero : fredElem 0 [(0, 0x80000000), (9, 0x80000000)] = 0x80000000 ∧ fredElem 0 [(0, 0x80000000), (9, 0)] = 0 ∧
    fredElem 0 [(0, 0xFF800000), (9, 0x7F800000)] = 0x7FC00000 := by decide +kernel

theorem witness_LaunchesAndStages :
    (let s := onDie { launchDue := [(23, 31, 2 ^ 448)], launches := [(0, [{ id := 5, vf := 0, bad := true }])] }
     (s.die 7).launchDue.find? (fun x => x.1 == 23 && x.2.1 == 31) = some (23, 31, 2 ^ 448) ∧ (SMap.get ({} : Tdisp) (s.die 7).tdisp 23).tearing = false ∧
       (s.die 7).launchesOf 0 = [{ id := 5, vf := 0, bad := true }]) ∧
    (launched.hook 0 0 = none ∧ (((launched.die 0).launchesOf 0).map (·.running.length)).sum < 8 ∧
      (launched.choose 0 0 (launched.cands 0 0)).any (fun c => c.i == 0) ∧ (launched.nextEntry 0 0).any (fun c => c.i == 0)) ∧
    -- a header that names no entry
    (let s := launched.modDie 0 fun d => { d with dram := [] }
     s.nextEntry 0 0 = none ∧ s.breaks 0 0 = some (5, cILLOP, 0xFFFF)) ∧
    (let s := onDie { ops := [(3, { live := true, tiles := [31], workDone := true })],
                      tiles := [(31, { bound := some 3, ctxs := [(7, { status := .dormant, op := 3 })] })] }
     s.opDone 7 3) ∧
    -- the last stage of three has its first input; the middle stage pops and pushes
    (let op : Op := { live := true, tiles := [31], stages := [{}, { q := [2], begun := true, depth := 2 }, { q := [4], depth := 2 }] }
     let s := onDie { ops := [(3, op)], tiles := [(31, { bound := some 3 })] }
     ((s.die 7).op 3).live ∧ 2 < ((s.die 7).op 3).stages.length ∧ (((s.die 7).op 3).stages.getD 2 {}).q ≠ [] ∧
       (s.freeOf 7 ((s.die 7).op 3)).isSome ∧
       (let u := ((xs [(4, 8)]).setMyCtx { (xs [(4, 8)]).myCtx with op := 3, stage := 1 })
        let u := u.setMyDie { u.myDie with ops := [(3, op)] }
        ((u.myDie.op 3).stages.getD 1 {}).q = [2] ∧ u.myCtx.release = false ∧ u.myCtx.count < 64 ∧ u.reg 4 ≠ 0 ∧
          (u.reg 4).getLsbD 0 = false ∧ ((u.myDie.op 3).stages.getD 2 {}).len < 2 ∧ u.storesDone ∧ u.loadsDone)) := by decide +kernel

theorem witness_SchedulerTimes :
    ((onDie {}).die 7).rebindAt < (at_ 10000 (onDie {})).now / 10000 ∧ ((onDie {}).die 7).periodAt < (at_ 1000 (onDie {})).now / 1000 ∧
    (((onDie {}).die 7).part 3).tickDue 2000000 ∧ (((onDie {}).die 7).part 3).switch = none ∧
    (let s := at_ 25000 (onDie { parts := [(3, { switch := some (0, [23], [22]) })], ops := [(3, { live := true, part := 3, vf := 22 })] })
     ((s.die 7).part 3).switch = some (0, [23], [22]) ∧ 0 + 25000 ≤ s.now ∧ (s.die 7).ops.all (fun e => !e.2.live || e.2.vf != 23)) ∧
    ([(400000, false), (500000, true)].all fun e => let s := at_ e.1 (onDie { ops := [(3, { live := true, overrun := e.2, tiles := [31] })] })
      ((s.die 7).op 3).live && !((s.die 7).op 3).hook && ((s.die 7).op 3).overrun == e.2 && decide (((s.die 7).op 3).since + e.1 ≤ s.now)) ∧
    -- a stage without input, one whose output is full, one that gains a context; a pipe; a stopped context
    (let op := fun (a b : List Word) => ({ live := true, tiles := [31], stages := [{}, { q := a, depth := 2 }, { q := b, depth := 1 }] } : Op)
     let x : Ctx := { status := .running, op := 3, stage := 1, exe := { status := .running } }
     let s := fun (a b : List Word) (cs : SMap Ctx) => onDie { ops := [(3, op a b)], tiles := [(31, { bound := some 3, ctxs := cs, pipes := [(0, { used := 1800 })] })] }
     let cs := fun (s : State) => (s.stageCtxs 7 3 1).filter (fun e => !(s.ctx 7 e.1 e.2).release)
     (cs (s [] [] [(6, x)])).getLast? = some (31, 6) ∧ 1 < (cs (s [2] [2] [(5, x), (6, x)])).length ∧
       (cs (s [2] [2] [(5, x)])).length ≤ 1 ∧ ((s [2] [] []).freeOf 7 (op [2] [])).isSome ∧
       (((s [] [] []).die 7).tiles.find 31).any (fun t => (t.pipes.find 0).isSome) ∧ (31, 6) ∈ (s [] [] [(6, x)]).opCtxs 7 3 ∧
       ((s [] [] [(6, x)]).ctx 7 31 6).exe.status = .running) ∧
    (let s := onDie { ops := [(3, { live := true, part := 3 })], tiles := [(31, { ctxs := [(7, { part := 3, op := 3, status := .stopped })] })] }
     (s.ctx 7 31 7).part = 3 ∧ (s.ctx 7 31 7).status = .stopped ∧ ((s.die 7).op 3).live) := by decide +kernel

/-- A command with its operands, slot 0xFFF as given, rule 63 valid, and quotas for a slab in each tier. -/
def managed (x : Slot) : State :=
  let s := (xs []).setMyCtx { (xs []).myCtx with smarg := 0x100007F }
  s.setMyDie { s.myDie with slots := [(0xFFF, x)], rules := [(63, 0x8000000000000000)],
                            kvq := [(0, 0x0010000000000000 + 64), (1, 64)] }
def smWord (op : Nat) : Word := BitVec.ofNat 64 (3 * 2 ^ 30 + 63 * 2 ^ 24 + 0xFFF * 2 ^ 4 + op)

theorem witness_SequenceManager :
    (let s := managed {}
     s.powered ∧ meets s.smTurn (· == s) ∧ bits (smWord 0) 63 39 = 0 ∧ bits (smWord 0) 33 32 ≤ 1 ∧ s.myDie.ruleOk (bits (smWord 0) 29 24) ∧
       s.myDie.lowestFree = some 0 ∧ (s.myDie.slots.filter (fun e => e.2.state != 0 && e.2.vf == s.myCtx.vf)).length < s.myDie.slotLimit 0 ∧
       (xs []).myDie.ruleOk (bits (smWord 0) 29 24) = false ∧ (s.myDie.slot (bits (smWord 4) 15 4)).state = 0) ∧
    ([1, 5, 6].all fun n => let s := managed { state := n }
      s.cfg.partOf 0 (s.myDie.slot 0xFFF).vf == s.myCtx.part && (s.myDie.slot 0xFFF).state == n && bits (smWord 1) 15 4 == 0xFFF && s.myDie.swaps == []) ∧
    (let s := managed { state := 1 }
     let w := smWord 3
     let b := s.smSlab w 0
     bits s.myCtx.smarg 63 47 = 0 ∧ b.lsize ≤ 20 ∧ b.bytes ≤ 2 ^ 29 ∧ (s.myDie.slot 0xFFF).slabs.find (bits w 23 16) = none ∧ s.smTurn.toOption = some s ∧
       s.myDie.runFree s.cfg 0 0 b.tier b.base b.bytes ∧ s.myDie.demand s.cfg 0 b.tier 0 (kvPages b.bytes) s.asker = .ok ∧
       s.myDie.claims = []) ∧
    (let b : Slab := ⟨1, 0x1000, 12, 128, none, 0⟩
     let s := managed { state := 1, slabs := [(0, b)] }
     (s.myDie.slot 0xFFF).slabs.find (bits (smWord 4) 23 16) = some b ∧ s.myDie.slabMoves 0xFFF 0 = false ∧ s.myDie.slabHeld b = false) ∧
    -- a claim that can be met, a slot to pre-empt, a claim whose lender gives nothing
    (let k : PageClaim := { vf := 0, pages := 1, since := 0, asker := 0, lender := some 23 }
     let s := onDie { claims := [(1, [k])], slots := [(9, { state := 1, doomed := true })] }
     (s.die 7).claimsOf 1 = [k] ∧ k.pages ≤ (s.die 7).freePages s.cfg 7 1 ∧ ((s.die 7).slot 9).doomed ∧ (s.die 7).vfRuns 0 = false ∧
       (let e := (s.die 7).preempt s.cfg 7 9 (s.pairReady 7)
        (s.die 7).swapped 9 ((s.die 7).goneOut e 9))) ∧
    (let b : Slab := ⟨1, 0x1000, 12, 128, none, 23⟩
     let x : Slot := { state := 1, vf := 23, slabs := [(0, b)] }
     let k : PageClaim := { vf := 0, pages := 2 ^ 40, since := 0, asker := 0, lender := some 23 }
     let s := at_ 1000000 (onDie { claims := [(1, [k])], slots := [(9, x)] })
     k.since + 1000000 ≤ s.now ∧ x.vf = 23 ∧ b.vf = 23 ∧ k.met = false ∧ kvPages b.bytes ≠ 0 ∧ (s.die 7).freePages s.cfg 7 1 < k.pages) := by decide +kernel

/-- A space of VF 0 of die p whose page 0 has this leaf: five nodes from frame 16 on. -/
def paged (p : Nat) (leaf : Nat) (s : State) : State :=
  s.modDie p fun d => { d with
    vfroot := [(0, BitVec.ofNat 64 (2 ^ 63 + 16 * 4096))], keys := [(1, some 0)]
    dram := Memory.write ([16, 17, 18, 19].foldl (fun m k => Memory.write m (k * 4096) 8 ((k + 1) * 4096 + 1)) d.dram) (20 * 4096) 8 leaf }
/-- Key slot 1, this home and frame, a leaf, and its access mode; and a stub's. -/
def leafWord (home frame am : Nat) : Nat := am * 2 ^ 61 + 2 ^ 50 + home * 2 ^ 41 + frame * 4096 + 3
def stubLeaf : Nat := 2 ^ 63 + leafWord 0 600 0 + 2 ^ 9

theorem witness_PagesAndStorage :
    (let s := paged 0 (leafWord 0 600 0) (xs [])
     isKv 0xFFF = false ∧ (s.tile 0 0).utlb = [] ∧ (s.die 0).tlb = [] ∧
       (walk s 0 0 0xFFF).any (fun l => l.leaf == BitVec.ofNat 64 (leafWord 0 600 0) && l.size == 4096 && l.base == 0)) ∧
    (let s := (paged 0 (leafWord 7 600 3) (xs [])).modDie 7 fun d => { d with keys := [(1, some 0)] }
     let s := s.modDie 0 fun d => { d with migDue := [(0, 0)], migpool := [(0, BitVec.ofNat 64 (2 ^ 44 + 700 * 4096))] }
     let pool : Word := SMap.get 0 (s.die 0).migpool 0
     (0, 0xFFF / 4096 * 4096) ∈ (s.die 0).migDue ∧ (walk s 0 0 0).any (fun l => leafAm l.leaf == 3 && !bit l.leaf 63 &&
         bits l.leaf 57 50 == 1 && leafPeer l.leaf == 7 && homeOk s 7 (leafFrame l.leaf) 1 0 0) ∧ bits pool 63 44 ≠ 0 ∧
       s.cfg.inRange 0 0 (bits pool 40 12) ∧ SMap.get 0 s.cfg.keyOwner 1 = s.cfg.partOf 0 0 ∧ s.gone 0 7 = false ∧
       SMap.get 0 (s.die 0).holdCnt (bits pool 40 12) = 0) ∧
    (let s := (xs []).modDie 0 fun d => { d with copies := [(7 * 2 ^ 34 + 5, { data := 1, dirty := 1 })] }
     (s.die 0).copies.find (7 * 2 ^ 34 + 5) = some { data := 1, dirty := 1 } ∧ s.gone 0 7 = false ∧
       SMap.get 0 (s.die 7).holdCnt (5 / 32) = 0) ∧
    (let f : EngF := ⟨true, 0, 0, false, 0, 6, 5, 4, 0xC1⟩
     [Instr.nvrd f, .nvwr f].all fun i =>
       let c : Cmd := { seq := 9, i := i, ve := 255, queues := [4], st := .running, aux := [0, 1, 0] }
       let s := at_ 1000000000 (onTile { cmds := [c] })
       (s.tile 7 31).cmd 9 == some c && c.step == 1 && decide (c.arg 0 + 1000000000 ≤ s.now) &&
         !(SMap.get ({} : FRec) (s.tile 7 31).frec 4).valid) := by decide +kernel

/-! ### Groups, the network and stubs -/

/-- Group 4095 of all 512 peers; every other die of the package fenced. -/
theorem witness_MulticastGroups :
    let s := { xs [] with fenced := [1, 2, 3, 4, 5, 6, 7] }
    let g : MGroup := ⟨partId 0 0, BitVec.allOnes 512⟩
    let h := { s with mgroups := [(4095, g)] }
    let w : Word := BitVec.ofNat 64 (4095 * 2 ^ 4 + 7 * 2 ^ 16)
    let waiting := { h with edits := [(4095, h.editor)] }
    bits w 63 35 = 0 ∧ s.net.any s.myEdit = false ∧ s.edits = [] ∧ s.mgBusy 4096 = false ∧
      (waiting.edits.find? (·.1 == 4095)).any (·.2 == waiting.editor) ∧ waiting.net.any waiting.myEdit = false ∧ waiting.mgBusy 4095 = false ∧ ((List.range s.peers).all fun q => q == s.iss.peer || s.gone s.iss.peer q) ∧
      s.mgroups.find 0 = none ∧ h.mgroups.find (bits w 15 4) = some g ∧ g.owner = partId h.iss.peer h.myCtx.part ∧ h.mgBusy 4095 = false ∧
      bits w 24 16 < h.peers ∧ h.peers ≤ bits (BitVec.ofNat 64 (3 + 4095 * 2 ^ 4 + 511 * 2 ^ 16) : Word) 24 16 ∧ h.cfg.dieInRealm 7 (h.cfg.realmOfId g.owner) ∧ bits h.myCtx.mgarg 63 57 = 0 ∧ bit h.myCtx.mgarg 0 = false ∧
      h.cfg.realmOfId g.owner = h.cfg.realmOf 0 0 ∧ bits w 34 30 < 24 ∧ h.cfg.partOf 0 (bits w 34 30) = h.myCtx.part ∧
      s.mgroups.find (bits w 15 4) = none ∧
      -- a member with a handler and a dormant context; an acknowledgement; a contribution; answers to a command
      (let k := { pk with kind := 0x08, taken := true, dst := 0, src := 7, args := [4095, kva.toNat, 1], bytes := List.replicate 128 1 }
       let s := onNet (slabbed (xs [])) k
       let s := s.modDie 0 fun d => { d with mch := [(4095, (31, 0, 0x1000))], tiles := [(31, { bound := some 0, ctxs := [(7, { status := .dormant })] })] }
       (let k := { k with poison := 1 }
        (onNet (slabbed (xs [])) k).taken 0 0x08 (fun _ => true) = some k) ∧
       s.taken 0 0x08 (fun _ => true) = some k ∧ k.poison = 0 ∧ (s.die 0).mch.find 4095 = some (31, 0, 0x1000) ∧
         s.cfg.realmOf 0 (s.cfg.partOf 0 0) = s.cfg.realmOfId k.part ∧
         ([1, 2].any fun n => match mcstLocs s 0 31 0 7 0x1000 128 3 with | .error e => e == n | .ok _ => false) ∧
         (let k := { k with src := 0 }
          let s := onNet s k
          meets (mcstLocs s 0 31 0 0 kva.toNat 128 3) (fun e => e.1.length == 1 && e.1.all (fun l => !e.2.heldLoc l.1) &&
            ((e.2.writePieces 0 e.1 k.bytes).tile 0 31).dormant (some 0) == some 7))) ∧
      ([0x09, 0x0A, 0x12].all fun n =>
        let c : Cmd := { seq := 9, i := .mcst ⟨true, 0, 0, false, 0, 0, 5, 4, 0xC1⟩, queues := [4], st := .running, aux := [0, 1, 0, 0, 7, 0, 1] }
        let k := { pk with kind := n, tile := 31, tag := 3, taken := true, args := [ctlAccept, 3] }
        let s := onNet ((onTile { cmds := [c] }).modDie 7 fun d => { d with reqs := [{ tag := 3, kind := 0x08, dst := 0, since := 0, tile := 31, seq := 9 }] }) k
        s.taken 7 n (fun _ => true) == some k && ((s.die 7).reqs.find? (·.tag == 3)).any (fun r => r.tile == 31 && r.seq == 9) &&
          (s.tile 7 31).cmd 9 == some c && c.step == 1 && decide (k.src < 512)) := by decide +kernel

/-- A receiver with a ring in the KV slab and a region there; the last endpoint. -/
def netted : State :=
  let s := slabbed (xs [])
  let win := [(32 * 1023 + 16, 4, 77), (0x8000, 8, kva.toNat), (0x8008, 8, 4096), (0x8010, 4, 5), (0x8014, 1, 0), (0x8015, 1, 1),
    (0xA000, 8, 2 ^ 63 + kva.toNat), (0xA008, 8, 1), (0xA010, 8, 31 * 2 ^ 57)].foldl (fun m e => Memory.write m e.1 e.2.1 e.2.2) []
  s.modDie 0 fun d => { d with netwin := [(0, win)], tiles := [(31, { ctxs := [(7, { status := .dormant })] })] }

theorem witness_NetworkEvents :
    let k : NetPacket := { op := 1, notify := false, ep := 1023, job := 77, rkey := 5, raddr := 3968, req := 1, len := 128, off := 0,
                           imm := 0, data := List.replicate 128 1 }
    let d := netted.die 0
    (d.epJob 0 1023 = 77 ∧ d.epJob 0 1023 ≠ 78 ∧ d.region 0 5 = some (kva.toNat, 4096, 0, true) ∧ netted.cfg.partOf 0 0 = 0 ∧
      k.raddr + k.off + k.data.length ≤ 4096 ∧
      (match netted.reserve 0 0 k (kva.toNat + k.raddr) with
       | .ok r u => (match u.place 0 0 (r.data + k.off) k.data with | .ok _ => true | _ => false) && decide (coveredTo r.got r.got.length k.off < k.off + k.data.length ∧ k.off + k.data.length ≤ r.len)
       | _ => false : Bool) ∧
      (match netted.reserve 0 0 { k with op := 0 } 0 with
       | .ok r u => (match u.place 0 (bits (d.nrxBase 0) 7 0) (r.data + k.off) k.data with | .ok _ => true | _ => false) &&
           decide (coveredTo r.got r.got.length k.off < k.off + k.data.length ∧ k.off + k.data.length ≤ r.len)
       | _ => false : Bool) ∧
      -- delivered already; placed already; a read; no ring; a ring without room
      (let s := netted.modDie 0 fun d => { d with rxDone := [(0, 1023, 1, 2)] }
       (s.die 0).rxDone.contains (0, k.ep, k.req, packetKind k)) ∧
      (let s := netted.modDie 0 fun d => { d with rx := [{ part := 0, ep := 1023, req := 1, kind := 2, len := 128, at_ := 0, imm := 0, raddr := 3968, data := 64, got := [(0, 128)] }] }
       (match s.reserve 0 0 k 64 with | .ok r _ => decide (k.off + k.data.length ≤ coveredTo r.got r.got.length k.off) | _ => false : Bool)) ∧
      (let bs := (netted.readOut 0 0 (kva.toNat + k.raddr + k.off) 128 3).1
       bs.any (·.length == 128)) ∧
      (xs []).reserve 0 0 { k with op := 0 } 0 = .refused ∧
      netted.reserve 0 0 { k with op := 0, len := 4032 } 0 = .notReady) ∧
    (let c : Cmd := { seq := 9, i := .netq ⟨true, 0, 0, false, 0, 0, 5, 4, 0xC1⟩, queues := [4], st := .running, aux := [0, 2, 2 ^ 32 * 256, 256, 0, 0, 8] }
     let s := fun (c : Cmd) => at_ 1000000000 (onTile { cmds := [c] })
     (((s c).tile 7 31).cmd 9 = some c ∧ c.step ≠ 0 ∧ c.arg 3 = 0 ∧ 8 ≤ c.arg (4 + 0) ∧ c.packetOut 0 ∧ 6 ≤ c.aux.length ∧ (workReq (c.arg 0)).len = 256 ∧ covered c.ranges 256 = false) ∧
       (let c := { c with aux := [0, 2, 2 ^ 32 * 256, 256, 0, 0, 7] }
        c.arg (4 + 0) < 8 ∧ c.packetOut 0) ∧
       (let c := { c with aux := [0, 2, 2 ^ 32 * 256, 256, 0, 1] }
        c.arg 3 ≠ 0 ∧ c.arg 3 + 1000000000 ≤ (s c).now + 1) ∧
       covered ({ c with tags := [0, 256] } : Cmd).ranges 256) ∧
    (let r : Rx := { part := 0, ep := 1, req := 1, kind := 0, len := 8, at_ := 0, imm := 0, raddr := 0, data := 64, got := [(0, 8)] }
     let s := netted.modDie 0 fun d => { d with rx := [r] }
     (s.die 0).nextRecord 0 = some r ∧ bits ((s.die 0).nrxHdl 0) 61 57 = 31 ∧
       (s.tile 0 31).handlers.length < 16) ∧
    (let s := netted.setMe { netted.me with x := [(4, 2 ^ 63 + 3968)] }
     let s := s.setMyDie (s.myDie.setPart 0 { nrxHead := 3840, nrxTail := 0 })
     let size := s.myDie.nrxSize 0
     let x := s.myDie.part 0
     bits (s.reg 4) 39 0 = 3968 ∧ 3968 % 128 = 0 ∧ 3968 < size ∧ (3968 + size - x.nrxHead) % size ≤ (x.nrxTail + size - x.nrxHead) % size) := by
  decide +kernel

/-- A stub of one tile of VF 0 of die 0, of owner 7, its tile in this state. -/
def stubbed (x : Pull) : State :=
  let leaves := [(0, BitVec.ofNat 64 stubLeaf)]
  let b : Stub := { valid := true, hold := 5, gen := 3, owner := 7, tiles := 1, leaves := leaves, state := [(0, x)] }
  (paged 0 stubLeaf (xs [])).modDie 0 fun d => { d with stubs := [(1023, b)] }

theorem witness_DeferredTensors :
    (let k := { pk with kind := 0x0C, src := 7, dst := 0, taken := true, bytes := stubBytes 5 7 3 0 1 0 0 0 }
     let s := onNet (paged 0 stubLeaf (xs [])) k
     let u := s.consume k
     s.taken 0 0x0C (fun _ => true) = some k ∧ k.stubOk ∧ k.stubField 3 2 ≠ 0 ∧ k.stubField 19 16 = 1 ∧
       (List.range 24).find? (fun v => u.cfg.tenantOf 0 v == k.stubField 20 20 && (landing u 0 v 0 1).isSome) = some 0 ∧
       ({ k with bytes := k.bytes.set 3 2 } : Packet).stubOk = false ∧ (landing u 0 0 0 1).isSome ∧ ((u.die 0).stub 0).valid = false ∧
       (let t := onNet (xs []) k
        t.taken 0 0x0C (fun _ => true) = some k ∧ (t.consume k).acceptStub 0 k = none)) ∧
    (let s := stubbed .unpulled
     let x := translate s 0 0 (s.cfg.partOf 0 0) 0 0xFFF .load
     x.1 = .touch 1023 0 ∧ (x.2.die 0).tileLost 1023 0 = false ∧ ((x.2.die 0).stub 1023).tile 0 = .unpulled ∧
       ((x.2.die 0).stub 1023).moving = false ∧ (x.2.die 0).forwarding 1023 = false ∧ (x.2.die 0).pulls < 64) ∧
    (let h : Hold := { valid := true, gen := 3, tiles := 1, held := [(0, some 600)], holder := 0 }
     let k := { pk with kind := 0x0D, src := 0, taken := true, args := [5, 3, 0, 1023] }
     let s := onNet (onDie { holds := [(5, h)], holdCnt := [(600, 1)] }) k
     s.taken 7 0x0D (fun _ => true) = some k ∧ SMap.get none ((s.die 7).hold (k.arg 0)).held (k.arg 2) = some 600 ∧
       ((s.die 7).hold 5).valid ∧ ((s.die 7).hold 5).torn = false ∧ ((s.die 7).hold 5).gen.toNat = k.arg 1 ∧ SMap.get none ((s.die 7).hold 6).held 0 = none) ∧
    -- control slots, by their sort, with an entry of their generation
    (let h : Hold := { valid := true, gen := 3, tiles := 1, held := [(0, some 600)], holder := 0 }
     [ctlPullAck, ctlRepoint, ctlRelease, ctlReleaseAck, ctlRenew, ctlKeep].all fun n =>
       let k := { pk with kind := 0x12, taken := true, args := [n, 5, 3, 0, 0, 0] }
       let s := onNet (onDie { holds := [(5, h)] }) k
       s.control 7 n == some k && ((s.die 7).hold (k.arg 1)).valid && ((s.die 7).hold (k.arg 1)).gen.toNat == k.arg 2) ∧
    -- a renewal whose entry the owner has let go
    (let k := { pk with kind := 0x12, taken := true, args := [ctlRenew, 6, 3, 0, 0, 0] }
     (onNet (onDie {}) k).control 7 ctlRenew = some k ∧ (((onNet (onDie {}) k).die 7).hold (k.arg 1)).valid = false ∧
       (let s := onNet (onDie { holds := [(6, { gen := 3, tiles := 1, torn := true })] }) k
        ((s.die 7).hold (k.arg 1)).torn ∧ ((s.die 7).hold (k.arg 1)).gen.toNat = k.arg 2)) ∧
    (let k := { pk with kind := 0x12, dst := 0, taken := true, args := [ctlRenewAck, 1023, 3] }
     let s := onNet (stubbed .unpulled) k
     s.control 0 ctlRenewAck = some k ∧ ((s.die 0).stub (k.arg 1)).valid ∧ ((s.die 0).stub (k.arg 1)).gen.toNat = k.arg 2) ∧
    (let r : Resend := { repoint := false, owner := 0, hold := 5, gen := 3, tiles := [0], since := 0, last := 0 }
     let s := at_ 1000000000 (onDie { resends := [r] })
     (s.die 7).resends[0]? = some r ∧ r.last + 100000000 ≤ s.now ∧ s.now ≤ r.since + 1000000000 ∧
       r.since + 1000000000 < (at_ 1000000001 s).now) ∧
    (let s := at_ 500000000 (stubbed .unpulled)
     let b := (s.die 0).stub 1023
     b.valid ∧ b.broken = false ∧ b.sent + 100000000 ≤ s.now ∧ b.ack + 500000000 ≤ s.now) ∧
    (let s := at_ 1000000000 (onDie { holds := [(5, { valid := true, gen := 3, tiles := 1, held := [(0, some 600)] })], holdCnt := [(600, 1)] })
     ((s.die 7).hold 5).valid ∧ ((s.die 7).hold 5).renew + 1000000000 ≤ s.now ∧ ((s.die 7).hold 5).held = [(0, some 600)]) ∧
    (let s := at_ 1000000 (onExe { status := .running, wait := some ⟨0, true, .hold kva, false, [], false⟩ })
     (s.stream 7 31 7 true).wait = some ⟨0, true, .hold kva, false, [], false⟩ ∧ (s.ctx 7 31 7).waitto ≠ 0 ∧ 0 + (s.ctx 7 31 7).waitto.toNat ≤ s.now) ∧
    (let k := { pk with kind := 0x03, taken := true, addr := 600 * 4096 }
     let s := at_ 50000 (onNet (onDie { holdCnt := [(600, 1)] }) k)
     s.heldReqs 7 = [k] ∧ (s.die 7).keepAt + 50000 ≤ s.now) ∧
    (let s := (stubbed .unpulled).modDie 0 fun d => { d with slots := [(0xFFF, { state := 1 })] }
     let w : Word := 0x8000000000000FFF
     bits w 62 57 = 0 ∧ bit w 63 ∧ (s.myDie.stubs.find? (fun e => e.2.valid && e.2.vf == s.myCtx.vf && e.2.hva <= bits w 56 12 &&
         bits w 56 12 < e.2.hva + e.2.tiles)).isSome ∧ (s.myDie.slot (bits w 11 0)).state ≠ 0 ∧
       s.cfg.partOf 0 (s.myDie.slot (bits w 11 0)).vf = s.myCtx.part) := by decide +kernel

/-- The data of a tile that has been asked for: any 4,096 bytes. -/
theorem witness_pullResponse (bs : List Byte) (h : bs.length = 4096) :
    let k : Packet := { pk with kind := 0x0E, src := 7, dst := 0, taken := true, args := [1023, 0, 3], bytes := bs }
    let s := onNet (stubbed .asked) k
    s.taken 0 0x0E (fun _ => true) = some k ∧ k.bytes.length = 4096 ∧ ((s.consume k).dropReq 0 k.tag).dies = (stubbed .asked).dies ∧
      k.arg 2 = 3 := ⟨rfl, h, rfl, rfl⟩
theorem witness_page : ∃ bs : List Byte, bs.length = 4096 := ⟨List.replicate 4096 1, List.length_replicate⟩

/-- Its leaf is still the one that the stub recorded. -/
theorem witness_pullResponse_leaf :
    let b := ((stubbed .asked).die 0).stub 1023
    b.valid ∧ b.gen.toNat = 3 ∧ b.tile 0 = .asked ∧ (walk (stubbed .asked) 0 b.vf 0).any (fun l => l.leaf == SMap.get 0 b.leaves 0) := by
  decide +kernel

/-! ### Failures, power, boot and the host -/

theorem witness_FailuresAndMoves :
    (4 < 5 ∧ (xs []).cfg.engineOwner 0 0 4 = (xs []).myCtx.part) ∧ (7 ∉ (xs []).fenced ∧ 7 < (xs []).peers) ∧
    ((onDie {}).die 7).beatAt + 1000000 ≤ (at_ 1000000 (onDie {})).now ∧
    (let k := { pk with kind := 0x12, taken := true, args := [ctlBeat] }
     (onNet State.reset k).control 7 ctlBeat = some k) ∧ ((onDie {}).tile 7 31).failed = false ∧
    7 ∉ (onDie {}).fenced ∧ 7 < (onDie {}).peers ∧
    -- the last piece of a move, and one before it
    ([0, 4064].all fun n =>
      let f : EngF := ⟨true, 0, 0, false, 0, 0, 5, 4, 0xC1⟩
      let c : Cmd := { seq := 9, i := .slabmv f, va := 255 * 2 ^ 16 + 0xFFF, queues := [4], st := .running, aux := [0, 1, 15] }
      let b : Slab := ⟨1, 0x1000, 12, 128, none, 0⟩
      let w : Fwd := { busy := true, slot := 0xFFF, slab := 255, tier := 1, old := 0x1000, new := 0x200000, boundary := n, pieceEnd := n }
      let s := onDie { slots := [(0xFFF, { state := 1, slabs := [(255, b)] })], fwd := [(15, w)], tiles := [(31, { cmds := [c] })] }
      (s.tile 7 31).cmd 9 == some c && c.step != 0 && (SMap.get ({} : Fwd) (s.die 7).fwd (c.arg 0)) == w &&
        ((s.die 7).slot w.slot).slabs.find w.slab == some b && (decide (w.boundary + 32 < 2 ^ b.lsize) == (n == 0)) &&
        w.slot == bits c.va 11 0 && w.slab == bits c.va 23 16 &&
        -- and a pair that is gone
        !(s.die 7).slabBusy 0xFFF 255 b && ((s.modDie 7 fun d => { d with holdCnt := [(1, 1)] }).die 7).slabBusy 0xFFF 255 b &&
        !(SMap.get ({} : Fwd) (onTile { cmds := [c] }).myDie.fwd (c.arg 0)).busy && c.st == .running) := by decide +kernel

theorem witness_RailsAndGrants :
    (3 ∈ ({ due := [3] } : Power).due) ∧ (({} : Power).drop = 0 ∧ ({ drop := 20 } : Power).drop ≠ 0) ∧
    ({} : Power).marginAt < (at_ 10000000000 (onDie {})).now / 10 ^ 10 ∧ ({ backoff := some 5 } : Power).backoff = some 5 ∧
    (let r : Reserve := ⟨31, 6, 9, 1, 112, 0, 0⟩
     let s := onDie { askCur := [r] }
     s.nextGrant 7 3 1 = some r ∧ r ∈ (s.die 7).askCur) ∧
    -- a line of stacked SRAM, and a copy of a remote line
    (let k : Copy := { data := 0 }
     0 < copyArea ∧ copyArea ≤ copyArea + 128 * 5 ∧ ((onDie { copies := [(5, k)] }).die 7).copies.find ((copyArea + 128 * 5 - copyArea) / 128) = some k) ∧
    (let w : Power := { boosts := [⟨15, 3, 5, 0, false⟩], alloc := [(0, 0x3333333333333333)] }
     w.pressed ∧ w.primeWaits = false ∧ (w.boosts.any fun b => !b.granted && decide (b.units ≤ w.share b.zone)) ∧ w.targets ≤ 60) := by decide +kernel

theorem witness_ZonesEvacuate :
    let z := fun (x : Zone) => ({ zones := [(15, x)] } : Power).zone 15
    ((z { lowSince := some 5 }).lowSince = some 5 ∧ 2 < ({ alloc := [(0, 0x3333333333333333)] } : Power).share 15 ∧ 5 + 2100000 ≤ (at_ 2100005 (onDie {})).now) ∧
      cCOOL_FLOW ∈ (z { raised := [cCOOL_FLOW] }).raised ∧ (z { state := 1 }).state = 1 ∧
      (z { state := 2 }).since + 50000000 ≤ (at_ 50000000 (onDie {})).now ∧ (z { state := 2 }).ctl ≠ 1 ∧
      ({ zones := [(15, { state := 2 })] } : Power).targets + 8 ≤ 60 ∧
      ((z { state := 3 }).primed = false ∧ ({ zones := [(15, { state := 3 })] } : Power).targets + 8 ≤ 60) ∧
      (let x := z { state := 3, primed := true, fit := some 5 }
       x.state = 3 ∧ x.primed ∧ x.since + 200000000 ≤ (at_ 200000000 (onDie {})).now ∧ x.fit.any (fun t => t + 100000000 ≤ (at_ 200000000 (onDie {})).now)) ∧
      ((onDie {}).die 7).zoneOf 31 = 15 ∧
      ((z { clearAt := [(cCOOL_FLOW, 5)] }).clearAt.find cCOOL_FLOW = some 5 ∧ 5 + 1000000 ≤ (at_ 1000005 (onDie {})).now) ∧
      ({ pressClear := some 5 } : Power).pressClear = some 5 := by decide +kernel

theorem witness_BootAndInterfaces :
    (let s := { State.reset with boots := [(0, { phase := 6 })] }
     7 / 8 < s.packages ∧ (s.boot (7 / 8)).code = 0 ∧ (s.boot (7 / 8)).phase + 1 = 7 ∧ s.synced = true) ∧
    (let s := { State.reset with packages := 2, synced := false, boots := [(0, { phase := 5 }), (1, { phase := 5 })] }
     s.synced = false ∧ s.now ≤ 5 ∧ s.phase6 1 ∧ s.past 1 5 ∧ s.past ((1 + 1) % s.packages) 5) ∧
    (let s := { State.reset with boots := [(0, { phase := 2 })] }
     s.past 0 5 = false ∧ s.vfsUp 7 = false ∧ s.pfUp 7 = false) ∧
    (let s := fun (x : Tdisp) => onDie { tdisp := [(23, x)] }
     ((s {}).vfsUp 7 ∧ ((s { keyed := true }).td 7 23).st = 0 ∧ ((s { keyed := true }).td 7 23).keyed) ∧ ((s { st := 1 }).td 7 23).st = 1 ∧
       ((s { st := 2 }).td 7 23).tearing = false ∧ ((s { tearing := true }).td 7 23).tearing ∧
       ((s {}).td 7 23).st ≠ 1 ∧ ((s {}).td 7 23).st ≠ 2 ∧
       (255 ≠ 0 ∧ 255 < 256 ∧ SMap.get 0 (s { st := 1 }).cfg.keyOwner (7 * 256 + 255) = (s { st := 1 }).cfg.partOf 7 23 ∧
         SMap.get none ((s { st := 1 }).die 7).keys 255 = none)) ∧
    -- the last byte of VF 23's range, and the first behind it
    (let a := 24 * 2 ^ 32 - 1
     let s := onDie { keys := [(5, some 0)] }
     s.hostMay 7 23 a 1 ∧ s.hostMay 7 23 (a + 1) 1 = false ∧ (xs []).hostMay 7 23 a 1 = false ∧ s.hostHeld 7 a 1 = false ∧
       (s.die 7).badSpan 1 a 1 = 0) := by
  decide +kernel

end Sys2Proof.Tests
end

section
/-! SUPPORT. Proofs of chapter 5's statements on division, bit operations and conditions (R99, R101, R105, R106, R108,
R109). -/

namespace Sys2Proof.Proofs

open Sys2Proof Sys2Proof.Machine Sys2Proof.Laws

/-! ### How a form that puts one result in flight ends -/

theorem issue_pend {i : Instr} {s : State} (h : Ready i s) (w : Write) (r : Option (Bool × Word)) (n : Nat) :
    issue i s (.ok (s.pend w r n)) = .next (s.pend w r n).complete := by
  rw [issue_ready h, finish_ok (overFull_pend h rfl w r n)]

theorem issue_sResult {i : Instr} {s : State} (h : Ready i s) (d : BitVec 8) (v : Word) :
    issue i s (.ok (s.sResult d v)) = .next (s.sResult d v).complete :=
  issue_pend h _ _ _

/-- A form that also holds its stream (R99): holding it takes no place among the results in flight. -/
theorem issue_sResult_hold {i : Instr} {s : State} (h : Ready i s) (d : BitVec 8) (v : Word) (k : Nat) :
    issue i s (.ok ((s.sResult d v).setMe { (s.sResult d v).me with hold := k })) =
      .next ((s.sResult d v).setMe { (s.sResult d v).me with hold := k }).complete := by
  have ⟨_, _, _, hcount⟩ := h
  have hheld := count_setMe (s.sResult d v) { (s.sResult d v).me with hold := k } rfl
  have hpend : (s.sResult d v).myCtx.count = s.myCtx.count + 1 := count_pend s _ _ _
  rw [issue_ready h, finish_ok (overFull_of_le (by omega))]

/-! ### Division (R101) -/

/-- −1 modulo 2^W is all ones at width W. -/
theorem modW_neg_one (t : Nat) : modW t (-1) = 2 ^ width t - 1 := by
  have hpos : 0 < 2 ^ width t := Nat.two_pow_pos _
  have hmod : (-1 : Int) % (2 ^ width t : Nat) = (2 ^ width t : Nat) - 1 := by
    rw [← Int.add_emod_right, Int.emod_eq_of_lt] <;> omega
  rw [modW, hmod]
  omega

/-- Reading W bits as a type and reducing modulo 2^W gives the bits back. -/
theorem modW_intVal (t : Nat) {v : Nat} (hv : v < 2 ^ width t) : modW t (intVal t v) = v := by
  have hmod : intVal t v % (2 ^ width t : Nat) = v := by
    unfold intVal sint
    split
    · rw [BitVec.toInt_ofNat', Int.bmod_emod]
      exact_mod_cast Nat.mod_eq_of_lt hv
    · rw [Nat.mod_eq_of_lt hv]
      exact_mod_cast Nat.mod_eq_of_lt hv
  rw [modW, hmod, Int.toNat_natCast]

theorem lowW_lt (t : Nat) (w : Word) : lowW t w < 2 ^ width t := Nat.mod_lt _ (Nat.two_pow_pos _)

theorem natOf_eq_zero (s : State) (t : BitVec 4) (f : BitVec 8) : s.natOf t f = 0 ↔ lowW t.toNat (s.reg f) = 0 :=
  Int.natCast_eq_zero

theorem extT_divW (s : State) (t : BitVec 4) (a b : BitVec 8) :
    extT t.toNat (divW t.toNat (lowW t.toNat (s.reg a)) (lowW t.toNat (s.reg b))) =
      if s.natOf t b = 0 then wrapT t (-1) else wrapT t ((s.intOf t a).tdiv (s.intOf t b)) := by
  simp only [natOf_eq_zero, divW, beq_iff_eq]
  split
  · rw [wrapT, modW_neg_one]
  · rfl

theorem extT_remW (s : State) (t : BitVec 4) (a b : BitVec 8) :
    extT t.toNat (remW t.toNat (lowW t.toNat (s.reg a)) (lowW t.toNat (s.reg b))) =
      if s.natOf t b = 0 then wrapT t (s.intOf t a) else wrapT t ((s.intOf t a).tmod (s.intOf t b)) := by
  simp only [natOf_eq_zero, remW, beq_iff_eq]
  split
  · rw [wrapT, State.intOf, modW_intVal _ (lowW_lt _ _)]
  · rfl

/-- A division form of the model comes to its result, with its stream held. -/
theorem divReg_ready {i : Instr} {s : State} (h : Ready i s) (f : RegF) (g : Nat → Nat → Nat → Nat) {v : Word}
    (hv : extT f.t1.toNat (g f.t1.toNat (lowW f.t1.toNat (s.reg f.a)) (lowW f.t1.toNat (s.reg f.b))) = v) :
    divReg i f s g = .next (((s.sResult f.d v).setMe { (s.sResult f.d v).me with hold := 8 }).complete) := by
  subst hv
  exact issue_sResult_hold h _ _ _

/-- Settles O10: the model's quotient and remainder at width W are the exact ones of R101 modulo 2^W. -/
theorem divisionResults : Obligations.DivisionResults := by
  unfold Obligations.DivisionResults
  intro i s d v hres hready
  cases i with
  | div f | divn f =>
    obtain ⟨rfl, rfl⟩ := Prod.mk.inj (Option.some.inj hres)
    exact divReg_ready hready f divW (extT_divW s f.t1 f.a f.b)
  | rem f | remn f =>
    obtain ⟨rfl, rfl⟩ := Prod.mk.inj (Option.some.inj hres)
    exact divReg_ready hready f remW (extT_remW s f.t1 f.a f.b)
  | _ => exact absurd hres (Option.some_ne_none _).symm

/-! ### Bit counts (R105) -/

theorem clzN_zero (n : Nat) : clzN 0 n = n := by
  induction n with
  | zero => rfl
  | succ n ih => simp [clzN, ih, Nat.add_comm]

/-- The count of leading zeros places the highest one bit. -/
theorem clzN_bounds {a n : Nat} (ha : a ≠ 0) (hlt : a < 2 ^ n) :
    clzN a n < n ∧ 2 ^ (n - 1 - clzN a n) ≤ a ∧ a < 2 ^ (n - clzN a n) := by
  induction n with
  | zero => omega
  | succ n ih =>
    cases hbit : a.testBit n with
    | true =>
      have hge : 2 ^ n ≤ a := Nat.ge_two_pow_of_testBit hbit
      simpa [clzN, hbit] using ⟨hge, hlt⟩
    | false =>
      have hlt' : a < 2 ^ n := by
        by_contra hge
        simp [Nat.testBit_of_two_pow_le_and_two_pow_add_one_gt (Nat.le_of_not_lt hge) hlt] at hbit
      obtain ⟨hcount, hlow, hhigh⟩ := ih hlt'
      have hlast : n + 1 - 1 - (1 + clzN a n) = n - 1 - clzN a n := by omega
      have hend : n + 1 - (1 + clzN a n) = n - clzN a n := by omega
      simp only [clzN, hbit, Bool.false_eq_true, if_false, hlast, hend]
      exact ⟨by omega, hlow, hhigh⟩

theorem ctzN_zero (n k : Nat) : ctzN 0 n k = n := by
  induction n generalizing k with
  | zero => rfl
  | succ n ih => simp [ctzN, ih, Nat.add_comm]

/-- From a bit below which all are zero, the count of trailing zeros places the lowest one bit. -/
theorem ctzN_bounds {a n k : Nat} (ha : a ≠ 0) (hlow : a % 2 ^ k = 0) (hlt : a < 2 ^ (k + n)) :
    ctzN a n k < n ∧ a % 2 ^ (k + ctzN a n k) = 0 ∧ a % 2 ^ (k + ctzN a n k + 1) ≠ 0 := by
  induction n generalizing k with
  | zero => exact absurd (Nat.mod_eq_of_lt hlt ▸ hlow) ha
  | succ n ih =>
    have hnext : a % 2 ^ (k + 1) = 2 ^ k * (a.testBit k).toNat := by
      rw [Nat.mod_pow_succ, hlow, Nat.zero_add, Nat.toNat_testBit]
    cases hbit : a.testBit k with
    | true =>
      have hone : a % 2 ^ (k + 1) ≠ 0 := by simp [hnext, hbit]
      simpa [ctzN, hbit] using ⟨hlow, hone⟩
    | false =>
      obtain ⟨hcount, hzeros, hone⟩ := ih (k := k + 1) (by simp [hnext, hbit]) (by rwa [Nat.add_assoc, Nat.add_comm 1])
      simp only [ctzN, hbit, Bool.false_eq_true, if_false, ← Nat.add_assoc]
      exact ⟨by omega, hzeros, hone⟩

/-- The count of ones is the number of positions below `n` that hold a one. -/
theorem popN_eq_countP (a n : Nat) : popN a n = (List.range n).countP a.testBit := by
  induction n with
  | zero => rfl
  | succ n ih =>
    rw [popN, ih, List.range_succ, List.countP_append, List.countP_singleton, Nat.add_comm]
    rfl

theorem countReg_ready {i : Instr} {s : State} (h : Ready i s) (f : RegF) (g : Nat → Nat → Nat) :
    countReg i f s g =
      .next (s.sResult f.d (BitVec.ofNat 64 (g (lowW f.t1.toNat (s.reg f.a)) (width f.t1.toNat)))).complete :=
  issue_sResult h _ _

/-! ### Bit fields (R106) -/

/-- A field read by shifting and cutting: bit `k` of it is bit `pos + k` of the whole, within its length. -/
theorem testBit_field (a pos len k : Nat) :
    (a / 2 ^ pos % 2 ^ len).testBit k = (decide (k < len) && a.testBit (pos + k)) := by
  rw [Nat.testBit_mod_two_pow, Nat.testBit_div_two_pow, Nat.add_comm k]

/-- The three parts of a number around the field at `pos` of length `len`. -/
theorem split_at_field (d pos len : Nat) :
    d = 2 ^ pos * (2 ^ len * (d / 2 ^ (pos + len)) + d / 2 ^ pos % 2 ^ len) + d % 2 ^ pos := by
  rw [Nat.pow_add, ← Nat.div_div_eq_div_mul, Nat.div_add_mod, Nat.div_add_mod]

/-- Replacing a field leaves the parts around it. -/
theorem replace_field (d x pos len : Nat) :
    d - d / 2 ^ pos % 2 ^ len * 2 ^ pos + x * 2 ^ pos =
      2 ^ pos * (2 ^ len * (d / 2 ^ (pos + len)) + x) + d % 2 ^ pos := by
  have hd := split_at_field d pos len
  generalize d / 2 ^ (pos + len) = hi, d / 2 ^ pos % 2 ^ len = old, d % 2 ^ pos = lo at hd ⊢
  rw [Nat.mul_add] at hd ⊢
  rw [Nat.mul_comm old, Nat.mul_comm x]
  omega

theorem testBit_replace_field (d x pos len k : Nat) :
    (d - d / 2 ^ pos % 2 ^ len * 2 ^ pos + x % 2 ^ len * 2 ^ pos).testBit k =
      if pos ≤ k ∧ k < pos + len then x.testBit (k - pos) else d.testBit k := by
  rw [replace_field, Nat.testBit_two_pow_mul_add _ (Nat.mod_lt _ (Nat.two_pow_pos _))]
  by_cases hlow : k < pos
  · have hout : ¬(pos ≤ k ∧ k < pos + len) := by omega
    rw [if_pos hlow, if_neg hout, Nat.testBit_mod_two_pow, decide_eq_true hlow, Bool.true_and]
  rw [if_neg hlow, Nat.testBit_two_pow_mul_add _ (Nat.mod_lt _ (Nat.two_pow_pos _))]
  by_cases hin : k - pos < len
  · have hfield : pos ≤ k ∧ k < pos + len := by omega
    rw [if_pos hin, if_pos hfield, Nat.testBit_mod_two_pow, decide_eq_true hin, Bool.true_and]
  · have hout : ¬(pos ≤ k ∧ k < pos + len) := by omega
    have hpos : k - pos - len + (pos + len) = k := by omega
    rw [if_neg hin, if_neg hout, Nat.testBit_div_two_pow, hpos]

theorem getLsbD_zext_field (a : Word) (pos len k : Nat) (hk : k < 64) :
    (BitVec.ofNat 64 (a.toNat / 2 ^ pos % 2 ^ len)).getLsbD k = if k < len then a.getLsbD (pos + k) else false := by
  rw [BitVec.getLsbD_ofNat, testBit_field, decide_eq_true hk, Bool.true_and, BitVec.testBit_toNat]
  by_cases hin : k < len <;> simp [hin]

theorem getLsbD_sext_field (a : Word) (pos len k : Nat) (hlen : 0 < len) (hk : k < 64) :
    (sext64 (a.toNat / 2 ^ pos % 2 ^ len) len).getLsbD k =
      if k < len then a.getLsbD (pos + k) else a.getLsbD (pos + len - 1) := by
  have htop : len - 1 < len := Nat.sub_one_lt_of_lt hlen
  have hlast : pos + (len - 1) = pos + len - 1 := by omega
  rw [sext64, BitVec.getLsbD_signExtend, decide_eq_true hk, Bool.true_and, BitVec.msb_eq_getLsbD_last]
  by_cases hin : k < len <;>
    simp only [BitVec.getLsbD_ofNat, testBit_field, BitVec.testBit_toNat, hin, htop, hlast, decide_true, Bool.true_and,
      if_true, if_false]

/-- What BEXT writes: the field, extended by its top bit for a signed type and by zeros for any other. -/
theorem getLsbD_extract (signed : Bool) (a : Word) (pos len k : Nat) (hlen : 0 < len) (hk : k < 64) :
    (if signed then sext64 (a.toNat / 2 ^ pos % 2 ^ len) len
      else BitVec.ofNat 64 (a.toNat / 2 ^ pos % 2 ^ len)).getLsbD k =
      if k < len then a.getLsbD (pos + k) else (signed && a.getLsbD (pos + len - 1)) := by
  cases signed with
  | false => exact getLsbD_zext_field a pos len k hk
  | true => exact getLsbD_sext_field a pos len k hlen hk

/-- What BINS writes: the low bits of `a` within the field, `d` around it. -/
theorem getLsbD_insert (d a : Word) (pos len k : Nat) (hk : k < 64) :
    (BitVec.ofNat 64 (d.toNat - d.toNat / 2 ^ pos % 2 ^ len * 2 ^ pos + a.toNat % 2 ^ len * 2 ^ pos)).getLsbD k =
      if pos ≤ k ∧ k < pos + len then a.getLsbD (k - pos) else d.getLsbD k := by
  rw [BitVec.getLsbD_ofNat, testBit_replace_field, decide_eq_true hk, Bool.true_and, BitVec.testBit_toNat,
    BitVec.testBit_toNat]

/-- A field form takes the two 64-bit types only. -/
theorem ok_field_type {f : ImmF} (h : f.ok kss00 0xc0 = true) : f.t1 = 6 ∨ f.t1 = 7 := by
  have hty : (0xc0 : Nat).testBit f.t1.toNat = true := by
    simp only [ImmF.ok, Bool.and_eq_true] at h
    exact h.2
  revert hty
  generalize f.t1 = t
  revert t
  decide

theorem wf_field {f : ImmF} (h : wf (.bext f) = true ∨ wf (.bins f) = true) :
    bits f.imm 5 0 + (bits f.imm 11 6 + 1) ≤ 64 ∧ (f.t1 = 6 ∨ f.t1 = 7) := by
  have h : wf (.bext f) = true := h.elim id id
  simp only [wf, Bool.and_eq_true, decide_eq_true_eq] at h
  obtain ⟨⟨⟨hok, -⟩, hend⟩, -⟩ := h
  exact ⟨hend, ok_field_type hok⟩

theorem toNat_extractLsb'_pos (f : ImmF) : (f.imm.extractLsb' 0 6).toNat = bits f.imm 5 0 := BitVec.extractLsb'_toNat ..
theorem toNat_extractLsb'_len (f : ImmF) : (f.imm.extractLsb' 6 6).toNat = bits f.imm 11 6 := BitVec.extractLsb'_toNat ..

/-- Settles O11: the counts place the highest and the lowest one, and the field forms move bits one by one. -/
theorem bitOperations : Obligations.BitOperations := by
  unfold Obligations.BitOperations
  refine ⟨fun f s => ⟨fun h => ?_, fun h => ?_, fun h => ?_⟩, fun f s => ?_⟩
  · refine ⟨_, countReg_ready h f clzN, fun h0 => ?_, fun h0 => clzN_bounds h0 (lowW_lt _ _)⟩
    rw [h0, clzN_zero]
  · refine ⟨_, countReg_ready h f (fun a w => ctzN a w 0), fun h0 => ?_, fun h0 => ?_⟩
    · rw [h0, ctzN_zero]
    · simpa using ctzN_bounds (k := 0) h0 (Nat.mod_one _) (by simpa using lowW_lt _ _)
  · rw [← popN_eq_countP]
    exact countReg_ready h f popN
  · simp only [toNat_extractLsb'_pos, toNat_extractLsb'_len]
    refine ⟨wf_field, fun hwf h => ⟨_, issue_sResult h _ _, fun k hk => ?_⟩,
      fun _ h => ⟨_, issue_sResult h _ _, fun k hk => ?_⟩⟩
    · have hsigned : isSigned f.t1.toNat = (f.t1 == 6) := by
        obtain ⟨-, ht | ht⟩ := wf_field (Or.inl hwf) <;> rw [ht] <;> rfl
      rw [getLsbD_extract _ _ _ _ k (Nat.succ_pos _) hk, hsigned]
    · exact getLsbD_insert _ _ _ _ k hk

/-! ### Conditions (R108, R109) -/

/-- The model's compare decides R109's condition on the operands as their type reads them. -/
theorem condInt_iff (cc t a b : Nat) : condInt cc t a b = true ↔ condHolds cc (intVal t a) (intVal t b) a b := by
  match cc with
  | 0 | 1 | 2 | 3 | 4 | 5 | 6 => simp [condInt, condHolds]
  | _ + 7 => simp [condInt, condHolds]

/-- The immediate of CMPI is the low W bits of its sign extension (R109). -/
theorem immW_eq_lowW (t : Nat) (f : ImmF) : immW t f = lowW t (f.imm.signExtend 64) := by
  rw [immW, sext64, BitVec.ofNat_toNat, BitVec.setWidth_eq, lowW]

/-- Settles O12: SEL's arm is R108 itself, and the compares decide R109. -/
theorem conditionsChoose : Obligations.ConditionsChoose := by
  unfold Obligations.ConditionsChoose
  refine ⟨fun f s h => issue_sResult h _ _, fun f s h => ⟨_, condInt_iff _ _ _ _, issue_pend h _ _ _⟩,
    fun f s h => ⟨_, ?_, issue_pend h _ _ _⟩⟩
  rw [immW_eq_lowW]
  exact condInt_iff _ _ _ _

end Sys2Proof.Proofs
end

section
/-! SUPPORT. Proofs of chapter 7's statements on bitwise forms, permutes and conditional streams (R152, R155, R158, R159,
R165 to R169). -/

namespace Sys2Proof.Proofs

open Sys2Proof Sys2Proof.Machine Sys2Proof.Laws

/-! ### The pipe and the end of a vector form (R146, R149) -/

/-- Occupying a pipe changes nothing but a pipe of the tile. -/
theorem occupyFor_ok {s u : State} {n : Nat} {double : Bool} (h : s.occupyFor n double = .ok u) :
    ∃ pipes, u = s.setMyTile { s.myTile with pipes := pipes } := by
  unfold State.occupyFor at h
  split at h
  · cases h
  · dsimp only at h
    split at h
    · cases h
    · exact ⟨_, (Except.ok.inj h).symm⟩

theorem myCtx_setMyTile {s : State} {t : Tile} : (s.setMyTile t).myCtx = t.ctx s.iss.ctx := by
  change ((s.setMyTile t).myTile).ctx s.iss.ctx = _
  rw [myTile_setMyTile]

/-- A tile with the same contexts put back leaves the issuing context as it was. -/
theorem myCtx_setMyTile_of_ctxs {s : State} {t : Tile} (h : t.ctxs = s.myTile.ctxs) : (s.setMyTile t).myCtx = s.myCtx := by
  rw [myCtx_setMyTile, Tile.ctx, h]
  rfl

theorem occupy_myCtx {s u : State} {double : Bool} (h : s.occupy double = .ok u) : u.myCtx = s.myCtx := by
  obtain ⟨_, rfl⟩ := occupyFor_ok h
  exact myCtx_setMyTile_of_ctxs rfl

theorem occupy_iss {s u : State} {double : Bool} (h : s.occupy double = .ok u) : u.iss = s.iss := by
  obtain ⟨_, rfl⟩ := occupyFor_ok h
  rfl

/-- A ready form that puts no more than one result in flight goes on to the next instruction (R253). -/
theorem issue_done {i : Instr} {s t : State} (h : Ready i s) (ht : t.myCtx.count ≤ s.myCtx.count + 1) :
    issue i s (.ok t) = .next t.complete := by
  have ⟨_, _, _, hcount⟩ := h
  rw [issue_ready h, finish_ok (overFull_of_le (by omega))]

theorem issue_pend_of_myCtx {i : Instr} {s u : State} (h : Ready i s) (hu : u.myCtx = s.myCtx) (r : Write) (lat : Nat) :
    issue i s (.ok (u.pend r none lat)) = .next (u.pend r none lat).complete :=
  issue_done h (by rw [count_pend, hu])

theorem issue_trap {i : Instr} {s : State} (h : Ready i s) {cause : Nat} (hc : cause ≠ cSOFT_TRAP) :
    issue i s (trap s cause) = .next (s.trapped s cause 0) := by
  rw [issue_ready h]
  exact finish_trap s s 0 hc

theorem vWidth_ok {s : State} {t : Nat} {sub : Bool} (h : width t = s.shapeW ∨ sub = true ∧ width t < s.shapeW) :
    s.vWidth t sub = .ok () := by
  have hcond : (width t == s.shapeW || (sub && decide (width t < s.shapeW))) = true := by simpa using h
  rw [State.vWidth, hcond]
  rfl

/-- An elementwise form with a legal width puts its sub-elements in flight. -/
theorem vMap_ready {i : Instr} {f : RegF} {s u : State} {sub double : Bool} {lat : Nat} {g : Nat → Nat} (h : Ready i s)
    (hw : width f.t1.toNat = s.shapeW ∨ sub = true ∧ width f.t1.toNat < s.shapeW) (hu : s.occupy double = .ok u) :
    vMap i f s sub double lat g = .next (u.pend (vPut f.d (width f.t1.toNat)
      (subs (s.shapeW / width f.t1.toNat) (s.actives f.pr.toNat)) g) none lat).complete := by
  rw [← issue_pend_of_myCtx h (occupy_myCtx hu), vMap, vWidth_ok hw, hu]
  rfl

/-! ### Elements as bits -/

theorem testBit_elem (w v e j : Nat) : (elem w v e).testBit j = (decide (j < w) && v.testBit (w * e + j)) :=
  testBit_field ..

theorem testBit_beyond_width {x w j : Nat} (hx : x < 2 ^ w) (hj : ¬j < w) : x.testBit j = false :=
  Nat.testBit_lt_two_pow (Nat.lt_of_lt_of_le hx (Nat.pow_le_pow_right (by decide) (Nat.le_of_not_lt hj)))

theorem elem_lt (w v e : Nat) : elem w v e < 2 ^ w := Nat.mod_lt _ (Nat.two_pow_pos _)

/-- The bits of element `e` are those at the positions that its width divides into `e` times. -/
theorem mem_field_iff {w : Nat} (hw : 0 < w) (e k : Nat) : (w * e ≤ k ∧ k < w * e + w) ↔ k / w = e := by
  rw [Nat.div_eq_iff hw, Nat.mul_comm w e]
  omega

/-- Distinct elements of width `w` added at their places do not overlap: each bit is a bit of its own element. -/
theorem testBit_sum_fields {w : Nat} (hw : 0 < w) {es : List Nat} (hnodup : es.Nodup) {g : Nat → Nat}
    (hg : ∀ e ∈ es, g e < 2 ^ w) (k : Nat) :
    (es.foldl (fun v e => v + g e * 2 ^ (w * e)) 0).testBit k = (decide (k / w ∈ es) && (g (k / w)).testBit (k % w)) := by
  induction es using List.reverseRecOn generalizing k with
  | nil => simp
  | append_singleton es e ih =>
    obtain ⟨hes, -, hnot⟩ := List.nodup_append.mp hnodup
    have hfree : ∀ e' ∈ es, e' ≠ e := fun e' he' => hnot e' he' e (List.mem_singleton_self e)
    replace ih := ih hes fun e' he' => hg e' (List.mem_append_left _ he')
    rw [List.foldl_append, List.foldl_cons, List.foldl_nil]
    generalize es.foldl (fun v e => v + g e * 2 ^ (w * e)) 0 = v at ih ⊢
    have hzero : v / 2 ^ (w * e) % 2 ^ w = 0 := by
      refine Nat.eq_of_testBit_eq fun j => ?_
      rw [testBit_field, Nat.zero_testBit, Bool.and_eq_false_imp, decide_eq_true_eq]
      intro hj
      have hdiv : (w * e + j) / w = e := (mem_field_iff hw e _).mp (by omega)
      have hmem : e ∉ es := fun he => hfree e he rfl
      rw [ih, hdiv, decide_eq_false hmem, Bool.false_and]
    have hput := testBit_replace_field v (g e) (w * e) w k
    simp only [hzero, Nat.zero_mul, Nat.sub_zero, Nat.mod_eq_of_lt (hg e (by simp)), mem_field_iff hw] at hput
    rw [hput, ih]
    by_cases hk : k / w = e
    · have hpos : k - w * e = k % w := by rw [Nat.mod_def, hk]
      simp [hk, hpos]
    · simp [hk]

/-! ### Landing a vector result (R149) -/

/-- A vector result on its register, bit by bit: a listed element takes its value, every other one stays. -/
theorem testBit_land_vPut (c : Ctx) (exe : Bool) (d : BitVec 8) {w : Nat} (hw : 0 < w) {es : List Nat} (hnodup : es.Nodup)
    {g : Nat → Nat} (hg : ∀ e ∈ es, g e < 2 ^ w) {k : Nat} (hk : k < 16384) :
    (SMap.get 0 (c.land exe (vPut d w es g)).v (num d)).toNat.testBit k =
      if k / w ∈ es then (g (k / w)).testBit (k % w) else (SMap.get 0 c.v (num d)).toNat.testBit k := by
  have hmask : ∀ e ∈ es, 2 ^ w - 1 < 2 ^ w := fun _ _ => Nat.sub_one_lt (Nat.two_pow_pos w).ne'
  simp only [Ctx.land, vPut, get_set_same, BitVec.testBit_toNat, BitVec.getLsbD_ofNat, decide_eq_true hk, Bool.true_and,
    Nat.testBit_or, Nat.testBit_xor, Nat.testBit_and, testBit_sum_fields hw hnodup hg,
    testBit_sum_fields hw hnodup (g := fun _ => 2 ^ w - 1) hmask, Nat.testBit_two_pow_sub_one, Nat.mod_lt k hw, decide_true,
    Bool.and_true]
  by_cases hin : k / w ∈ es <;> simp [hin]

theorem testBit_velem (c : Ctx) (w : Nat) (r : BitVec 8) (e j : Nat) :
    (c.velem w r e).testBit j = (decide (j < w) && (SMap.get 0 c.v (num r)).toNat.testBit (w * e + j)) :=
  testBit_elem ..

theorem velem_myCtx (s : State) (w : Nat) (r : BitVec 8) (e : Nat) : s.myCtx.velem w r e = elem w (s.vreg r) e := rfl

/-- A vector result on its register, element by element. -/
theorem velem_land_vPut (c : Ctx) (exe : Bool) (d : BitVec 8) {w : Nat} (hw : 0 < w) {es : List Nat} (hnodup : es.Nodup)
    {g : Nat → Nat} (hg : ∀ e ∈ es, g e < 2 ^ w) {e : Nat} (he : w * (e + 1) ≤ 16384) :
    (c.land exe (vPut d w es g)).velem w d e = if e ∈ es then g e else c.velem w d e := by
  refine Nat.eq_of_testBit_eq fun j => ?_
  rw [Nat.mul_succ] at he
  by_cases hj : j < w
  · have hdiv : (w * e + j) / w = e := (mem_field_iff hw e _).mp (by omega)
    rw [testBit_velem, testBit_land_vPut c exe d hw hnodup hg (by omega), hdiv, Nat.mul_add_mod, Nat.mod_eq_of_lt hj]
    split <;> simp [testBit_velem, hj]
  · rw [testBit_velem, decide_eq_false hj, Bool.false_and]
    split
    · next hmem => exact (testBit_beyond_width (hg e hmem) hj).symm
    · rw [testBit_velem, decide_eq_false hj, Bool.false_and]

/-! ### The active elements (R146, R148) -/

theorem mem_actives (s : State) (pr e : Nat) : e ∈ s.actives pr ↔ e < s.shapeN ∧ bit (s.myCtx.pred pr) e = true := by
  simp [State.actives]

theorem actives_sorted (s : State) (pr : Nat) : (s.actives pr).Pairwise (· < ·) := List.pairwise_lt_range.filter _

theorem actives_nodup (s : State) (pr : Nat) : (s.actives pr).Nodup := List.nodup_range.filter _

theorem mem_subs {k : Nat} (hk : 0 < k) (es : List Nat) (q : Nat) : q ∈ subs k es ↔ q / k ∈ es := by
  simp only [subs, List.mem_flatMap, List.mem_map, List.mem_range]
  constructor
  · rintro ⟨e, he, x, hx, rfl⟩
    rwa [Nat.mul_comm, Nat.mul_add_div hk, Nat.div_eq_of_lt hx]
  · exact fun h => ⟨q / k, h, q % k, Nat.mod_lt q hk, Nat.div_add_mod' q k⟩

theorem subs_nodup (k : Nat) {es : List Nat} (h : es.Nodup) : (subs k es).Nodup := by
  refine List.nodup_flatMap.mpr ⟨fun e _ => List.nodup_range.map fun x y hxy => Nat.add_left_cancel hxy, h.imp ?_⟩
  intro a b hab q ha hb
  simp only [List.mem_map, List.mem_range] at ha hb
  obtain ⟨x, hx, rfl⟩ := ha
  obtain ⟨y, hy, heq⟩ := hb
  have hk : 0 < k := by omega
  have hdiv := congrArg (· / k) heq
  simp only [Nat.mul_comm _ k, Nat.mul_add_div hk, Nat.div_eq_of_lt hx, Nat.div_eq_of_lt hy, Nat.add_zero] at hdiv
  exact hab hdiv.symm

@[simp] theorem subs_one (es : List Nat) : subs 1 es = es := by
  simp [subs]

theorem shapeW_pos (s : State) : 0 < s.shapeW := Nat.mul_pos (by decide) (Nat.two_pow_pos _)

/-! ### Bitwise forms and selection (R152, R155) -/

/-- An operation on numbers of w bits that acts on each bit by itself. -/
def ActsBitwise (op : Nat → Nat → Nat → Nat) : Prop :=
  ∃ onBit : Bool → Bool → Bool, ∀ w x y j, x < 2 ^ w → y < 2 ^ w →
    (op w x y).testBit j = (decide (j < w) && onBit (x.testBit j) (y.testBit j))

/-- Beyond the operands' width an operation that makes a zero bit of two zero bits gives zeros. -/
theorem actsBitwise_of_testBit {op : Nat → Nat → Nat → Nat} (onBit : Bool → Bool → Bool) (hzero : onBit false false = false)
    (h : ∀ w x y j, (op w x y).testBit j = onBit (x.testBit j) (y.testBit j)) : ActsBitwise op := by
  refine ⟨onBit, fun w x y j hx hy => ?_⟩
  rw [h]
  by_cases hj : j < w
  · rw [decide_eq_true hj, Bool.true_and]
  · rw [testBit_beyond_width hx hj, testBit_beyond_width hy hj, hzero, decide_eq_false hj, Bool.false_and]

theorem actsBitwise_not : ActsBitwise (fun w a _ => 2 ^ w - 1 - a) := by
  refine ⟨fun a _ => !a, fun w x y j hx _ => ?_⟩
  have hsub : 2 ^ w - 1 - x = 2 ^ w - (x + 1) := by omega
  dsimp only
  rw [hsub, Nat.testBit_two_pow_sub_succ hx]

theorem ActsBitwise.lt_two_pow {op : Nat → Nat → Nat → Nat} (h : ActsBitwise op) {w x y : Nat} (hx : x < 2 ^ w)
    (hy : y < 2 ^ w) : op w x y < 2 ^ w := by
  obtain ⟨onBit, hbit⟩ := h
  refine Nat.lt_pow_two_of_testBit _ fun j hj => ?_
  rw [hbit w x y j hx hy, decide_eq_false (Nat.not_lt.mpr hj), Bool.false_and]

/-- The types i8 to n32 of a bitwise form: their width is one of VSHAPE's. -/
theorem width_of_bitwise_type {f : RegF} {k : Kinds} (h : f.ok k 0x3f true = true) :
    ∃ n, width f.t1.toNat = 8 * 2 ^ n := by
  suffices hle : ∃ n ≤ 2, width f.t1.toNat = 8 * 2 ^ n by
    obtain ⟨n, -, hn⟩ := hle
    exact ⟨n, hn⟩
  have hty : (0x3f : Nat).testBit f.t1.toNat = true := by
    simp only [RegF.ok, Bool.and_eq_true] at h
    exact h.1.2
  revert hty
  generalize f.t1 = t
  revert t
  decide

/-- What a bitwise form is: its operation acts bit by bit, and its arm applies it to the sub-elements of its type. -/
theorem bitwise_eq_some {i : Instr} {f : RegF} {op : Nat → Nat → Nat → Nat} (h : bitwise i = some (f, op)) :
    ActsBitwise op ∧ (wf i = true → ∃ n, width f.t1.toNat = 8 * 2 ^ n) ∧
      ∀ s, Machine.exec i s = vMap i f s true false 4 fun q =>
        op (width f.t1.toNat) (elem (width f.t1.toNat) (s.vreg f.a) q) (elem (width f.t1.toNat) (s.vreg f.b) q) := by
  unfold bitwise at h
  split at h <;> cases h
  all_goals refine ⟨?_, fun hwf => width_of_bitwise_type (Bool.and_eq_true_iff.mp hwf).1, fun _ => rfl⟩
  · exact actsBitwise_of_testBit (· && ·) rfl fun _ _ _ _ => Nat.testBit_and ..
  · exact actsBitwise_of_testBit (· || ·) rfl fun _ _ _ _ => Nat.testBit_or ..
  · exact actsBitwise_of_testBit (· ^^ ·) rfl fun _ _ _ _ => Nat.testBit_xor ..
  · exact actsBitwise_not

/-- The sub-elements of an element are its bits (R146): what a bitwise operation gives on the one it gives on the other. -/
theorem velem_land_subs (c : Ctx) (exe : Bool) (d : BitVec 8) {w W : Nat} (hW : 0 < W) (hdvd : w ∣ W) {es : List Nat}
    (hnodup : es.Nodup) {op : Nat → Nat → Nat → Nat} (hop : ActsBitwise op) (x y : Nat) {e : Nat} (he : W * (e + 1) ≤ 16384) :
    (c.land exe (vPut d w (subs (W / w) es) fun q => op w (elem w x q) (elem w y q))).velem W d e =
      if e ∈ es then op W (elem W x e) (elem W y e) else c.velem W d e := by
  have hw : 0 < w := Nat.pos_of_dvd_of_pos hdvd hW
  have hk : 0 < W / w := Nat.div_pos (Nat.le_of_dvd hW hdvd) hw
  have ⟨onBit, hbit⟩ := hop
  refine Nat.eq_of_testBit_eq fun j => ?_
  rw [Nat.mul_succ] at he
  by_cases hj : j < W
  · have hsub : (W * e + j) / w / (W / w) = e := by
      rw [Nat.div_div_eq_div_mul, Nat.mul_div_cancel' hdvd]
      exact (mem_field_iff hW e _).mp (by omega)
    have hrem : (W * e + j) % w < w := Nat.mod_lt _ hw
    have hmem : (W * e + j) / w ∈ subs (W / w) es ↔ e ∈ es := by rw [mem_subs hk, hsub]
    rw [testBit_velem, decide_eq_true hj, Bool.true_and,
      testBit_land_vPut c exe d hw (subs_nodup _ hnodup) (fun q _ => hop.lt_two_pow (elem_lt ..) (elem_lt ..)) (by omega),
      if_congr hmem rfl rfl]
    split
    · simp only [hbit _ _ _ _ (elem_lt ..) (elem_lt ..), testBit_elem, hrem, hj, Nat.div_add_mod]
    · rw [testBit_velem, decide_eq_true hj, Bool.true_and]
  · rw [testBit_velem, decide_eq_false hj, Bool.false_and]
    split
    · rw [hbit _ _ _ _ (elem_lt ..) (elem_lt ..), decide_eq_false hj, Bool.false_and]
    · rw [testBit_velem, decide_eq_false hj, Bool.false_and]

/-- A type no wider than the shape's elements divides them: both widths are 8 times a power of two. -/
theorem width_dvd_shapeW {s : State} {w n : Nat} (hw : w = 8 * 2 ^ n) (hle : w ≤ s.shapeW) : w ∣ s.shapeW := by
  subst hw
  rw [State.shapeW, vsWidth] at hle ⊢
  have hpow : n ≤ bits s.myCtx.vshape 13 12 :=
    (Nat.pow_le_pow_iff_right (by decide)).mp (Nat.le_of_mul_le_mul_left hle (by decide))
  exact Nat.mul_dvd_mul_left 8 (Nat.pow_dvd_pow 2 hpow)

/-- Settles O28: a bitwise operation acts on sub-elements as on the elements that they make up, and VSEL moves whole ones. -/
theorem vectorBits : Obligations.VectorBits := by
  unfold Obligations.VectorBits
  refine ⟨fun i f op s u hform hwf hready _ hle hu => ?_, fun f s u hready _ hw hu => ?_⟩
  · obtain ⟨hop, hwidth, hexec⟩ := bitwise_eq_some hform
    obtain ⟨n, hn⟩ := hwidth hwf
    have hsub := hle.eq_or_lt.imp_right (And.intro (rfl : true = true))
    refine ⟨_, (hexec s).trans (vMap_ready hready hsub hu), fun e he => ?_⟩
    rw [velem_land_subs _ _ _ (shapeW_pos s) (width_dvd_shapeW hn hle) (actives_nodup s _) hop _ _ he]
    exact if_congr (mem_actives ..) rfl rfl
  · refine ⟨_, vMap_ready hready (.inl hw) hu, fun e he => ?_⟩
    rw [hw, Nat.div_self (shapeW_pos s), subs_one, velem_land_vPut _ _ _ (shapeW_pos s) (actives_nodup s _) ?_ he]
    · exact if_congr (mem_actives ..) rfl rfl
    · intro q _
      split <;> exact elem_lt ..

/-! ### Permutes (R158, R159) -/

theorem legal_ok {s : State} {b : Bool} (h : b = true) : legal s b = .ok () := if_pos h

theorem legal_trap {s : State} {b : Bool} (h : b = false) : legal s b = trap s cILLOP := by
  rw [legal, h]
  rfl

/-- Every element of a legal shape lies in the register (R20). -/
theorem elem_in_register {s : State} (h : vsOk s.myCtx.vshape = true) {e : Nat} (he : e < s.shapeN) :
    s.shapeW * (e + 1) ≤ 16384 := by
  have hbytes : s.shapeN * 2 ^ bits s.myCtx.vshape 13 12 ≤ 2048 := by
    simp only [vsOk, Bool.and_eq_true, decide_eq_true_eq, vsWidth, Nat.mul_div_cancel_left _ (by decide : 0 < 8)] at h
    exact h.2
  calc s.shapeW * (e + 1) ≤ s.shapeW * s.shapeN := Nat.mul_le_mul_left _ he
    _ = 8 * (s.shapeN * 2 ^ bits s.myCtx.vshape 13 12) := by
      rw [State.shapeW, vsWidth, Nat.mul_assoc, Nat.mul_comm (2 ^ _)]
    _ ≤ 16384 := by omega

/-- The transposed position of an element is one of the shape's. -/
theorem transposed_lt {s : State} {i j : Nat} (hi : i < s.shapeR) (hj : j < s.shapeC) : j * s.shapeR + i < s.shapeN := by
  calc j * s.shapeR + i < (j + 1) * s.shapeR := by rw [Nat.succ_mul]; omega
    _ ≤ s.shapeC * s.shapeR := Nat.mul_le_mul_right _ hj
    _ = s.shapeN := Nat.mul_comm _ _

/-- A form with a limit on the shape, within it (R158, R159): its result is put in flight. -/
theorem limited_ready {i : Instr} {s u : State} {t : Nat} {b : Bool} {r : Write} {lat : Nat} (h : Ready i s)
    (hw : width t = s.shapeW) (hb : b = true) (hu : s.occupy false = .ok u) :
    issue i s (do
      s.vWidth t false
      legal s b
      let u ← s.occupy false
      pure (u.pend r none lat)) = .next (u.pend r none lat).complete := by
  rw [vWidth_ok (.inl hw), legal_ok hb, hu]
  exact issue_pend_of_myCtx h (occupy_myCtx hu) r lat

/-- Beyond its limit it takes ILLOP, before it occupies a pipe. -/
theorem limited_illop {i : Instr} {s : State} {t : Nat} {b : Bool} {k : R State} (h : Ready i s) (hw : width t = s.shapeW)
    (hb : b = false) :
    issue i s (do
      s.vWidth t false
      legal s b
      k) = .next (s.trapped s cILLOP 0) := by
  rw [vWidth_ok (.inl hw), legal_trap hb]
  exact issue_trap h (by decide)

/-- Settles O30: both forms put elements of the source at their places, within the register, or take ILLOP at their limit. -/
theorem vectorPermutes : Obligations.VectorPermutes := by
  unfold Obligations.VectorPermutes
  refine ⟨fun f s hready hvs hw => ⟨fun u hc hu => ?_, fun hc => limited_illop hready hw (decide_eq_false (Nat.not_le.mpr hc))⟩,
    fun f s hready hvs hw => ⟨fun u hn hu => ?_, fun hn => limited_illop hready hw (decide_eq_false (Nat.not_le.mpr hn))⟩⟩
  · refine ⟨_, limited_ready hready hw (decide_eq_true hc) hu, fun i j hi hj => ?_⟩
    have hpos := transposed_lt hi hj
    have hr : 0 < s.shapeR := Nat.zero_lt_of_lt hi
    have hrow : (j * s.shapeR + i) % s.shapeR = i := by rw [Nat.mul_comm, Nat.mul_add_mod, Nat.mod_eq_of_lt hi]
    have hcol : (j * s.shapeR + i) / s.shapeR = j := by
      rw [Nat.mul_comm, Nat.mul_add_div hr, Nat.div_eq_of_lt hi, Nat.add_zero]
    rw [hw, velem_land_vPut _ _ _ (shapeW_pos s) List.nodup_range (fun _ _ => elem_lt ..) (elem_in_register hvs hpos),
      if_pos (List.mem_range.mpr hpos), hrow, hcol, velem_myCtx]
  · refine ⟨_, limited_ready hready hw (decide_eq_true hn) hu, fun e he => ?_⟩
    rw [hw, velem_land_vPut _ _ _ (shapeW_pos s) (actives_nodup s _) ?_ he]
    · exact if_congr (mem_actives ..) rfl rfl
    · intro q _
      dsimp only
      split
      · exact elem_lt ..
      · exact Nat.two_pow_pos _

/-! ### The lanes of a stream buffer (R165) -/

@[simp] theorem setLane_ctxs (t : Tile) (w l : Nat) (x : List (BitVec 32)) : (t.setLane w l x).ctxs = t.ctxs := rfl

/-- The lanes below 128 of the eight buffers are places of their own. -/
theorem lane_setLane (t : Tile) {w w' l l' : Nat} (hl : l < 128) (hl' : l' < 128) (x : List (BitVec 32)) :
    (t.setLane w l x).lane w' l' = if w = w' ∧ l = l' then x else t.lane w' l' := by
  have hkey : w * 128 + l = w' * 128 + l' ↔ w = w' ∧ l = l' := by omega
  rw [Tile.setLane, Tile.lane, get_set]
  exact if_congr hkey rfl rfl

theorem lane_setLane_same (t : Tile) (w : Nat) {l l' : Nat} (hl : l < 128) (hl' : l' < 128) (x : List (BitVec 32)) :
    (t.setLane w l x).lane w l' = if l = l' then x else t.lane w l' := by
  simp [lane_setLane t hl hl']

theorem lane_setLane_other (t : Tile) {w w' l l' : Nat} (hl : l < 128) (hl' : l' < 128) (hw : w ≠ w')
    (x : List (BitVec 32)) : (t.setLane w l x).lane w' l' = t.lane w' l' := by
  simp [lane_setLane t hl hl', hw]

/-- What every step of a fold leaves is left by the fold. -/
theorem foldl_keeps {α β γ : Type} (p : β → γ) {f : β → α → β} (h : ∀ b a, p (f b a) = p b) (l : List α) (b : β) :
    p (l.foldl f b) = p b := by
  induction l generalizing b with
  | nil => rfl
  | cons a l ih => rw [List.foldl_cons, ih, h]

theorem mod_lanes_lt (e : Nat) : e % 128 < 128 := Nat.mod_lt _ (by decide)

/-! ### How a stream form ends (R169) -/

/-- Completing an instruction leaves the buffers. -/
theorem lane_complete (s : State) (w l : Nat) : s.complete.myTile.lane w l = s.myTile.lane w l := by
  change (s.setMe { s.me with wait := none }).myTile.lane w l = _
  rw [State.setMe, myTile_setMyCtx]
  rfl

theorem inflight_complete (s : State) : s.complete.myCtx.inflight = s.myCtx.inflight := by
  change (s.setMe { s.me with wait := none }).myCtx.inflight = _
  rw [myCtx_setMe, ctx_setStream_inflight]

theorem lane_complete_setMyTile (s : State) (t : Tile) (w l : Nat) :
    (s.setMyTile t).complete.myTile.lane w l = t.lane w l := by
  rw [lane_complete, myTile_setMyTile]

theorem lane_pend (s : State) (r : Write) (h : Option (Bool × Word)) (n w l : Nat) :
    (s.pend r h n).myTile.lane w l = s.myTile.lane w l := by
  rw [State.pend, myTile_setMyCtx]
  rfl

/-- A form that changes only the buffers of its tile goes on. -/
theorem issue_setMyTile {i : Instr} {s u : State} {t : Tile} (h : Ready i s) (hu : u.myCtx = s.myCtx)
    (ht : t.ctxs = u.myTile.ctxs) : issue i s (.ok (u.setMyTile t)) = .next (u.setMyTile t).complete :=
  issue_done h (by rw [myCtx_setMyTile_of_ctxs ht, hu]; exact Nat.le_succ _)

/-! ### CSPUSH (R166) -/

/-- Append the record of an element to its lane. -/
def pushRecord (w : Nat) (g : Nat → BitVec 32) (t : Tile) (e : Nat) : Tile :=
  t.setLane w (e % 128) (t.lane w (e % 128) ++ [g e])

theorem execCspush_eq (f : RegF) (s : State) :
    Machine.exec (.cspush f) s = issue (.cspush f) s (do
      s.vWidth f.t1.toNat false
      let u ← s.occupy false
      let t := (s.actives f.pr.toNat).foldl (pushRecord (num f.d) fun e => BitVec.ofNat 32 (elem 32 (s.vreg f.a) e)) u.myTile
      if (List.range 128).any (fun l => 16 < (t.lane (num f.d) l).length) then trap s cSTREAM_FULL
      else pure (u.setMyTile t)) := rfl

/-- Each lane of the buffer receives the records of its own elements, in the order of the elements. -/
theorem lane_foldl_pushRecord (w : Nat) (g : Nat → BitVec 32) (es : List Nat) (t : Tile) {l : Nat} (hl : l < 128) :
    (es.foldl (pushRecord w g) t).lane w l = t.lane w l ++ (es.filter fun e => e % 128 == l).map g := by
  induction es generalizing t with
  | nil => simp
  | cons e es ih =>
    rw [List.foldl_cons, ih, pushRecord, lane_setLane_same t w (mod_lanes_lt e) hl, List.filter_cons]
    by_cases he : e % 128 = l <;> simp [he]

theorem lane_foldl_pushRecord_other {w x : Nat} (hx : x ≠ w) (g : Nat → BitVec 32) (es : List Nat) (t : Tile) {l : Nat}
    (hl : l < 128) : (es.foldl (pushRecord w g) t).lane x l = t.lane x l :=
  foldl_keeps (fun t => t.lane x l) (fun _ e => lane_setLane_other _ (mod_lanes_lt e) hl hx.symm _) es t

theorem ctxs_foldl_pushRecord (w : Nat) (g : Nat → BitVec 32) (es : List Nat) (t : Tile) :
    (es.foldl (pushRecord w g) t).ctxs = t.ctxs :=
  foldl_keeps Tile.ctxs (f := pushRecord w g) (fun _ _ => rfl) es t

theorem any_overfull_eq_false {n : Nat → Nat} : (List.range 128).any (fun l => 16 < n l) = false ↔ ∀ l, l < 128 → n l ≤ 16 := by
  simp

theorem any_overfull_eq_true {n : Nat → Nat} : (List.range 128).any (fun l => 16 < n l) = true ↔ ∃ l, l < 128 ∧ 16 < n l := by
  simp

/-- CSPUSH with room in every lane. -/
theorem execCspush_ready {f : RegF} {s u : State} (h : Ready (.cspush f) s) (hw : width f.t1.toNat = s.shapeW)
    (hu : s.occupy false = .ok u) {t : Tile} (ht : (s.actives f.pr.toNat).foldl (pushRecord (num f.d) fun e =>
      BitVec.ofNat 32 (elem 32 (s.vreg f.a) e)) u.myTile = t) (hroom : ∀ l, l < 128 → (t.lane (num f.d) l).length ≤ 16) :
    Machine.exec (.cspush f) s = .next (u.setMyTile t).complete := by
  have hctxs : t.ctxs = u.myTile.ctxs := ht ▸ ctxs_foldl_pushRecord ..
  rw [← issue_setMyTile h (occupy_myCtx hu) hctxs, execCspush_eq, vWidth_ok (.inl hw), hu]
  simp only [bind, Except.bind, ht, any_overfull_eq_false.mpr hroom]
  rfl

/-- CSPUSH with a lane that would pass 16 records. -/
theorem execCspush_full {f : RegF} {s u : State} (h : Ready (.cspush f) s) (hw : width f.t1.toNat = s.shapeW)
    (hu : s.occupy false = .ok u) {t : Tile} (ht : (s.actives f.pr.toNat).foldl (pushRecord (num f.d) fun e =>
      BitVec.ofNat 32 (elem 32 (s.vreg f.a) e)) u.myTile = t) (hfull : ∃ l, l < 128 ∧ 16 < (t.lane (num f.d) l).length) :
    Machine.exec (.cspush f) s = .next (s.trapped s cSTREAM_FULL 0) := by
  rw [← issue_trap h (cause := cSTREAM_FULL) (by decide), execCspush_eq, vWidth_ok (.inl hw), hu]
  simp only [bind, Except.bind, ht, any_overfull_eq_true.mpr hfull]
  rfl

/-! ### CSPOP (R167) -/

/-- The value of a popped record, 0 for an empty lane. -/
def recordValue (x : Option (BitVec 32)) : Nat := match x with | some x => x.toNat | none => 0

/-- Pop the record of an element from its lane, and list what the element receives. -/
def popRecord (w : Nat) (acc : Tile × List (Nat × Nat)) (e : Nat) : Tile × List (Nat × Nat) :=
  match acc.1.lane w (e % 128) with
  | [] => (acc.1, acc.2 ++ [(e, 0)])
  | x :: xs => (acc.1.setLane w (e % 128) xs, acc.2 ++ [(e, x.toNat)])

theorem execCspop_eq (f : RegF) (s : State) :
    Machine.exec (.cspop f) s = issue (.cspop f) s (do
      s.vWidth f.t1.toNat false
      let u ← s.occupy false
      let es := s.actives f.pr.toNat
      let r := es.foldl (popRecord (num f.a)) (u.myTile, [])
      pure ((u.setMyTile r.1).pend (vPut f.d 32 es (fun e => SMap.get 0 r.2 e)) none 4)) := rfl

theorem lane_popRecord (w : Nat) (acc : Tile × List (Nat × Nat)) (e : Nat) {l : Nat} (hl : l < 128) :
    (popRecord w acc e).1.lane w l = (acc.1.lane w l).drop (if e % 128 = l then 1 else 0) := by
  unfold popRecord
  split
  · next hempty =>
    by_cases he : e % 128 = l
    · subst he
      simp [hempty]
    · simp [he]
  · next hcons =>
    rw [lane_setLane_same _ w (mod_lanes_lt e) hl]
    by_cases he : e % 128 = l
    · subst he
      simp [hcons]
    · simp [he]

theorem list_popRecord (w : Nat) (acc : Tile × List (Nat × Nat)) (e : Nat) :
    (popRecord w acc e).2 = acc.2 ++ [(e, recordValue (acc.1.lane w (e % 128))[0]?)] := by
  unfold popRecord
  split <;> next h => rw [h]; rfl

theorem ctxs_popRecord (w : Nat) (acc : Tile × List (Nat × Nat)) (e : Nat) : (popRecord w acc e).1.ctxs = acc.1.ctxs := by
  unfold popRecord
  split <;> rfl

theorem ctxs_foldl_popRecord (w : Nat) (es : List Nat) (acc : Tile × List (Nat × Nat)) :
    (es.foldl (popRecord w) acc).1.ctxs = acc.1.ctxs :=
  foldl_keeps (fun acc => acc.1.ctxs) (ctxs_popRecord w) es acc

/-- Each lane loses one record for each of its elements. -/
theorem lane_foldl_popRecord (w : Nat) (es : List Nat) (acc : Tile × List (Nat × Nat)) {l : Nat} (hl : l < 128) :
    (es.foldl (popRecord w) acc).1.lane w l = (acc.1.lane w l).drop (es.filter fun x => x % 128 == l).length := by
  induction es generalizing acc with
  | nil => rfl
  | cons e es ih =>
    rw [List.foldl_cons, ih, lane_popRecord w acc e hl, List.drop_drop, List.filter_cons]
    by_cases he : e % 128 = l <;> simp [he, Nat.add_comm]

/-- How many elements of its lane come before an element. -/
def laneRank (es : List Nat) (e : Nat) : Nat := (es.filter fun x => x % 128 == e % 128 && x < e).length

theorem laneRank_cons_self {e : Nat} {es : List Nat} (h : ∀ x ∈ es, e < x) : laneRank (e :: es) e = 0 := by
  rw [laneRank, List.length_eq_zero_iff, List.filter_eq_nil_iff]
  intro x hx
  have hle : e ≤ x := (List.mem_cons.mp hx).elim (fun heq => heq.ge) fun hmem => (h x hmem).le
  simp [Nat.not_lt.mpr hle]

theorem laneRank_cons_of_lt {e e' : Nat} (es : List Nat) (h : e' < e) :
    laneRank (e' :: es) e = (if e' % 128 = e % 128 then 1 else 0) + laneRank es e := by
  rw [laneRank, List.filter_cons]
  by_cases he : e' % 128 = e % 128 <;> simp [he, h, laneRank, Nat.add_comm]

/-- In ascending order of element, an element receives the record at its rank in its lane. -/
theorem list_foldl_popRecord (w : Nat) {es : List Nat} (hsorted : es.Pairwise (· < ·)) (acc : Tile × List (Nat × Nat)) :
    (es.foldl (popRecord w) acc).2 =
      acc.2 ++ es.map fun e => (e, recordValue (acc.1.lane w (e % 128))[laneRank es e]?) := by
  induction es generalizing acc with
  | nil => simp
  | cons e es ih =>
    obtain ⟨hfirst, hrest⟩ := List.pairwise_cons.mp hsorted
    rw [List.foldl_cons, ih hrest, list_popRecord, List.append_assoc, List.map_cons, laneRank_cons_self hfirst,
      List.singleton_append]
    congr 2
    refine List.map_congr_left fun e' he' => ?_
    rw [lane_popRecord w acc e (mod_lanes_lt e'), List.getElem?_drop, laneRank_cons_of_lt es (hfirst e' he')]

theorem get_map_of_mem (g : Nat → Nat) {es : List Nat} {e : Nat} (he : e ∈ es) :
    SMap.get 0 (es.map fun x => (x, g x)) e = g e := by
  induction es with
  | nil => cases he
  | cons x es ih =>
    rw [List.map_cons, SMap.get]
    by_cases hx : x = e
    · simp [hx]
    · simp [hx, ih ((List.mem_cons.mp he).resolve_left (Ne.symm hx))]

theorem execCspop_ready {f : RegF} {s u : State} (h : Ready (.cspop f) s) (hw : width f.t1.toNat = s.shapeW)
    (hu : s.occupy false = .ok u) {r : Tile × List (Nat × Nat)}
    (hr : (s.actives f.pr.toNat).foldl (popRecord (num f.a)) (u.myTile, []) = r) :
    Machine.exec (.cspop f) s =
      .next ((u.setMyTile r.1).pend (vPut f.d 32 (s.actives f.pr.toNat) fun e => SMap.get 0 r.2 e) none 4).complete := by
  have hctxs : r.1.ctxs = u.myTile.ctxs := hr ▸ ctxs_foldl_popRecord ..
  rw [← issue_pend_of_myCtx h ((myCtx_setMyTile_of_ctxs hctxs).trans (occupy_myCtx hu)), execCspop_eq, vWidth_ok (.inl hw),
    hu, ← hr]
  rfl

/-! ### CSBAL (R168) -/

/-- The lanes of a buffer after the first `q` records: one more in each lane below `q` mod 128. -/
def Balanced (t : Tile) (w q : Nat) : Prop := ∀ l, l < 128 → (t.lane w l).length = (q + 127 - l) / 128

theorem balanced_place {t : Tile} {w q : Nat} (h : Balanced t w q) (x : BitVec 32) :
    Balanced (t.setLane w (q % 128) (t.lane w (q % 128) ++ [x])) w (q + 1) := by
  intro l hl
  have hlen := h l hl
  rw [lane_setLane_same t w (mod_lanes_lt q) hl]
  split
  · next hq => subst hq; rw [List.length_append, List.length_singleton, hlen]; omega
  · rw [hlen]; omega

/-- Placing records from number `q` on: the record at depth d of lane l is number d × 128 + l. -/
theorem lane_placeRecords (w : Nat) (xs : List (BitVec 32)) {t : Tile} {q : Nat} (h : Balanced t w q) {l : Nat} (hl : l < 128)
    (d : Nat) : ((placeRecords t w xs q).lane w l)[d]? =
      if d * 128 + l < q then (t.lane w l)[d]? else xs[d * 128 + l - q]? := by
  induction xs generalizing t q with
  | nil =>
    have hlen := h l hl
    rw [placeRecords]
    split
    · rfl
    · rw [List.getElem?_nil, List.getElem?_eq_none]
      omega
  | cons x xs ih =>
    have hlen := h l hl
    rw [placeRecords, ih (balanced_place h x), lane_setLane_same t w (mod_lanes_lt q) hl]
    rcases Nat.lt_trichotomy (d * 128 + l) q with hlt | heq | hgt
    · have hd : d < (t.lane w l).length := by omega
      rw [if_pos (by omega), if_pos hlt]
      split
      · next hq => rw [hq, List.getElem?_append_left hd]
      · rfl
    · have hq : q % 128 = l := by omega
      have hd : d = (t.lane w l).length := by omega
      rw [if_pos (by omega), if_pos hq, if_neg (by omega), hq, heq, Nat.sub_self, hd, List.getElem?_concat_length,
        List.getElem?_cons_zero]
    · have hsucc : d * 128 + l - q = d * 128 + l - (q + 1) + 1 := by omega
      rw [if_neg (by omega), if_neg (by omega), hsucc, List.getElem?_cons_succ]

theorem ctxs_placeRecords (w : Nat) (xs : List (BitVec 32)) (t : Tile) (q : Nat) : (placeRecords t w xs q).ctxs = t.ctxs := by
  induction xs generalizing t q with
  | nil => rfl
  | cons x xs ih => rw [placeRecords, ih, setLane_ctxs]

/-- A tile with every lane of a buffer emptied. -/
def emptied (t : Tile) (w : Nat) : Tile := (List.range 128).foldl (fun (t : Tile) l => t.setLane w l []) t

theorem ctxs_emptied (t : Tile) (w : Nat) : (emptied t w).ctxs = t.ctxs := by
  rw [emptied]
  exact foldl_keeps Tile.ctxs (fun t l => setLane_ctxs t w l []) (List.range 128) t

theorem lane_foldl_empty (t : Tile) (w : Nat) {l : Nat} (hl : l < 128) {ls : List Nat} (hls : ∀ x ∈ ls, x < 128) :
    (ls.foldl (fun (t : Tile) l => t.setLane w l []) t).lane w l = if l ∈ ls then [] else t.lane w l := by
  induction ls generalizing t with
  | nil => rfl
  | cons x ls ih =>
    obtain ⟨hx, hrest⟩ := List.forall_mem_cons.mp hls
    rw [List.foldl_cons, ih _ hrest, lane_setLane_same t w hx hl]
    by_cases hxl : x = l
    · simp [hxl]
    · simp [hxl, Ne.symm hxl]

theorem lane_emptied (t : Tile) (w : Nat) {l : Nat} (hl : l < 128) : (emptied t w).lane w l = [] := by
  rw [emptied, lane_foldl_empty t w hl fun _ => List.mem_range.mp, if_pos (List.mem_range.mpr hl)]

theorem balanced_emptied (t : Tile) (w : Nat) : Balanced (emptied t w) w 0 := by
  intro l hl
  rw [lane_emptied t w hl, List.length_nil]
  omega

/-- The tile after a CSBAL. -/
def rebalanced (t : Tile) (w : Nat) (clr : Bool) : Tile :=
  if clr then emptied t w else placeRecords (emptied t w) w (t.records w) 0

theorem ctxs_rebalanced (t : Tile) (w : Nat) (clr : Bool) : (rebalanced t w clr).ctxs = t.ctxs := by
  cases clr with
  | true => exact ctxs_emptied t w
  | false => exact (ctxs_placeRecords ..).trans (ctxs_emptied t w)

theorem lane_rebalanced (t : Tile) (w : Nat) (clr : Bool) {l : Nat} (hl : l < 128) (d : Nat) :
    ((rebalanced t w clr).lane w l)[d]? = if clr = true then none else (t.records w)[d * 128 + l]? := by
  cases clr with
  | true => exact (congrArg (·[d]?) (lane_emptied t w hl)).trans List.getElem?_nil
  | false => exact lane_placeRecords w (t.records w) (balanced_emptied t w) hl d

theorem execCsbal_ready {f : RegF} {s u : State} (h : Ready (.csbal f) s) (hu : s.occupy false = .ok u) :
    Machine.exec (.csbal f) s = .next (u.setMyTile (rebalanced u.myTile (num f.a) (bit f.m 0))).complete := by
  rw [← issue_setMyTile h (occupy_myCtx hu) (ctxs_rebalanced ..)]
  change execCsbal f s = _
  rw [execCsbal, hu]
  rfl

/-- Settles O33: a push appends to each lane its own elements' records, a pop takes from it the record at each element's rank,
and a balance places the records one after another over the lanes. -/
theorem conditionalStreams : Obligations.ConditionalStreams := by
  unfold Obligations.ConditionalStreams
  refine fun f s u hu => ⟨fun hready hw _ => ⟨fun hroom => ?_, fun hfull => ?_⟩, fun hready hw _ => ?_, fun hready => ?_⟩
  · have hlane := fun (l : Nat) (hl : l < 128) => lane_foldl_pushRecord (num f.d)
      (fun e => BitVec.ofNat 32 (elem 32 (s.vreg f.a) e)) (s.actives f.pr.toNat) u.myTile hl
    refine ⟨_, execCspush_ready hready hw hu rfl fun l hl => ?_, rfl,
      fun l hl => (lane_complete_setMyTile ..).trans (hlane l hl),
      fun x l hx hl => (lane_complete_setMyTile ..).trans (lane_foldl_pushRecord_other hx _ _ _ hl)⟩
    rw [hlane l hl, List.length_append]
    exact hroom l hl
  · obtain ⟨l, hl, hlen⟩ := hfull
    refine execCspush_full hready hw hu rfl ⟨l, hl, ?_⟩
    rwa [lane_foldl_pushRecord _ _ _ _ hl, List.length_append]
  · obtain ⟨r, hr⟩ : ∃ r, (s.actives f.pr.toNat).foldl (popRecord (num f.a)) (u.myTile, []) = r := ⟨_, rfl⟩
    have hctxs : r.1.ctxs = u.myTile.ctxs := hr ▸ ctxs_foldl_popRecord ..
    refine ⟨_, fun e => SMap.get 0 r.2 e, execCspop_ready hready hw hu hr, rfl, ?_, fun e he => ?_, fun l hl => ?_⟩
    · rw [inflight_complete, inflight_pend, setMyTile_iss, occupy_iss hu, myCtx_setMyTile_of_ctxs hctxs]
      rfl
    · rw [← hr, list_foldl_popRecord _ (actives_sorted s _), List.nil_append]
      exact get_map_of_mem (fun e => recordValue (u.myTile.lane (num f.a) (e % 128))[laneRank _ e]?) he
    · rw [← lane_foldl_popRecord _ _ (u.myTile, []) hl, hr]
      exact (lane_complete ..).trans ((lane_pend ..).trans (by rw [myTile_setMyTile]))
  · exact ⟨_, execCsbal_ready hready hu, rfl, fun l d hl =>
      (congrArg (·[d]?) (lane_complete_setMyTile ..)).trans (lane_rebalanced _ _ _ hl d)⟩

end Sys2Proof.Proofs
end
